-- ==== Sys2Proof/Word.lean ====
section
/-! DEFINITION. Words and the operand records of the eight slot formats (spec 03, R24, R25, R30).
A record names every field of its slot format but the opcode, so that no bit of an encoding is lost. -/
namespace Sys2Proof

/-- A scalar register, a control register or a virtual address (R30). -/
abbrev W64 := BitVec 64
/-- A vector register or vector latch (R30). -/
abbrev VReg := BitVec 1024
/-- A predicate register (R30). -/
abbrev Pred := BitVec 128
/-- One byte of memory. -/
abbrev Byte := BitVec 8

/-- The nine slots of a bundle, numbered as the SLOT field of a trap record (R20, R340). -/
inductive Slot where
  | s | va | vb | x | mx | ld | st | tm | sy
  deriving DecidableEq, Repr

/-- Place of a slot in the order of bundle bits, which is also its number in a trap record (R20, R58, R340). -/
def Slot.index : Slot → Nat
  | .s => 0 | .va => 1 | .vb => 2 | .x => 3 | .mx => 4 | .ld => 5 | .st => 6 | .tm => 7 | .sy => 8

/-- What an 8-bit operand field names (R30). -/
inductive Port where
  | s (n : BitVec 6)
  | v (n : BitVec 6)
  | p (n : BitVec 4)
  | tl (n : BitVec 5)
  | iq | fq | aq | bq | xq
  | rq
  | const (k : BitVec 5)
  | none
  | imm
  deriving DecidableEq, Repr

/-- The port code 0x00, which an unused operand field holds (R31). -/
def Port.unused : Port := .s 0

/-- Element types and tile formats (R25). -/
inductive ETy where
  | i8 | i16 | i32 | i64 | n8 | n16 | n32 | n64 | f16 | bf16 | f32 | ta8 | ta6 | sc8
  deriving DecidableEq, Repr

/-- The vector unit of a V64 operation (R20). -/
inductive VUnit where
  | a | b
  deriving DecidableEq, Repr

/-- S64 fields (R24). -/
structure SArgs where
  size : BitVec 2
  dst : Port
  a : Port
  b : Port
  pred : BitVec 4
  neg : Bool
  imm : BitVec 23
  deriving DecidableEq, Repr

/-- V64 fields, with the slot that holds them (R24). -/
structure VArgs where
  unit : VUnit
  width : BitVec 2
  dst : Port
  a : Port
  b : Port
  c : Port
  pred : BitVec 4
  neg : Bool
  ety : ETy
  rnd : BitVec 3
  imm : BitVec 8
  deriving DecidableEq, Repr

/-- X32 fields (R24). -/
structure XArgs where
  width : BitVec 2
  idx : BitVec 4
  src : Port
  dst : Port
  deriving DecidableEq, Repr

/-- M48 fields (R24). -/
structure MArgs where
  imm : BitVec 5
  pred : BitVec 4
  tile : Port
  row : BitVec 8
  map : BitVec 12
  mode : BitVec 3
  deriving DecidableEq, Repr

/-- L64 fields (R24). -/
structure LArgs where
  hint : BitVec 2
  size : BitVec 2
  spec : Bool
  neg : Bool
  pred : BitVec 4
  dist : BitVec 8
  imm : BitVec 12
  shift : BitVec 2
  index : Port
  base : Port
  dst : Port
  deriving DecidableEq, Repr

/-- ST48 fields (R24). -/
structure STArgs where
  pred : BitVec 4
  imm : BitVec 12
  index : Port
  base : Port
  data : Port
  deriving DecidableEq, Repr

/-- T64 fields (R24). -/
structure TArgs where
  fmt : BitVec 4
  pred : BitVec 4
  imm : BitVec 16
  b : Port
  a : Port
  dst : Port
  deriving DecidableEq, Repr

/-- Y48 fields (R24). -/
structure YArgs where
  pred : BitVec 4
  imm : BitVec 20
  b : Port
  a : Port
  deriving DecidableEq, Repr

/-- What an access finds in the error codes of the data or of the line tag (R223, R273). -/
inductive MemErr where
  | clean
  | corrected (bits : Nat)
  | bad
  | tagCorrected
  | tagBad
  deriving DecidableEq, Repr

/-- Where the data of a channel slot comes from: a `chsend` of this module, with DELIV as a peer module's entry then holds it, or an
agent of a peer module (R383). -/
inductive SlotSource where
  | transfer (uid deliv : Nat)
  | peer (agent job ch contributor n : Nat) (data : List Byte)
  deriving DecidableEq, Repr

/-- A line and what an access of it finds in its error codes (R223, R273). -/
structure FoundLine where
  line : Nat
  err : MemErr
  deriving DecidableEq, Repr
/-- A line and the data that a WB of it carries (R220, R222). -/
structure LineData where
  line : Nat
  data : BitVec 1024
  deriving DecidableEq, Repr
/-- The answer of a line's owner to a forward: whether it has written the line, and the data it sends (R220, R222). -/
structure OwnerAnswer where
  line : Nat
  dirty : Bool
  data : BitVec 1024
  deriving DecidableEq, Repr
/-- What bring-up finds in the coherence domain: the module's position, and the agents that answer (R395). -/
structure Domain where
  pos : Nat
  answer : BitVec 128
  deriving DecidableEq, Repr

/-- An image and its 256-byte trailer, byte 0 in the lowest bits (R398). -/
structure BootImage where
  bytes : List Byte
  trailer : BitVec 2048
  deriving DecidableEq, Repr, Inhabited

/-- The images that bring-up verifies and loads (R395). -/
structure BootImages where
  management : BootImage
  communication : BootImage
  microcode : BootImage
  deriving DecidableEq, Repr, Inhabited

/-- Who wrote a locket message (R376, R391). -/
inductive MailSource where
  | host (vf : Nat)
  | physicalFunction
  | peer (job : Nat)
  | bead (job : Nat)
  | unit (job : Nat)
  deriving DecidableEq, Repr

end Sys2Proof
end

