-- ==== Sys2Proof/Syntax.lean ====
section
/-! DEFINITION. The instructions of the Lorlon L9: one constructor for each row of the opcode table.
A slot operation carries the fields of its slot format (spec 03, R24).  An event is a device step that spec 95 lists;
its arguments name the part of the machine that moves: a context `c` is (128 d + core) 2 + ctx for die d of the module,
a core `k` is 128 d + core, an agent is a number of the coherence domain, a line is a physical address divided by 128. -/
namespace Sys2Proof

/-- The rows of the opcode table. -/
inductive Instr where
  /-- S slot, R75. Integer add modulo 2^N. -/
  | add (a : SArgs)
  /-- S slot, R75. Integer subtract modulo 2^N. -/
  | sub (a : SArgs)
  /-- S slot, R75. Low N bits of the product. -/
  | mul (a : SArgs)
  /-- S slot, R75. High half of the signed product. -/
  | mulh (a : SArgs)
  /-- S slot, R75. High half of the natural product. -/
  | mulhn (a : SArgs)
  /-- S slot, R75. Integer negation. -/
  | neg (a : SArgs)
  /-- S slot, R75. Signed absolute value. -/
  | abs (a : SArgs)
  /-- S slot, R75. Signed smaller value. -/
  | min (a : SArgs)
  /-- S slot, R75. Signed larger value. -/
  | max (a : SArgs)
  /-- S slot, R75. Natural smaller value. -/
  | minn (a : SArgs)
  /-- S slot, R75. Natural larger value. -/
  | maxn (a : SArgs)
  /-- S slot, R76. Bitwise and. -/
  | and (a : SArgs)
  /-- S slot, R76. Bitwise or. -/
  | or (a : SArgs)
  /-- S slot, R76. Bitwise exclusive or. -/
  | xor (a : SArgs)
  /-- S slot, R76. a AND NOT b. -/
  | andn (a : SArgs)
  /-- S slot, R76. Bitwise complement. -/
  | not (a : SArgs)
  /-- S slot, R76. Shift left with zeros entering. -/
  | shl (a : SArgs)
  /-- S slot, R76. Logical shift right. -/
  | shr (a : SArgs)
  /-- S slot, R76. Arithmetic shift right. -/
  | sar (a : SArgs)
  /-- S slot, R76. Rotate left within N bits. -/
  | rol (a : SArgs)
  /-- S slot, R77. Count leading zero bits. -/
  | clz (a : SArgs)
  /-- S slot, R77. Count trailing zero bits. -/
  | ctz (a : SArgs)
  /-- S slot, R77. Count one bits. -/
  | popc (a : SArgs)
  /-- S slot, R77. Extract a bit field. -/
  | bext (a : SArgs)
  /-- S slot, R77. Insert a bit field into the destination. -/
  | bins (a : SArgs)
  /-- S slot, R77. Reverse the bytes of the value. -/
  | bswap (a : SArgs)
  /-- S slot, R78. Integer compare equal. -/
  | cmpEq (a : SArgs)
  /-- S slot, R78. Integer compare not equal. -/
  | cmpNe (a : SArgs)
  /-- S slot, R78. Signed compare less than. -/
  | cmpLt (a : SArgs)
  /-- S slot, R78. Signed compare less or equal. -/
  | cmpLe (a : SArgs)
  /-- S slot, R78. Natural compare less than. -/
  | cmpLtn (a : SArgs)
  /-- S slot, R78. Natural compare less or equal. -/
  | cmpLen (a : SArgs)
  /-- S slot, R79. Move the low N bits. -/
  | mov (a : SArgs)
  /-- S slot, R79. Select a or b by the predicate. -/
  | sel (a : SArgs)
  /-- S slot, R79. Load a constant or immediate. -/
  | li (a : SArgs)
  /-- S slot, R79. Insert 16 bits at halfword K. -/
  | lih (a : SArgs)
  /-- S slot, R79. Add a shifted index to a base. -/
  | lea (a : SArgs)
  /-- S slot, R80. Floating-point add. -/
  | fadd (a : SArgs)
  /-- S slot, R80. Floating-point subtract. -/
  | fsub (a : SArgs)
  /-- S slot, R80. Floating-point multiply. -/
  | fmul (a : SArgs)
  /-- S slot, R80. Fused multiply-add into the destination. -/
  | fma (a : SArgs)
  /-- S slot, R80. Fused negative multiply-add into the destination. -/
  | fnma (a : SArgs)
  /-- S slot, R80. minimumNumber. -/
  | fmin (a : SArgs)
  /-- S slot, R80. maximumNumber. -/
  | fmax (a : SArgs)
  /-- S slot, R80. Clear the sign bit. -/
  | fabs (a : SArgs)
  /-- S slot, R80. Invert the sign bit. -/
  | fneg (a : SArgs)
  /-- S slot, R81. Floating-point compare equal. -/
  | fcmpEq (a : SArgs)
  /-- S slot, R81. Floating-point compare not equal. -/
  | fcmpNe (a : SArgs)
  /-- S slot, R81. Floating-point compare less than. -/
  | fcmpLt (a : SArgs)
  /-- S slot, R81. Floating-point compare less or equal. -/
  | fcmpLe (a : SArgs)
  /-- S slot, R81. Floating-point compare unordered. -/
  | fcmpUn (a : SArgs)
  /-- S slot, R83. Convert between scalar integer and float types. -/
  | fcvt (a : SArgs)
  /-- S slot, R82. One-hot class of a float. -/
  | fclass (a : SArgs)
  /-- S slot, R84. Correctly rounded divide, 14 cc. -/
  | fdiv (a : SArgs)
  /-- S slot, R84. Correctly rounded square root, 14 cc. -/
  | fsqrt (a : SArgs)
  /-- S slot, R84. Correctly rounded reciprocal square root, 14 cc. -/
  | frsqrt (a : SArgs)
  /-- S slot, R85. Predicate and. -/
  | pand (a : SArgs)
  /-- S slot, R85. Predicate or. -/
  | por (a : SArgs)
  /-- S slot, R85. Predicate exclusive or. -/
  | pxor (a : SArgs)
  /-- S slot, R85. Predicate and-not. -/
  | pandn (a : SArgs)
  /-- S slot, R85. Copy a predicate register. -/
  | pmov (a : SArgs)
  /-- S slot, R85. Move between a scalar and the low 64 predicate bits. -/
  | pmovLo (a : SArgs)
  /-- S slot, R85. Move between a scalar and the high 64 predicate bits. -/
  | pmovHi (a : SArgs)
  /-- S slot, R85. Test whether any predicate bit is set. -/
  | pany (a : SArgs)
  /-- S slot, R85. Test whether every predicate bit is set. -/
  | pall (a : SArgs)
  /-- S slot, R86. Relative branch with one delay bundle. -/
  | br (a : SArgs)
  /-- S slot, R86. Jump to a label or register with one delay bundle. -/
  | jmp (a : SArgs)
  /-- S slot, R86. Jump and write the return address. -/
  | call (a : SArgs)
  /-- S slot, R86. Return to the address in a register. -/
  | ret (a : SArgs)
  /-- S slot, R89. Push a hardware loop entry, or pop one on a zero count. -/
  | loop (a : SArgs)
  /-- S slot, R91. Read a control register. -/
  | getc (a : SArgs)
  /-- S slot, R91. Write a control register at c+1. -/
  | setc (a : SArgs)
  /-- VA or VB slot, R99. Lane-wise float add. -/
  | vadd (a : VArgs)
  /-- VA or VB slot, R99. Lane-wise float subtract. -/
  | vsub (a : VArgs)
  /-- VA or VB slot, R99. Lane-wise float multiply. -/
  | vmul (a : VArgs)
  /-- VA or VB slot, R99. Lane-wise fused multiply-add. -/
  | vfma (a : VArgs)
  /-- VA or VB slot, R99. Lane-wise fused negative multiply-add. -/
  | vfnma (a : VArgs)
  /-- VA or VB slot, R99. Lane-wise minimumNumber. -/
  | vmin (a : VArgs)
  /-- VA or VB slot, R99. Lane-wise maximumNumber. -/
  | vmax (a : VArgs)
  /-- VA or VB slot, R99. Lane-wise clear sign. -/
  | vabs (a : VArgs)
  /-- VA or VB slot, R99. Lane-wise invert sign. -/
  | vneg (a : VArgs)
  /-- VA or VB slot, R100. Lane-wise float compare equal. -/
  | vcmpEq (a : VArgs)
  /-- VA or VB slot, R100. Lane-wise float compare not equal. -/
  | vcmpNe (a : VArgs)
  /-- VA or VB slot, R100. Lane-wise float compare less than. -/
  | vcmpLt (a : VArgs)
  /-- VA or VB slot, R100. Lane-wise float compare less or equal. -/
  | vcmpLe (a : VArgs)
  /-- VA or VB slot, R100. Lane-wise float compare unordered. -/
  | vcmpUn (a : VArgs)
  /-- VA or VB slot, R101. Lane-wise select by predicate. -/
  | vsel (a : VArgs)
  /-- VA or VB slot, R101. Lane-wise one-hot float class. -/
  | vclass (a : VArgs)
  /-- VA or VB slot, R102. Lane-wise integer add, wrapping or saturating. -/
  | viadd (a : VArgs)
  /-- VA or VB slot, R102. Lane-wise integer subtract. -/
  | visub (a : VArgs)
  /-- VA or VB slot, R102. Lane-wise integer multiply low. -/
  | vimul (a : VArgs)
  /-- VA or VB slot, R102. Lane-wise integer multiply high. -/
  | vimulh (a : VArgs)
  /-- VA or VB slot, R102. Lane-wise bitwise and. -/
  | vand (a : VArgs)
  /-- VA or VB slot, R102. Lane-wise bitwise or. -/
  | vor (a : VArgs)
  /-- VA or VB slot, R102. Lane-wise bitwise exclusive or. -/
  | vxor (a : VArgs)
  /-- VA or VB slot, R102. Lane-wise shift left. -/
  | vshl (a : VArgs)
  /-- VA or VB slot, R102. Lane-wise logical shift right. -/
  | vshr (a : VArgs)
  /-- VA or VB slot, R102. Lane-wise arithmetic shift right. -/
  | vsar (a : VArgs)
  /-- VA or VB slot, R102. Lane-wise signed minimum. -/
  | vimin (a : VArgs)
  /-- VA or VB slot, R102. Lane-wise signed maximum. -/
  | vimax (a : VArgs)
  /-- VA or VB slot, R102. Lane-wise natural minimum. -/
  | viminn (a : VArgs)
  /-- VA or VB slot, R102. Lane-wise natural maximum. -/
  | vimaxn (a : VArgs)
  /-- VA or VB slot, R103. Lane-wise integer compare equal. -/
  | vicmpEq (a : VArgs)
  /-- VA or VB slot, R103. Lane-wise integer compare not equal. -/
  | vicmpNe (a : VArgs)
  /-- VA or VB slot, R103. Lane-wise signed compare less than. -/
  | vicmpLt (a : VArgs)
  /-- VA or VB slot, R103. Lane-wise signed compare less or equal. -/
  | vicmpLe (a : VArgs)
  /-- VA or VB slot, R103. Lane-wise natural compare less than. -/
  | vicmpLtn (a : VArgs)
  /-- VA or VB slot, R103. Lane-wise natural compare less or equal. -/
  | vicmpLen (a : VArgs)
  /-- VA or VB slot, R104. Lane-wise conversion including tapered formats. -/
  | vcvt (a : VArgs)
  /-- VA or VB slot, R105. Apply sc8 block scales to float lanes. -/
  | vscale (a : VArgs)
  /-- VA or VB slot, R106. Lane-wise divide, 14 cc. -/
  | vdiv (a : VArgs)
  /-- VA or VB slot, R106. Lane-wise square root. -/
  | vsqrt (a : VArgs)
  /-- VA or VB slot, R106. Lane-wise reciprocal square root. -/
  | vrsqrt (a : VArgs)
  /-- VA or VB slot, R106. Lane-wise reciprocal. -/
  | vrcp (a : VArgs)
  /-- VA or VB slot, R106. Lane-wise 2 to the a. -/
  | vexp2 (a : VArgs)
  /-- VA or VB slot, R106. Lane-wise base-2 logarithm. -/
  | vlog2 (a : VArgs)
  /-- VA or VB slot, R106. Lane-wise hyperbolic tangent. -/
  | vtanh (a : VArgs)
  /-- VA or VB slot, R106. Lane-wise logistic sigmoid. -/
  | vsigm (a : VArgs)
  /-- VA or VB slot, R107. Pairwise-tree sum of enabled lanes. -/
  | vsum (a : VArgs)
  /-- VA or VB slot, R107. Pairwise-tree maximum of enabled lanes. -/
  | vrmax (a : VArgs)
  /-- VA or VB slot, R107. Pairwise-tree minimum of enabled lanes. -/
  | vrmin (a : VArgs)
  /-- VA or VB slot, R108. Broadcast lane k to every lane. -/
  | vbcast (a : VArgs)
  /-- VA or VB slot, R108. Lane-wise move or broadcast. -/
  | vmov (a : VArgs)
  /-- VA or VB slot, R108. Extract lane k into a scalar. -/
  | vlane (a : VArgs)
  /-- VA or VB slot, R108. Insert a scalar into lane k. -/
  | vins (a : VArgs)
  /-- VA or VB slot, R108. Set lane i to a plus i. -/
  | viota (a : VArgs)
  /-- VA or VB slot, R109. Accumulate projected hidden-state elements into 12 signature sums. -/
  | vsig (a : VArgs)
  /-- VA or VB slot, R109. Form 12 signature bits from the signs of the sums. -/
  | vsigFin (a : VArgs)
  /-- X slot, R110. Copy a vector across clusters. -/
  | xmov (a : XArgs)
  /-- X slot, R112. Permute lanes by a pattern-table entry. -/
  | xperm (a : XArgs)
  /-- X slot, R110. Rotate lanes by k. -/
  | xrot (a : XArgs)
  /-- X slot, R110. Exchange lanes i and i XOR 2^k. -/
  | xshuf (a : XArgs)
  /-- X slot, R110. Broadcast 64-bit lane k. -/
  | xbcast (a : XArgs)
  /-- X slot, R110. Interleave the two halves. -/
  | xzip (a : XArgs)
  /-- X slot, R110. De-interleave into two halves. -/
  | xunzip (a : XArgs)
  /-- MX slot, R168. Request SOLE or SPLIT ownership of the array, or release it. -/
  | mmode (a : MArgs)
  /-- MX slot, R169. Push one K row of a tile into one or more banks. -/
  | mpush (a : MArgs)
  /-- MX slot, R170. Load four A rows into the row buffer in block fixed point. -/
  | mrow (a : MArgs)
  /-- MX slot, R171. Feed one digit of four row-lanes against their banks into accumulator rows. -/
  | mbeat (a : MArgs)
  /-- MX slot, R172. Convert accumulator rows into a tile as a withheld write. -/
  | mdrain (a : MArgs)
  /-- MX slot, R173. Clear accumulator rows and tags. -/
  | mclear (a : MArgs)
  /-- MX slot, R174. Invalidate a bank at the next checkpoint. -/
  | mbinv (a : MArgs)
  /-- MX slot, R189. Tag an accumulator row tentative and zero it. -/
  | mtag (a : MArgs)
  /-- MX slot, R190. Confirm or squash pendant rows against the router tile and write the miss list. -/
  | mresolve (a : MArgs)
  /-- MX slot, R191. Sum staging slots in rank order into an output tile. -/
  | mcombine (a : MArgs)
  /-- LD slot, R229. Scalar load landing at c+D. -/
  | ld (a : LArgs)
  /-- LD slot, R229. Vector or predicate load landing at c+D. -/
  | vld (a : LArgs)
  /-- LD slot, R230. Gather lanes from per-lane addresses. -/
  | vgath (a : LArgs)
  /-- LD slot, R241. Load a tile from memory, optionally speculative or multicast. -/
  | tld (a : LArgs)
  /-- LD slot, R241. Load a tile through a tensor record. -/
  | tldh (a : LArgs)
  /-- LD slot, R234. Prefetch a line into L2 and L1. -/
  | pref (a : LArgs)
  /-- LD slot, R235. Atomic add. -/
  | aadd (a : LArgs)
  /-- LD slot, R235. Atomic and. -/
  | aand (a : LArgs)
  /-- LD slot, R235. Atomic or. -/
  | aor (a : LArgs)
  /-- LD slot, R235. Atomic exclusive or. -/
  | axor (a : LArgs)
  /-- LD slot, R235. Atomic signed minimum. -/
  | amin (a : LArgs)
  /-- LD slot, R235. Atomic signed maximum. -/
  | amax (a : LArgs)
  /-- LD slot, R235. Atomic natural minimum. -/
  | aminn (a : LArgs)
  /-- LD slot, R235. Atomic natural maximum. -/
  | amaxn (a : LArgs)
  /-- LD slot, R235. Atomic swap. -/
  | aswap (a : LArgs)
  /-- LD slot, R235. Atomic compare and swap. -/
  | acas (a : LArgs)
  /-- LD slot, R236. 16-byte atomic compare and swap. -/
  | acas16 (a : LArgs)
  /-- ST slot, R233. Store one byte. -/
  | st8 (a : STArgs)
  /-- ST slot, R233. Store two bytes. -/
  | st16 (a : STArgs)
  /-- ST slot, R233. Store four bytes. -/
  | st32 (a : STArgs)
  /-- ST slot, R233. Store eight bytes. -/
  | st64 (a : STArgs)
  /-- ST slot, R233. Vector store with 8-bit lanes, or predicate store. -/
  | vst8 (a : STArgs)
  /-- ST slot, R233. Vector store with 16-bit lanes. -/
  | vst16 (a : STArgs)
  /-- ST slot, R233. Vector store with 32-bit lanes. -/
  | vst32 (a : STArgs)
  /-- ST slot, R233. Vector store with 64-bit lanes. -/
  | vst64 (a : STArgs)
  /-- ST slot, R231. Scatter 8-bit lanes. -/
  | vscat8 (a : STArgs)
  /-- ST slot, R231. Scatter 16-bit lanes. -/
  | vscat16 (a : STArgs)
  /-- ST slot, R231. Scatter 32-bit lanes. -/
  | vscat32 (a : STArgs)
  /-- ST slot, R231. Scatter 64-bit lanes. -/
  | vscat64 (a : STArgs)
  /-- ST slot, R242. Store a tile to memory as a withheld tile store. -/
  | tst (a : STArgs)
  /-- ST slot, R242. Store a tile through a tensor record. -/
  | tsth (a : STArgs)
  /-- ST slot, R244. Append a tile's rows to a queue by reserving TAIL and advancing DONE. -/
  | append (a : STArgs)
  /-- TM slot, R239. Define a tile register from a descriptor image and region. -/
  | tdef (a : TArgs)
  /-- TM slot, R245. Copy a tile element by element. -/
  | tcopy (a : TArgs)
  /-- TM slot, R245. Transpose a tile. -/
  | ttrans (a : TArgs)
  /-- TM slot, R245. Convert a tile's format without flags. -/
  | tconv (a : TArgs)
  /-- TM slot, R247. Expand a zero-mask block stream into a tile. -/
  | texp (a : TArgs)
  /-- TM slot, R247. Compress a tile into a zero-mask stream as a tile store. -/
  | tcmp (a : TArgs)
  /-- TM slot, R245. Fill every element of a tile with one value. -/
  | tfill (a : TArgs)
  /-- TM slot, R249. Withheld removal of a tensor record from every record cache. -/
  | tsrf (a : TArgs)
  /-- TM slot, R250. Move the core's L1/scratchpad split after pushing and dropping the L1. -/
  | phase (a : TArgs)
  /-- TM slot, R278. Store lines into the hallmark heap and return their names. -/
  | hmput (a : TArgs)
  /-- TM slot, R279. Store a node line and retain its children. -/
  | hmnode (a : TArgs)
  /-- TM slot, R280. Load a named heap line into a tile row. -/
  | hmget (a : TArgs)
  /-- TM slot, R298. Retain named lines. -/
  | hmhold (a : TArgs)
  /-- TM slot, R281. Release named lines, freeing those whose count reaches 0. -/
  | hmdrop (a : TArgs)
  /-- TM slot, R282. Compare and swap a root cell's name as a publishing atom step. -/
  | hmswap (a : TArgs)
  /-- TM slot, R299. Copy the leaves of a hallmarked tree into ordinary memory. -/
  | hmcopy (a : TArgs)
  /-- TM slot, R300. Form 0: land a name's directory state. -/
  | hmstatDirectory (a : TArgs)
  /-- TM slot, R203. Form 1: land an ordinary line's tag read at its home. -/
  | hmstatLineTag (a : TArgs)
  /-- TM slot, R300. Form 2: land an agent's free heap lines and overflow buckets. -/
  | hmstatFree (a : TArgs)
  /-- SY slot, R199. Withheld binding of a region to a clasp. -/
  | cbind (a : YArgs)
  /-- SY slot, R200. Withheld acquire of a clasp. -/
  | cacq (a : YArgs)
  /-- SY slot, R201. Withheld release of a clasp. -/
  | crel (a : YArgs)
  /-- SY slot, R252. Withheld attempt to acquire a clasp without waiting. -/
  | ctry (a : YArgs)
  /-- SY slot, R202. Withheld fence of core, device or system scope. -/
  | fence (a : YArgs)
  /-- SY slot, R348. Record a wait condition on a counter and leave the context. -/
  | wait (a : YArgs)
  /-- SY slot, R350. Withheld publishing add, set or phase completion on a counter. -/
  | sig (a : YArgs)
  /-- SY slot, R347. Set a new budget and leave the context to the queue tail. -/
  | yield (a : YArgs)
  /-- SY slot, R351. Append a drift record and arm trace if drift exceeds the threshold. -/
  | mark (a : YArgs)
  /-- SY slot, R349. End the bead's issue and complete it once its queue drains. -/
  | done (a : YArgs)
  /-- SY slot, R352. Withheld publishing start of a launch. -/
  | spawn (a : YArgs)
  /-- SY slot, R353. Withheld publishing message to a locket. -/
  | post (a : YArgs)
  /-- SY slot, R354. Withheld cancel of a unit, launch, graph, phase or job. -/
  | cancelInstr (a : YArgs)
  /-- SY slot, R355. Withheld send of a tile on a channel. -/
  | chsend (a : YArgs)
  /-- SY slot, R355. Receive the next combined channel element into a tile. -/
  | chrecv (a : YArgs)
  /-- SY slot, R186. Look up a predictor table entry. -/
  | eplook (a : YArgs)
  /-- SY slot, R187. Withheld update of a predictor entry toward the router's choice. -/
  | epupd (a : YArgs)
  /-- SY slot, R188. Withheld bind or unbind of a predictor table. -/
  | epcfg (a : YArgs)
  /-- SY slot, R356. Raise BREAK at issue. -/
  | trap (a : YArgs)
  /-- SY slot, R357. Withheld publishing resumption of a trapped bead. -/
  | eret (a : YArgs)
  /-- SY slot, R358. Withheld publishing TLB invalidation. -/
  | tlbinv (a : YArgs)
  /-- SY slot, R359. Withheld write of a queue descriptor field. -/
  | qset (a : YArgs)
  /-- Event, R23. A context issues one whole bundle; every slot reads its sources at the same context cycle and its operations act or become withheld entries. -/
  | bundleIssue (c : Nat)
  /-- Event, R51. A context serves one cycle of a bundle's stall count; its cc advances and results due then land. -/
  | stallCycle (c : Nat)
  /-- Event, R59. The merge stage picks which ready context issues and whether the other merges into the same core cycle. -/
  | issueMerge (k : Nat)
  /-- Event, R41. Results due at a context cycle land in their ports and latches and their flags are ORed into FFLAGS. -/
  | resultLand (c : Nat)
  /-- Event, R46. Load or atomic data reaches the core and waits in its landing entry, ending a freeze if the landing cycle is reached. -/
  | loadDataArrive (c : Nat) (err : MemErr)
  /-- Event, R208. A context reaching c+D with its atomic still withheld raises ILLSCHED there. -/
  | atomicReleaseDeadline (c : Nat)
  /-- Event, R50. The first read of a register not yet restored fetches it from the save area and lets the bundle issue. -/
  | registerMissMicroTrap (c : Nat) (port : Nat)
  /-- Event, R338. A trap stops issue, restores the shadow set, discards withheld entries, writes the trap record and starts a handler instance. -/
  | trapDelivery (c : Nat)
  /-- Event, R196. The store queue's head store writes its bytes into the L1, a scratchpad or a home-01 line. -/
  | drain (c : Nat)
  /-- Event, R196. An L1 writes the dirty bytes of a line into the coherent point under their mask, on its own as an eviction. -/
  | l1Push (k : Nat) (line : FoundLine)
  /-- Event, R196. An L1 discards its copy of a line after pushing dirty bytes, on its own as an eviction. -/
  | l1Drop (k : Nat) (line : Nat)
  /-- Event, R206. The store queue's head atomic takes its line exclusive in its L1 and reads the old value and writes the new in one step. -/
  | atom (c : Nat)
  /-- Event, R206. The store queue's head tile store moves to the tile queue and reads its source region. -/
  | hand (c : Nat)
  /-- Event, R206. A tile transfer performs its part in one line at the coherent point. -/
  | piece (t : Nat) (i : Nat)
  /-- Event, R206. After its last piece a tile transfer adds 1 to its completion counter by a coherent-point atom step and completes. -/
  | count (t : Nat)
  /-- Event, R206. The store queue's head store or atomic to host memory leaves as a posted write or AtomicOp. -/
  | host (c : Nat)
  /-- Event, R206. The store queue's head hallmark mutation performs at the home of its directory bucket. -/
  | hm (c : Nat)
  /-- Event, R291. A failed hallmark allocation raises HMPROBE or HMFULL at the issuing context's next bundle boundary. -/
  | hmFaultTrap (c : Nat)
  /-- Event, R225. A count reaching 0 sends Inv to every agent and frees the line and probe once every Ack has arrived. -/
  | heapLineFree
  /-- Event, R295. The release walker drops one child of a freed node by one hm step. -/
  | releaseWalkerDrop (job : Nat)
  /-- Event, R295. The walker adds 1 to the job's walker counter once an hmdrop or hmcopy entry and every drop it caused have performed. -/
  | walkerCounterAdd (job : Nat)
  /-- Event, R199. A released cbind sets the clasp's BASE and LENGTH by a coherent-point atom step. -/
  | cbindPerform (c : Nat)
  /-- Event, R200. A released cacq waits for HELD 0, sets HELD and the holder, and drops the region's lines from its core's L1. -/
  | cacqLock (c : Nat)
  /-- Event, R201. A released crel pushes the region's dirty lines, then clears HELD and advances SEQ unless KEEP. -/
  | crelPerform (c : Nat)
  /-- Event, R252. A released ctry locks the clasp if free and lands 1, else lands 0. -/
  | ctryPerform (c : Nat)
  /-- Event, R202. A released fence makes drained entries visible and by scope pushes the L1 and empties the instruction cache. -/
  | fencePerform (c : Nat)
  /-- Event, R210. The 4-byte read of fence #2 returns its completion and the fence performs. -/
  | hostFlushComplete (c : Nat)
  /-- Event, R350. A released sig adds to, sets or completes the counter, and for phase advances the job counter. -/
  | sigPerform (c : Nat)
  /-- Event, R352. A released spawn starts or refuses the launch at its descriptor. -/
  | spawnPerform (c : Nat)
  /-- Event, R319. A launch takes an id, zeroes its counter, writes its beads and appends them to the template's queue. -/
  | launchStart
  /-- Event, R353. A released post sends a 32-byte message to a locket here or on a peer module. -/
  | postPerform (c : Nat)
  /-- Event, R354. A released cancel starts the cancel of a unit, launch, graph, phase or job. -/
  | cancelPerform (c : Nat)
  /-- Event, R324. Dispatch stops and queued, waiting and running beads of the level become cancelled and count as complete. -/
  | cancel
  /-- Event, R357. A released eret resumes a trapped bead if its state, code and job allow. -/
  | eretPerform (c : Nat)
  /-- Event, R358. A released tlbinv removes translations from every TLB and performs once pinned accesses have performed. -/
  | tlbinvPerform (c : Nat)
  /-- Event, R359. A released qset writes one field of a queue descriptor in one step. -/
  | qsetPerform (c : Nat)
  /-- Event, R249. A released tsrf pushes the record line and removes the record from every record cache. -/
  | tsrfPerform (c : Nat)
  /-- Event, R180. An epupd at the store queue head updates its table entry as one read-modify-write. -/
  | predictorUpdateRelease (c : Nat)
  /-- Event, R188. An epcfg at the store queue head binds or unbinds its table. -/
  | predictorBindRelease (c : Nat)
  /-- Event, R299. A released hmcopy retains its root by an hm step and then hands its copy to the tile queue. -/
  | hmcopyHmStep (c : Nat)
  /-- Event, R166. The array finishes forming an MX tile write's bytes and its destination tile register stops being pending. -/
  | mxTileWriteFormed (c : Nat)
  /-- Event, R316. A bead moves from its queue head into a free context slot and its state is set or restored. -/
  | beadDispatch (c : Nat)
  /-- Event, R329. When a slot frees or a bead becomes ready, the die's arbiter chooses a queue and dispatches its head. -/
  | arbiterChoice (c : Nat)
  /-- Event, R328. Every 100 µs every queue's LEFT is set to its ALLOT. -/
  | roundStart
  /-- Event, R317. A bead that has spent more than BUDGET context cycles is preempted at the next bundle boundary. -/
  | budgetOverrun (c : Nat)
  /-- Event, R317. A waiting bead's condition comes to hold and it joins the tail of its queue. -/
  | waitWake (i : Nat)
  /-- Event, R197. A bead that issued done completes once its store queue is empty and its launch counter advances. -/
  | beadComplete (i : Nat)
  /-- Event, R310. A context is stopped at a boundary, waits for landing data, and its bead's state is saved. -/
  | forcedPreemption (c : Nat)
  /-- Event, R310. Every context of the outgoing virtual function on a core is forcibly preempted. -/
  | worldSwitch (k : Nat) (vf : Nat)
  /-- Event, R323. The graph walker sets LEFT of every node, zeroes GCNT and runs nodes without predecessors. -/
  | graphStart (die : Nat) (job : Nat) (desc : Nat)
  /-- Event, R323. A node completes; GCNT advances and successors whose LEFT reaches 0 run. -/
  | graphNodeComplete (g : Nat) (j : Nat)
  /-- Event, R326. A 32-byte message arrives at a locket and is written to a ring slot with a handler launch, or dropped. -/
  | locketMessage (n : Nat) (msg : BitVec 256) (src : MailSource)
  /-- Event, R326. A locket handler bead completes and INUSE decreases. -/
  | locketHandlerComplete (i : Nat)
  /-- Event, R402. A waiting trap handler launch starts when an instance of its template becomes free. -/
  | handlerInstanceStart
  /-- Event, R372. A KIND 01 comparator preempts its bead before the bundle with WOP 3. -/
  | debugStop (c : Nat)
  /-- Event, R392. A write of a stopped bead's record address resumes it, else logs a fault. -/
  | dbgresWrite (addr : Nat)
  /-- Event, R222. The home serves a read for a shared copy and rewrites the line tag. -/
  | rds (q : Nat) (line : Nat)
  /-- Event, R222. The home serves a read with ownership, invalidating or forwarding as the tag requires. -/
  | rdx (q : Nat) (line : Nat)
  /-- Event, R222. The home grants ownership of a line the requester holds in S, or serves it as RdX. -/
  | upg (q : Nat) (line : Nat)
  /-- Event, R222. The home receives an owner's eviction with data and writes or discards it. -/
  | wb (a : Nat) (line : LineData)
  /-- Event, R222. The home receives an E owner's eviction without data. -/
  | ce (a : Nat) (line : Nat)
  /-- Event, R222. An owner supplies a shared copy to the requester. -/
  | fwds (line : OwnerAnswer)
  /-- Event, R222. An owner supplies the line to the requester and drops it. -/
  | fwdx (line : OwnerAnswer)
  /-- Event, R220. An agent drops any S copy and acknowledges. -/
  | inv (a : Nat) (line : Nat)
  /-- Event, R221. The last Ack or Done reaches the home, which rewrites the tag and frees the line. -/
  | transactionComplete (line : Nat)
  /-- Event, R223. An agent unreachable for 50 µs is declared lost and its ports are disabled. -/
  | agentLost (a : Nat)
  /-- Event, R223. A lost or corrupt flit is resent on the same link or another route. -/
  | flitResend (port : Nat)
  /-- Event, R265. The walker reads page-table entries at the coherent point and yields a translation or XLATE. -/
  | pageWalk (c : Nat) (va : Nat)
  /-- Event, R263. At the end of each 1 ms epoch every page's access count is halved. -/
  | migratorEpoch (a : Nat)
  /-- Event, R263. The migrator promotes or swaps a page line by line, each line one home transaction. -/
  | pageMigrate (a : Nat) (err : MemErr)
  /-- Event, R260. A write of NEARWAYS starts converting cache-layer ways, or sets ERR. -/
  | dcctlWrite (stack : Nat) (val : BitVec 64)
  /-- Event, R260. A way conversion finishes; the new near length holds and BUSY clears. -/
  | nearConversionDone (stack : Nat)
  /-- Event, R271. A bank is refreshed, or its bank group at once when its postponement allowance is spent. -/
  | refresh (stack : Nat) (bank : Nat)
  /-- Event, R272. A row's 512th activation captures its lines in the cache layer or refreshes its neighbours. -/
  | hotRowCapture (stack : Nat) (row : Nat)
  /-- Event, R272. At the end of each 32 ms window row counts clear and captured rows are released. -/
  | refreshWindowEnd (stack : Nat)
  /-- Event, R287. A write of heap descriptor word 24 zeroes the buckets and tags, sets the free maps and then HRDY. -/
  | heapInit (a : Nat)
  /-- Event, R383. A chsend at its hand step takes SENT by an atom step and reads its region. -/
  | chsendHand (c : Nat)
  /-- Event, R383. A send's pieces write the peer slot once the receiver's DELIV leaves room, or are dropped as LATE. -/
  | channelSlotWrite (src : SlotSource)
  /-- Event, R384. When all contributions arrive or TIMEOUT ends, the element is combined into the region and DELIV advances. -/
  | channelFlush (job : Nat) (ch : Nat)
  /-- Event, R387. An armed work entry whose trigger counter reached TVAL runs its schedule. -/
  | workEntryRun (port : Nat) (i : Nat)
  /-- Event, R387. A run ends: CCNT advances, SRC, DST and TVAL step, and STATE and ROUNDS update. -/
  | workRunComplete (port : Nat) (i : Nat)
  /-- Event, R388. On cancel or kill the job's work entries abort and abort messages are sent. -/
  | collectiveAbort (job : Nat)
  /-- Event, R388. A peer receiving an abort sets PABORT and completes pending channel operations. -/
  | abortMessage (job : Nat) (agent : Nat)
  /-- Event, R391. A function-level reset of a virtual function kills every job it owns. -/
  | functionLevelReset (vf : Nat)
  /-- Event, R394. Power-on or MCTL.RESET stops every context and discards entries, then bring-up runs. -/
  | moduleReset
  /-- Event, R395. One bring-up step completes and STEP records it, or bring-up stops on a failed verification. -/
  | bringUpStep (f : BootImages) (m : Domain)
  /-- Event, R392. Writing HALT stops or restarts every arbiter's dispatching. -/
  | mctlHalt (on : Bool)
  /-- Event, R392. Writing MIGEN enables or disables the migrator. -/
  | mctlMigen (on : Bool)
  /-- Event, R397. A management-locket RESYNC request halts arbiters, writes the summary record and signals MSI-X vector 0. -/
  | resync
  /-- Event, R399. A management-locket attestation request writes a signed report. -/
  | attestation
  /-- Event, R400. A driver write of ALLOW takes effect at once, clamped. -/
  | pwrAllowWrite (watts : Nat)
  /-- Event, R400. A processor lowers its ALLOW and sends a grant, or refuses it below FLOOR. -/
  | powerGrantSend (port : Nat) (watts : Nat)
  /-- Event, R400. A grant arrives and raises ALLOW up to 1600 W. -/
  | powerGrantReceive (port : Nat) (watts : Nat)
  /-- Event, R401. The governor picks the highest operating point that keeps DRAW within ALLOW. -/
  | operatingPointChange (need : Nat)
  /-- Event, R401. At 105 °C the governor drops to 0.6 GHz and at 115 °C it resets the module. -/
  | thermalLimit (degrees : Nat)
  /-- Event, R91. A setc of a register with no row of its own lands its value at c+1. -/
  | controlRegisterWrite (c : Nat)
  /-- Event, R111. A setc of XPDATA writes one quarter of a pattern entry and advances ENTRY and QTR. -/
  | xpdataWrite (c : Nat)
  /-- Event, R114. A setc of RQCTL, RQSEED, RQADDR or RQPOS discards the vectors fetched ahead. -/
  | rqRegisterWrite (c : Nat)
  /-- Event, R250. At c+D, once the pushes finish, the new split holds. -/
  | phaseSplitTakesEffect (k : Nat)
  /-- Event, R223. An agent's L2 evicts a line: an S copy silently, and an E, M or O copy into its writeback buffer with a CE or WB sent to the home. -/
  | l2Eviction (a : Nat) (line : Nat) (err : MemErr)
  /-- Event, R273. A scrub of memory that finds an uncorrectable error with no waiting context reports it to the management processor and the fault log. -/
  | scrub (line : Nat) (err : MemErr)
  /-- Event, R245. A tcopy, ttrans, tconv or tfill on the transform engine finishes, its tile registers stop being pending, and it counts into its destination's counter. -/
  | transformComplete (t : Nat)
  /-- Event, R248. A die's record cache evicts a cached tensor record, so a later record form fetches the record afresh. -/
  | recordCacheEviction (die : Nat) (line : Nat)
  deriving DecidableEq, Repr

end Sys2Proof
end

