-- ==== Sys2Proof/WellFormed.lean ====
section
/-! DEFINITION. Which instructions have an encoding: the conditions of the entries that the encoding alone decides.
An encoding that breaks one raises ILLENC (spec 03, R5, R25 to R36; the Encoding and Operands lines of each entry). -/
namespace Sys2Proof

namespace ETy

/-- The signed integer types. -/
def isI : ETy → Bool | i8 | i16 | i32 | i64 => true | _ => false
/-- The natural integer types. -/
def isN : ETy → Bool | n8 | n16 | n32 | n64 => true | _ => false
/-- The integer types. -/
def isInt (t : ETy) : Bool := t.isI || t.isN
/-- The floating-point types. -/
def isFp : ETy → Bool | f16 | bf16 | f32 => true | _ => false
/-- The tapered types. -/
def isTap : ETy → Bool | ta8 | ta6 => true | _ => false
/-- Element size in a vector lane, in bits (R92). -/
def bits : ETy → Nat
  | i8 | n8 | ta8 | ta6 | sc8 => 8
  | i16 | n16 | f16 | bf16 => 16
  | i32 | n32 | f32 => 32
  | i64 | n64 => 64

/-- The type of a code (R25). -/
def ofCode (c : BitVec 4) : Option ETy :=
  match c.toNat with
  | 0 => some i8 | 1 => some i16 | 2 => some i32 | 3 => some i64
  | 4 => some n8 | 5 => some n16 | 6 => some n32 | 7 => some n64
  | 8 => some f16 | 9 => some bf16 | 10 => some f32
  | 11 => some ta8 | 12 => some ta6 | 13 => some sc8
  | _ => none

/-- The code of a type (R25). -/
def code : ETy → BitVec 4
  | i8 => 0 | i16 => 1 | i32 => 2 | i64 => 3 | n8 => 4 | n16 => 5 | n32 => 6 | n64 => 7
  | f16 => 8 | bf16 => 9 | f32 => 10 | ta8 => 11 | ta6 => 12 | sc8 => 13

end ETy

namespace Port

/-- A scalar register. -/
def isS : Port → Bool | s _ => true | _ => false
/-- A vector register of either cluster. -/
def isV : Port → Bool | v _ => true | _ => false
/-- A predicate register. -/
def isP : Port → Bool | p _ => true | _ => false
/-- A tile register. -/
def isTl : Port → Bool | tl _ => true | _ => false
/-- A constant. -/
def isConst : Port → Bool | const _ => true | _ => false
/-- A vector latch. -/
def isVLatch : Port → Bool | aq | bq | xq => true | _ => false
/-- Any latch. -/
def isLatch : Port → Bool | iq | fq | aq | bq | xq => true | _ => false
/-- A vector register of the cluster of unit `u` (R31). -/
def isOwnV (u : VUnit) : Port → Bool
  | v n => match u with
    | .a => n.toNat < 32
    | .b => 32 ≤ n.toNat
  | _ => false
/-- A scalar register or a latch. -/
def isSL (q : Port) : Bool := q.isS || q.isLatch
/-- A scalar operand of an SY entry (R345). -/
def isScalarOp (q : Port) : Bool := q.isS || q.isLatch || q.isConst
/-- A source of an integer or floating-point S operation (R75, R80). -/
def isSSrc (q : Port) : Bool := q.isS || q.isLatch || q.isConst || q == imm
/-- A scalar register or `_`. -/
def isSDst (q : Port) : Bool := q.isS || q == none
/-- A vector register or `_`. -/
def isVDst (u : VUnit) (q : Port) : Bool := q.isOwnV u || q == none
/-- A source of a vector operation (R94). -/
def isVSrc (u : VUnit) (q : Port) : Bool :=
  q.isOwnV u || q.isVLatch || q == rq || q.isS || q.isConst || q == imm

end Port

namespace WF

/-- imm23 is zero unless a source names 0xE2 (R74). -/
def immS (a : SArgs) : Bool := a.a == .imm || a.b == .imm || a.imm == 0
/-- Two integer or float sources. -/
def two (a : SArgs) : Bool := a.a.isSSrc && a.b.isSSrc && immS a
/-- One source. -/
def one (a : SArgs) : Bool := a.a.isSSrc && a.b == .unused && immS a
/-- A scalar result of two sources (R75). -/
def int2 (a : SArgs) : Bool := a.dst.isSDst && two a
/-- A scalar result of one source (R75). -/
def int1 (a : SArgs) : Bool := a.dst.isSDst && one a
/-- The floating-point size codes (R25). -/
def fsize (a : SArgs) : Bool := a.size != 3
/-- A compare's destination (R78). -/
def cmpDst (a : SArgs) : Bool := a.dst.isP || a.dst.isS || a.dst == .none

/-- The control registers of R360. -/
def isCreg (n : BitVec 12) : Bool :=
  let k := n.toNat
  (1 ≤ k && k ≤ 0x00A) || (0x010 ≤ k && k ≤ 0x014) || k == 0x040 || k == 0x041 || (0x048 ≤ k && k ≤ 0x04F) ||
  (0x050 ≤ k && k ≤ 0x058) || (0x080 ≤ k && k ≤ 0x089) || k == 0x0F0

/-- Types, rounding and source of `fcvt` (R83), which names no port kinds for its source: those of R80 are taken, and a predicate is refused
(log 180, DESIGN CHOICE). -/
def fcvt (a : SArgs) : Bool :=
  let t := a.imm.extractLsb' 0 4
  let u := a.imm.extractLsb' 4 4
  let r := a.imm.extractLsb' 8 3
  a.size == 0 && a.b == .imm && a.dst.isSDst && a.a.isSSrc && t.toNat ≤ 10 && u.toNat ≤ 10 && t != u &&
  !(t.toNat ≤ 7 && u.toNat ≤ 7) && r.toNat ≤ 4 && a.imm.extractLsb' 11 12 == 0

/-- Three predicate operands (R85). -/
def pred3 (a : SArgs) : Bool :=
  a.dst.isP && a.a.isP && a.b.isP && a.size == 0 && a.imm == 0
/-- A test of one predicate (R85). -/
def predTest (a : SArgs) : Bool := cmpDst a && a.a.isP && a.b == .unused && a.size == 0 && a.imm == 0

/-- imm8 is zero unless a source names 0xE2 (R98). -/
def immV (a : VArgs) : Bool := a.a == .imm || a.b == .imm || a.c == .imm || a.imm == 0
/-- A vector width (R25). -/
def width (a : VArgs) : Bool := a.width != 3
/-- Two vector sources. -/
def v2 (a : VArgs) : Bool := width a && a.a.isVSrc a.unit && a.b.isVSrc a.unit && a.c == .unused && immV a
/-- One vector source. -/
def v1 (a : VArgs) : Bool := width a && a.a.isVSrc a.unit && a.b == .unused && a.c == .unused && immV a
/-- A rounding code (R25). -/
def rnd (a : VArgs) : Bool := a.rnd.toNat ≤ 4
/-- Wrap or saturate (R97). -/
def sat (a : VArgs) : Bool := a.rnd.toNat ≤ 1
/-- Two-source floating-point arithmetic (R99). -/
def vf2 (a : VArgs) : Bool := v2 a && a.dst.isVDst a.unit && a.ety.isFp && rnd a
/-- One-source floating-point arithmetic (R99). -/
def vf1 (a : VArgs) : Bool := v1 a && a.dst.isVDst a.unit && a.ety.isFp && rnd a
/-- Fused floating-point arithmetic (R99). -/
def vf3 (a : VArgs) : Bool :=
  width a && a.a.isVSrc a.unit && a.b.isVSrc a.unit && a.c.isVSrc a.unit && immV a && a.dst.isVDst a.unit &&
  a.ety.isFp && rnd a
/-- A vector compare's destination (R100). -/
def vcmpDst (a : VArgs) : Bool := a.dst.isP || a.dst.isVDst a.unit
/-- A floating-point vector compare (R100). -/
def vcmp (a : VArgs) : Bool := v2 a && vcmpDst a && a.ety.isFp && a.rnd == 0
/-- Integer vector arithmetic that may saturate (R97, R102). -/
def vi2s (a : VArgs) : Bool := v2 a && a.dst.isVDst a.unit && a.ety.isInt && sat a
/-- Integer vector arithmetic (R102). -/
def vi2 (a : VArgs) : Bool := v2 a && a.dst.isVDst a.unit && a.ety.isInt && a.rnd == 0
/-- An integer vector compare (R103). -/
def vicmp (a : VArgs) : Bool := v2 a && vcmpDst a && a.ety.isInt && a.rnd == 0
/-- A special function of one source (R106). -/
def vsp1 (a : VArgs) : Bool := v1 a && a.dst.isOwnV a.unit && a.ety.isFp && rnd a
/-- A reduction (R107). -/
def vred (a : VArgs) : Bool :=
  v1 a && (a.dst.isS || a.dst.isVDst a.unit) && (a.ety.isInt || a.ety.isFp)

/-- Types, part and rounding of `vcvt` (R104). -/
def vcvt (a : VArgs) : Bool :=
  let t := a.ety
  width a && a.a.isVSrc a.unit && a.b == .unused && a.c == .unused && a.dst.isVDst a.unit && !a.imm.getLsbD 7 &&
  match ETy.ofCode (a.imm.extractLsb' 0 4) with
  | none => false
  | some u =>
    let r := Nat.max t.bits u.bits / Nat.min t.bits u.bits
    t != u && t != .sc8 && u != .sc8 && !(t.isTap && u.isTap) && !(t.isTap && u.isInt) && !(t.isInt && u.isTap) &&
    (a.imm.extractLsb' 4 3).toNat < r && (if t.isTap then sat a else rnd a)

/-- An X operation's ports (R110). -/
def x (a : XArgs) : Bool := a.width != 3 && (a.src.isV || a.src.isVLatch) && (a.dst.isV || a.dst == .none)
/-- Width of an X or V operation in bits (R25). -/
def bits (w : BitVec 2) : Nat := 256 * 2 ^ w.toNat

/-- The arrival codes that name a distance (R26). -/
def dist (d : BitVec 8) : Bool := 6 ≤ d.toNat
/-- A load's hint and speculative bit (R27, R28). -/
def hint (a : LArgs) : Bool := a.hint != 3 && !a.spec
/-- An atomic has no cache hint: its entry lists no hint field, so that the field is zero, and no speculative bit (R28, R69, R235, R236;
log 154). -/
def bare (a : LArgs) : Bool := a.hint == 0 && !a.spec
/-- An atomic of 32 or 64 bits (R235). -/
def atomic (a : LArgs) : Bool :=
  bare a && a.size.getLsbD 1 && a.base.isS && a.index.isS && a.shift == 0 && dist a.dist
/-- An even scalar register from s2 to s62 (R236). -/
def pair : Port → Bool
  | .s n => n.toNat % 2 == 0 && n != 0
  | _ => false
/-- A tile load's fields (R241). -/
def tileLoad (a : LArgs) : Bool :=
  a.dst.isTl && a.base.isS && a.index.isS && a.size == 0 && a.hint == 0 && a.dist.extractLsb' 0 6 == 0
/-- A scalar store (R233). -/
def st (a : STArgs) : Bool :=
  a.base.isS && a.index.isS && (a.data.isS || a.data.isV || a.data.isP || a.data.isLatch)
/-- A vector store (R233). -/
def vst (a : STArgs) : Bool := a.base.isS && a.index.isS && (a.data.isV || a.data.isVLatch)
/-- A scatter (R231). -/
def vscat (a : STArgs) : Bool := a.base.isS && a.index.isV && a.data.isV
/-- A tile store (R242). -/
def tileStore (a : STArgs) : Bool := a.base.isS && a.index.isS && a.data.isTl
/-- Row operand of a hallmark entry (R278). -/
def hmRow (q : Port) : Bool := q.isS || q.isConst
/-- imm16 of `hmput`, `hmhold`, `hmdrop` (R278). -/
def hmCount (a : TArgs) : Bool := a.imm.extractLsb' 4 12 == 0
/-- An imm16 that holds q from 1 to 9 (R246). -/
def blockSize (a : TArgs) : Bool := 1 ≤ a.imm.toNat && a.imm.toNat ≤ 9
/-- imm16 of `hmstat` form `f` (R203, R300). -/
def hmstatImm (a : TArgs) (f : Nat) : Bool :=
  dist (a.imm.extractLsb' 0 8) && (a.imm.extractLsb' 8 2).toNat == f && a.imm.extractLsb' 10 6 == 0
/-- A matrix tile port (R167). -/
def mTile (a : MArgs) : Bool := a.tile.isTl

end WF

open WF in
/-- The encoding is one that the entry of the instruction gives.  Events have no encoding.  R188 names no port kinds for sa and sb of
`epcfg`: scalars, latches and constants are taken (log 158, DESIGN CHOICE).  R82 names none for the source of `fclass`: those of R80 are
taken, and a predicate is refused (log 180, DESIGN CHOICE).  R109 calls c of `vsig` a vector and names no other kind: an own vector register or
a latch is taken (log 181, DESIGN CHOICE).  R199 names kinds for sc alone: sb of `cbind` is a scalar register or a latch too (log 184, DESIGN
CHOICE). -/
def wellFormed : Instr → Bool
  | .add a | .sub a | .mul a | .mulh a | .mulhn a | .min a | .max a | .minn a | .maxn a
  | .and a | .or a | .xor a | .andn a | .shl a | .shr a | .sar a | .rol a | .bext a | .sel a | .lea a => int2 a
  | .neg a | .abs a | .not a | .clz a | .ctz a | .popc a | .mov a => int1 a
  | .bswap a => int1 a && a.size != 0
  | .bins a => a.dst.isS && two a
  | .cmpEq a | .cmpNe a | .cmpLt a | .cmpLe a | .cmpLtn a | .cmpLen a => cmpDst a && two a
  | .li a => a.dst.isSDst && (a.a.isConst || a.a == .imm) && a.b == .unused && immS a
  | .lih a => a.dst.isS && two a
  | .fadd a | .fsub a | .fmul a | .fmin a | .fmax a => int2 a && fsize a
  | .fma a | .fnma a | .fdiv a => a.dst.isS && two a && fsize a
  | .fabs a | .fneg a | .fclass a => int1 a && fsize a
  | .fcmpEq a | .fcmpNe a | .fcmpLt a | .fcmpLe a | .fcmpUn a => cmpDst a && two a && fsize a
  | .fcvt a => fcvt a
  | .fsqrt a | .frsqrt a => a.dst.isS && one a && fsize a
  | .pand a | .por a | .pxor a | .pandn a => pred3 a
  | .pmov a => (a.dst.isP || a.dst == .none) && a.a.isP && a.b == .unused && a.size == 0 && a.imm == 0
  | .pmovLo a => ((a.dst.isP && a.a.isSL) || (a.dst.isS && a.a.isP)) && a.b == .unused && a.size == 0 && a.imm == 0
  | .pmovHi a =>
    ((a.dst.isP && a.a.isSL) || (a.dst.isSDst && a.a.isP)) && a.b == .unused && a.size == 1 && a.imm == 0
  | .pany a | .pall a => predTest a
  | .br a => a.dst == .unused && a.a == .imm && a.b == .unused && a.size == 0
  | .jmp a => a.dst == .unused && (a.a == .imm || a.a.isS) && a.b == .unused && a.size == 0 && immS a
  | .call a => a.dst.isSDst && (a.a == .imm || a.a.isS) && a.b == .unused && a.size == 0 && immS a
  | .ret a => a.dst == .unused && a.a.isS && a.b == .unused && a.size == 0 && a.imm == 0
  | .loop a => a.dst == .unused && one a
  | .getc a => a.dst.isSDst && a.a == .imm && a.b == .unused && a.size == 0 && a.imm.extractLsb' 12 11 == 0 &&
      isCreg (a.imm.extractLsb' 0 12)
  | .setc a => a.dst == .unused && a.a.isSSrc && a.b == .imm && a.size == 0 && a.imm.extractLsb' 12 11 == 0 &&
      isCreg (a.imm.extractLsb' 0 12)
  | .vadd a | .vsub a | .vmul a | .vmin a | .vmax a => vf2 a
  | .vfma a | .vfnma a => vf3 a
  | .vabs a | .vneg a => vf1 a
  | .vcmpEq a | .vcmpNe a | .vcmpLt a | .vcmpLe a | .vcmpUn a => vcmp a
  | .vsel a => v2 a && a.dst.isVDst a.unit && a.rnd == 0
  | .vclass a => v1 a && a.dst.isVDst a.unit && a.ety.isFp && a.rnd == 0
  | .viadd a | .visub a | .vimul a => vi2s a
  | .vimulh a | .vand a | .vor a | .vxor a | .vshl a | .vshr a | .vsar a => vi2 a
  | .vimin a | .vimax a => vi2 a && a.ety.isI
  | .viminn a | .vimaxn a => vi2 a && a.ety.isN
  | .vicmpEq a | .vicmpNe a => vicmp a
  | .vicmpLt a | .vicmpLe a => vicmp a && a.ety.isI
  | .vicmpLtn a | .vicmpLen a => vicmp a && a.ety.isN
  | .vcvt a => vcvt a
  | .vscale a => width a && a.a.isVSrc a.unit && a.b.isVSrc a.unit && a.c == .unused && a.dst.isVDst a.unit &&
      a.ety.isFp && rnd a && a.imm.toNat ≤ 6
  | .vdiv a => v2 a && a.dst.isOwnV a.unit && a.ety.isFp && rnd a
  | .vsqrt a | .vrsqrt a | .vrcp a | .vexp2 a | .vlog2 a | .vtanh a | .vsigm a => vsp1 a
  | .vsum a => vred a && (if a.ety.isFp then rnd a else sat a)
  | .vrmax a | .vrmin a => vred a && (if a.ety.isFp then rnd a else a.rnd == 0)
  | .vbcast a => v2 a && a.dst.isVDst a.unit && a.rnd == 0
  | .vmov a => v1 a && a.dst.isVDst a.unit && a.rnd == 0
  | .vlane a => v2 a && a.dst.isSDst && (a.a.isOwnV a.unit || a.a.isVLatch) && a.rnd == 0
  | .vins a => v2 a && a.dst.isOwnV a.unit && a.rnd == 0
  | .viota a => v1 a && a.dst.isVDst a.unit && a.ety.isInt && a.rnd == 0
  | .vsig a => width a && a.a.isVSrc a.unit && a.b.isS && (a.c.isOwnV a.unit || a.c.isVLatch) &&
      a.dst.isVDst a.unit && a.ety.isFp && a.rnd == 0 && a.imm == 0
  | .vsigFin a => a.width == 2 && a.a.isVSrc a.unit && a.b == .unused && a.c == .unused &&
      a.dst.isSDst && a.ety == .f32 && a.rnd == 0 && a.imm == 1
  | .xmov a | .xzip a | .xunzip a => x a && a.idx == 0
  | .xperm a => x a
  | .xrot a => x a && a.idx.toNat < bits a.width / 32
  | .xshuf a => x a && 2 ^ a.idx.toNat < bits a.width / 32
  | .xbcast a => x a && a.idx.toNat < bits a.width / 64
  | .mmode a => a.imm == 0 && a.pred == 0 && a.tile == .unused && a.row == 0 && a.map == 0 && a.mode.toNat ≤ 2
  | .mpush a => mTile a && a.pred == 0 && a.row == 0 && a.map.extractLsb' 8 4 == 0
  | .mrow a => mTile a && a.pred == 0 && a.row == 0 && a.map == 0
  | .mbeat a => a.tile == .unused && a.mode.toNat ≤ 2 && a.imm.extractLsb' 1 4 == 0
  | .mdrain a => mTile a && a.pred == 0 && a.map.extractLsb' 1 11 == 0 && a.row.toNat + a.imm.toNat ≤ 255
  | .mclear a => a.tile == .unused && a.pred == 0 && a.map == 0 && a.mode == 0 && a.row.toNat + a.imm.toNat ≤ 255
  | .mbinv a => a.tile == .unused && a.pred == 0 && a.map == 0 && a.row == 0 && a.imm == 0
  | .mtag a => a.tile.isS && a.pred == 0 && a.map == 0 && a.mode == 0 && a.imm == 0
  | .mresolve a => mTile a && a.pred == 0 && a.map == 0 && a.mode.toNat ≤ 3
  | .mcombine a => mTile a && a.pred == 0 && a.map == 0 && a.imm == 0 && a.mode.toNat ≤ 3
  | .ld a => hint a && dist a.dist && a.dst.isSDst && a.base.isS && a.index.isS
  | .vld a => hint a && dist a.dist && a.base.isS && a.index.isS &&
      (a.dst.isV || a.dst == .none || (a.dst.isP && a.size == 0))
  | .vgath a => hint a && dist a.dist && a.base.isS && a.index.isV && (a.dst.isV || a.dst == .none)
  | .tld a => tileLoad a
  | .tldh a => tileLoad a && a.shift == 0
  | .pref a => hint a && a.dst == .none && a.size == 0 && a.dist == 0 && a.base.isS && a.index.isS
  | .aadd a | .aand a | .aor a | .axor a | .amin a | .amax a | .aminn a | .amaxn a | .aswap a =>
    atomic a && a.dst.isSDst
  | .acas a => atomic a && a.dst.isS
  | .acas16 a => bare a && a.size == 0 && a.base.isS && pair a.index && pair a.dst && a.shift == 0 && dist a.dist
  | .st8 a | .st16 a | .st32 a | .st64 a => st a
  | .vst8 a => vst a || (a.base.isS && a.index.isS && a.data.isP)
  | .vst16 a | .vst32 a | .vst64 a => vst a
  | .vscat8 a | .vscat16 a | .vscat32 a | .vscat64 a => vscat a
  | .tst a | .tsth a => tileStore a
  | .append a => a.base.isS && a.index == .unused && a.imm == 0 && a.data.isTl
  | .tdef a => a.fmt == 0 && a.dst.isTl && a.a.isSL && a.b.isSL && a.imm == 0
  | .tcopy a | .ttrans a => a.fmt == 0 && a.dst.isTl && a.a.isTl && a.b == .unused && a.imm == 0
  | .tconv a => a.fmt == 0 && a.dst.isTl && a.a.isTl && a.b == .unused && a.imm.toNat ≤ 4
  | .tfill a => a.fmt == 0 && a.dst.isTl && (a.a.isS || a.a.isConst || a.a == .imm) && a.b == .unused &&
      (a.a == .imm || a.imm == 0)
  | .texp a => a.fmt == 0 && a.dst.isTl && a.a.isSL && a.b == .unused && blockSize a
  | .tcmp a => a.fmt == 0 && a.dst == .unused && a.a.isSL && a.b.isTl && blockSize a
  | .tsrf a => a.fmt == 0 && a.dst == .unused && a.a.isSL && a.b == .unused && a.imm == 0
  | .phase a => a.fmt == 0 && a.dst == .unused && a.a == .unused && a.b == .unused && a.pred == 0 &&
      a.imm.extractLsb' 3 5 == 0 && (a.imm.extractLsb' 0 3).toNat ≤ 4
  | .hmput a => a.fmt == 0 && a.dst.isTl && a.a.isTl && hmRow a.b && hmCount a
  | .hmnode a | .hmget a => a.fmt == 0 && a.dst.isTl && a.a.isTl && hmRow a.b && a.imm == 0
  | .hmhold a | .hmdrop a => a.fmt == 0 && a.dst == .unused && a.a.isTl && hmRow a.b && hmCount a
  | .hmswap a => a.fmt == 0 && a.dst.isSDst && a.a.isTl && a.b.isS && dist (a.imm.extractLsb' 0 8) &&
      a.imm.extractLsb' 8 8 == 0
  | .hmcopy a => a.fmt == 0 && a.dst == .unused && a.a.isTl && a.b.isS
  | .hmstatDirectory a => a.fmt == 0 && a.dst.isSDst && a.a.isTl && hmRow a.b && hmstatImm a 0
  | .hmstatLineTag a => a.fmt == 0 && a.dst.isSDst && a.a.isSL && a.b == .unused && hmstatImm a 1
  | .hmstatFree a => a.fmt == 0 && a.dst.isSDst && a.a.isSL && a.b == .unused && hmstatImm a 2
  | .cbind a => a.a.isSL && a.b.isSL
  | .cacq a => a.a.isSL && a.b == .unused && a.imm == 0
  | .crel a => a.a.isSL && a.b == .unused && a.imm.toNat ≤ 1
  | .ctry a => a.a.isSL && a.b.isSDst && dist (a.imm.extractLsb' 0 8) && a.imm.extractLsb' 8 12 == 0
  | .fence a => a.a == .unused && a.b == .unused && a.imm.toNat ≤ 2
  | .wait a => a.a.isScalarOp && a.b.isScalarOp && 1 ≤ a.imm.toNat && a.imm.toNat ≤ 2
  | .sig a => a.a.isScalarOp && a.imm.toNat ≤ 2 && (if a.imm.toNat == 2 then a.b == .unused else a.b.isScalarOp)
  | .yield a | .mark a => (a.a.isScalarOp || a.a == .imm) && a.b == .unused && (a.a == .imm || a.imm == 0)
  | .done a => a.a == .unused && a.b == .unused && a.imm == 0
  | .spawn a | .eret a => a.a.isScalarOp && a.b == .unused && a.imm == 0
  | .post a => a.a.isScalarOp && a.b.isTl && a.imm == 0
  | .cancelInstr a => a.a.isScalarOp && a.b == .unused && a.imm.toNat ≤ 4
  | .chsend a | .chrecv a => a.a.isTl && a.b == .unused && a.imm.toNat < 4096
  | .eplook a => a.a.isSDst && a.b.isSL && a.imm.toNat < 64
  | .epupd a => a.a.isSL && a.b.isSL && a.imm.extractLsb' 6 2 == 0 && a.imm.extractLsb' 10 10 == 0
  | .epcfg a => a.imm.extractLsb' 8 12 == 0 && (a.imm.extractLsb' 6 2).toNat ≤ 2 &&
      (if (a.imm.extractLsb' 6 2).toNat == 2 then a.a == .unused && a.b == .unused
       else a.a.isScalarOp && a.b.isScalarOp)
  | .trap a => a.a == .unused && a.b == .unused
  | .tlbinv a => a.a.isScalarOp && a.b == .unused && a.imm.toNat ≤ 2
  | .qset a => a.a.isScalarOp && a.b.isScalarOp && a.imm.toNat ≤ 3
    | .bundleIssue _ | .stallCycle _ | .issueMerge _ | .resultLand _ | .loadDataArrive _ _
  | .atomicReleaseDeadline _ | .registerMissMicroTrap _ _ | .trapDelivery _ | .drain _ | .l1Push _ _
  | .l1Drop _ _ | .atom _ | .hand _ | .piece _ _ | .count _ | .host _ | .hm _ | .hmFaultTrap _ | .heapLineFree
  | .releaseWalkerDrop _ | .walkerCounterAdd _ | .cbindPerform _ | .cacqLock _ | .crelPerform _ | .ctryPerform _
  | .fencePerform _ | .hostFlushComplete _ | .sigPerform _ | .spawnPerform _ | .launchStart | .postPerform _
  | .cancelPerform _ | .cancel | .eretPerform _ | .tlbinvPerform _ | .qsetPerform _ | .tsrfPerform _
  | .predictorUpdateRelease _ | .predictorBindRelease _ | .hmcopyHmStep _ | .mxTileWriteFormed _
  | .beadDispatch _ | .arbiterChoice _ | .roundStart | .budgetOverrun _ | .waitWake _ | .beadComplete _
  | .forcedPreemption _ | .worldSwitch _ _ | .graphStart _ _ _ | .graphNodeComplete _ _ | .locketMessage _ _ _
  | .locketHandlerComplete _ | .handlerInstanceStart | .debugStop _ | .dbgresWrite _ | .rds _ _ | .rdx _ _
  | .upg _ _ | .wb _ _ | .ce _ _ | .fwds _ | .fwdx _ | .inv _ _ | .transactionComplete _ | .agentLost _
  | .flitResend _ | .pageWalk _ _ | .migratorEpoch _ | .pageMigrate _ _ | .dcctlWrite _ _
  | .nearConversionDone _ | .refresh _ _ | .hotRowCapture _ _ | .refreshWindowEnd _ | .heapInit _
  | .chsendHand _ | .channelSlotWrite _ | .channelFlush _ _ | .workEntryRun _ _ | .workRunComplete _ _
  | .collectiveAbort _ | .abortMessage _ _ | .functionLevelReset _ | .moduleReset | .bringUpStep _ _
  | .mctlHalt _ | .mctlMigen _ | .resync | .attestation | .pwrAllowWrite _ | .powerGrantSend _ _
  | .powerGrantReceive _ _ | .operatingPointChange _ | .thermalLimit _ | .controlRegisterWrite _
  | .xpdataWrite _ | .rqRegisterWrite _ | .phaseSplitTakesEffect _ | .l2Eviction _ _ _ | .scrub _ _
  | .transformComplete _ | .recordCacheEviction _ _ => true

end Sys2Proof
end

