-- ==== Sys2Proof/Decode.lean ====
section
/-! DEFINITION. Decoding and encoding of slots and bundles (spec 03, R20 to R36 and R61).
A slot that breaks an encoding rule is refused by name; the bundle's issue raises ILLENC for it (R5). -/
namespace Sys2Proof

/-- Why a slot's bits are no instruction: each raises ILLENC at issue. -/
inductive Illegal where
  /-- An opcode that R61 does not assign, or opcode 0 beside other nonzero bits (R22). -/
  | opcode
  /-- A nonzero reserved field (R5). -/
  | reserved
  /-- A reserved port code (R30) or element type code (R25). -/
  | code
  /-- A field value that the instruction's entry does not accept. -/
  | operand
  deriving DecidableEq, Repr

/-- What a slot holds. -/
inductive SlotWord where
  | op (i : Instr)
  | illegal (why : Illegal)
  deriving DecidableEq, Repr

/-- The port of a code (R30). -/
def Port.ofCode (c : BitVec 8) : Option Port :=
  let n := c.toNat
  if n < 0x40 then some (.s (BitVec.ofNat 6 n))
  else if n < 0x80 then some (.v (BitVec.ofNat 6 (n - 0x40)))
  else if n < 0x90 then some (.p (BitVec.ofNat 4 (n - 0x80)))
  else if n < 0xB0 then some (.tl (BitVec.ofNat 5 (n - 0x90)))
  else if 0xC0 ≤ n ∧ n < 0xE0 then some (.const (BitVec.ofNat 5 (n - 0xC0)))
  else match n with
    | 0xB0 => some .iq
    | 0xB1 => some .fq
    | 0xB2 => some .aq
    | 0xB3 => some .bq
    | 0xB4 => some .xq
    | 0xB5 => some .rq
    | 0xE0 => some .none
    | 0xE2 => some .imm
    | _ => Option.none

/-- The code of a port (R30). -/
def Port.code : Port → BitVec 8
  | .s n => BitVec.ofNat 8 n.toNat
  | .v n => BitVec.ofNat 8 (0x40 + n.toNat)
  | .p n => BitVec.ofNat 8 (0x80 + n.toNat)
  | .tl n => BitVec.ofNat 8 (0x90 + n.toNat)
  | .const k => BitVec.ofNat 8 (0xC0 + k.toNat)
  | .iq => 0xB0
  | .fq => 0xB1
  | .aq => 0xB2
  | .bq => 0xB3
  | .xq => 0xB4
  | .rq => 0xB5
  | .none => 0xE0
  | .imm => 0xE2

/-- The fields of an S64 slot (R24). -/
def unpackS (w : BitVec 64) : Option SArgs := do
  let dst ← Port.ofCode (w.extractLsb' 12 8)
  let a ← Port.ofCode (w.extractLsb' 20 8)
  let b ← Port.ofCode (w.extractLsb' 28 8)
  pure { size := w.extractLsb' 10 2, dst := dst, a := a, b := b, pred := w.extractLsb' 36 4, neg := w.getLsbD 40,
         imm := w.extractLsb' 41 23 }

/-- An S64 slot from its fields (R24). -/
def packS (op : BitVec 10) (a : SArgs) : BitVec 64 :=
  a.imm ++ BitVec.ofBool a.neg ++ a.pred ++ a.b.code ++ a.a.code ++ a.dst.code ++ a.size ++ op

/-- The fields of a V64 slot (R24). -/
def unpackV (u : VUnit) (w : BitVec 64) : Option VArgs := do
  let dst ← Port.ofCode (w.extractLsb' 12 8)
  let a ← Port.ofCode (w.extractLsb' 20 8)
  let b ← Port.ofCode (w.extractLsb' 28 8)
  let c ← Port.ofCode (w.extractLsb' 36 8)
  let t ← ETy.ofCode (w.extractLsb' 49 4)
  pure { unit := u, width := w.extractLsb' 10 2, dst := dst, a := a, b := b, c := c, pred := w.extractLsb' 44 4,
         neg := w.getLsbD 48, ety := t, rnd := w.extractLsb' 53 3, imm := w.extractLsb' 56 8 }

/-- A V64 slot from its fields (R24). -/
def packV (op : BitVec 10) (a : VArgs) : BitVec 64 :=
  a.imm ++ a.rnd ++ a.ety.code ++ BitVec.ofBool a.neg ++ a.pred ++ a.c.code ++ a.b.code ++ a.a.code ++ a.dst.code ++
  a.width ++ op

/-- The fields of an X32 slot, whose reserved bits are not looked at (R24). -/
def unpackX (w : BitVec 32) : Option XArgs := do
  let dst ← Port.ofCode (w.extractLsb' 8 8)
  let src ← Port.ofCode (w.extractLsb' 16 8)
  pure { width := w.extractLsb' 28 2, idx := w.extractLsb' 24 4, src := src, dst := dst }

/-- An X32 slot from its fields (R24). -/
def packX (op : BitVec 8) (a : XArgs) : BitVec 32 :=
  (0 : BitVec 2) ++ a.width ++ a.idx ++ a.src.code ++ a.dst.code ++ op

/-- The fields of an M48 slot (R24). -/
def unpackM (w : BitVec 48) : Option MArgs := do
  let t ← Port.ofCode (w.extractLsb' 31 8)
  pure { imm := w.extractLsb' 43 5, pred := w.extractLsb' 39 4, tile := t, row := w.extractLsb' 23 8,
         map := w.extractLsb' 11 12, mode := w.extractLsb' 8 3 }

/-- An M48 slot from its fields (R24). -/
def packM (op : BitVec 8) (a : MArgs) : BitVec 48 :=
  a.imm ++ a.pred ++ a.tile.code ++ a.row ++ a.map ++ a.mode ++ op

/-- The fields of an L64 slot (R24). -/
def unpackL (w : BitVec 64) : Option LArgs := do
  let dst ← Port.ofCode (w.extractLsb' 8 8)
  let base ← Port.ofCode (w.extractLsb' 16 8)
  let index ← Port.ofCode (w.extractLsb' 24 8)
  pure { hint := w.extractLsb' 62 2, size := w.extractLsb' 60 2, spec := w.getLsbD 59, neg := w.getLsbD 58,
         pred := w.extractLsb' 54 4, dist := w.extractLsb' 46 8, imm := w.extractLsb' 34 12,
         shift := w.extractLsb' 32 2, index := index, base := base, dst := dst }

/-- An L64 slot from its fields (R24). -/
def packL (op : BitVec 8) (a : LArgs) : BitVec 64 :=
  a.hint ++ a.size ++ BitVec.ofBool a.spec ++ BitVec.ofBool a.neg ++ a.pred ++ a.dist ++ a.imm ++ a.shift ++
  a.index.code ++ a.base.code ++ a.dst.code ++ op

/-- The fields of an ST48 slot (R24). -/
def unpackST (w : BitVec 48) : Option STArgs := do
  let data ← Port.ofCode (w.extractLsb' 8 8)
  let base ← Port.ofCode (w.extractLsb' 16 8)
  let index ← Port.ofCode (w.extractLsb' 24 8)
  pure { pred := w.extractLsb' 44 4, imm := w.extractLsb' 32 12, index := index, base := base, data := data }

/-- An ST48 slot from its fields (R24). -/
def packST (op : BitVec 8) (a : STArgs) : BitVec 48 :=
  a.pred ++ a.imm ++ a.index.code ++ a.base.code ++ a.data.code ++ op

/-- The fields of a T64 slot, whose reserved bits are not looked at (R24). -/
def unpackT (w : BitVec 64) : Option TArgs := do
  let dst ← Port.ofCode (w.extractLsb' 8 8)
  let a ← Port.ofCode (w.extractLsb' 16 8)
  let b ← Port.ofCode (w.extractLsb' 24 8)
  pure { fmt := w.extractLsb' 52 4, pred := w.extractLsb' 48 4, imm := w.extractLsb' 32 16, b := b, a := a,
         dst := dst }

/-- A T64 slot from its fields (R24). -/
def packT (op : BitVec 8) (a : TArgs) : BitVec 64 :=
  (0 : BitVec 8) ++ a.fmt ++ a.pred ++ a.imm ++ a.b.code ++ a.a.code ++ a.dst.code ++ op

/-- The fields of a Y48 slot (R24). -/
def unpackY (w : BitVec 48) : Option YArgs := do
  let a ← Port.ofCode (w.extractLsb' 8 8)
  let b ← Port.ofCode (w.extractLsb' 16 8)
  pure { pred := w.extractLsb' 44 4, imm := w.extractLsb' 24 20, b := b, a := a }

/-- A Y48 slot from its fields (R24). -/
def packY (op : BitVec 8) (a : YArgs) : BitVec 48 :=
  a.pred ++ a.imm ++ a.b.code ++ a.a.code ++ op

/-- The instruction of an opcode of the S slot (R61). -/
def ofOpcodeS (op : Nat) (a : SArgs) : Option Instr :=
  match op with
  | 0x001 => some (.add a)
  | 0x002 => some (.sub a)
  | 0x003 => some (.mul a)
  | 0x004 => some (.mulh a)
  | 0x005 => some (.mulhn a)
  | 0x006 => some (.neg a)
  | 0x007 => some (.abs a)
  | 0x008 => some (.min a)
  | 0x009 => some (.max a)
  | 0x00A => some (.minn a)
  | 0x00B => some (.maxn a)
  | 0x010 => some (.and a)
  | 0x011 => some (.or a)
  | 0x012 => some (.xor a)
  | 0x013 => some (.andn a)
  | 0x014 => some (.not a)
  | 0x015 => some (.shl a)
  | 0x016 => some (.shr a)
  | 0x017 => some (.sar a)
  | 0x018 => some (.rol a)
  | 0x020 => some (.clz a)
  | 0x021 => some (.ctz a)
  | 0x022 => some (.popc a)
  | 0x023 => some (.bext a)
  | 0x024 => some (.bins a)
  | 0x025 => some (.bswap a)
  | 0x030 => some (.cmpEq a)
  | 0x031 => some (.cmpNe a)
  | 0x032 => some (.cmpLt a)
  | 0x033 => some (.cmpLe a)
  | 0x034 => some (.cmpLtn a)
  | 0x035 => some (.cmpLen a)
  | 0x040 => some (.mov a)
  | 0x041 => some (.sel a)
  | 0x042 => some (.li a)
  | 0x043 => some (.lih a)
  | 0x044 => some (.lea a)
  | 0x080 => some (.fadd a)
  | 0x081 => some (.fsub a)
  | 0x082 => some (.fmul a)
  | 0x083 => some (.fma a)
  | 0x084 => some (.fnma a)
  | 0x085 => some (.fmin a)
  | 0x086 => some (.fmax a)
  | 0x087 => some (.fabs a)
  | 0x088 => some (.fneg a)
  | 0x090 => some (.fcmpEq a)
  | 0x091 => some (.fcmpNe a)
  | 0x092 => some (.fcmpLt a)
  | 0x093 => some (.fcmpLe a)
  | 0x094 => some (.fcmpUn a)
  | 0x098 => some (.fcvt a)
  | 0x099 => some (.fclass a)
  | 0x0A0 => some (.fdiv a)
  | 0x0A1 => some (.fsqrt a)
  | 0x0A2 => some (.frsqrt a)
  | 0x0C0 => some (.pand a)
  | 0x0C1 => some (.por a)
  | 0x0C2 => some (.pxor a)
  | 0x0C3 => some (.pandn a)
  | 0x0C4 =>
    if a.size == 0 then
      if a.a.isP && !a.dst.isS then some (.pmov a) else some (.pmovLo a)
    else if a.size == 1 then some (.pmovHi a) else none
  | 0x0C5 => some (.pany a)
  | 0x0C6 => some (.pall a)
  | 0x100 => some (.br a)
  | 0x101 => some (.jmp a)
  | 0x102 => some (.call a)
  | 0x103 => some (.ret a)
  | 0x104 => some (.loop a)
  | 0x180 => some (.getc a)
  | 0x181 => some (.setc a)
  | _ => none

/-- The instruction of an opcode of the vector slots (R61). -/
def ofOpcodeV (op : Nat) (a : VArgs) : Option Instr :=
  match op with
  | 0x001 => some (.vadd a)
  | 0x002 => some (.vsub a)
  | 0x003 => some (.vmul a)
  | 0x004 => some (.vfma a)
  | 0x005 => some (.vfnma a)
  | 0x006 => some (.vmin a)
  | 0x007 => some (.vmax a)
  | 0x008 => some (.vabs a)
  | 0x009 => some (.vneg a)
  | 0x010 => some (.vcmpEq a)
  | 0x011 => some (.vcmpNe a)
  | 0x012 => some (.vcmpLt a)
  | 0x013 => some (.vcmpLe a)
  | 0x014 => some (.vcmpUn a)
  | 0x018 => some (.vsel a)
  | 0x019 => some (.vclass a)
  | 0x020 => some (.viadd a)
  | 0x021 => some (.visub a)
  | 0x022 => some (.vimul a)
  | 0x023 => some (.vimulh a)
  | 0x024 => some (.vand a)
  | 0x025 => some (.vor a)
  | 0x026 => some (.vxor a)
  | 0x027 => some (.vshl a)
  | 0x028 => some (.vshr a)
  | 0x029 => some (.vsar a)
  | 0x02A => some (.vimin a)
  | 0x02B => some (.vimax a)
  | 0x02C => some (.viminn a)
  | 0x02D => some (.vimaxn a)
  | 0x030 => some (.vicmpEq a)
  | 0x031 => some (.vicmpNe a)
  | 0x032 => some (.vicmpLt a)
  | 0x033 => some (.vicmpLe a)
  | 0x034 => some (.vicmpLtn a)
  | 0x035 => some (.vicmpLen a)
  | 0x040 => some (.vcvt a)
  | 0x041 => some (.vscale a)
  | 0x050 => some (.vdiv a)
  | 0x051 => some (.vsqrt a)
  | 0x052 => some (.vrsqrt a)
  | 0x053 => some (.vrcp a)
  | 0x054 => some (.vexp2 a)
  | 0x055 => some (.vlog2 a)
  | 0x056 => some (.vtanh a)
  | 0x057 => some (.vsigm a)
  | 0x060 => some (.vsum a)
  | 0x061 => some (.vrmax a)
  | 0x062 => some (.vrmin a)
  | 0x070 => some (.vbcast a)
  | 0x071 => some (.vmov a)
  | 0x072 => some (.vlane a)
  | 0x073 => some (.vins a)
  | 0x074 => some (.viota a)
  | 0x078 => if a.imm == 0 then some (.vsig a) else if a.imm == 1 then some (.vsigFin a) else none
  | _ => none

/-- The instruction of an opcode of the X slot (R61). -/
def ofOpcodeX (op : Nat) (a : XArgs) : Option Instr :=
  match op with
  | 0x01 => some (.xmov a)
  | 0x02 => some (.xperm a)
  | 0x03 => some (.xrot a)
  | 0x04 => some (.xshuf a)
  | 0x05 => some (.xbcast a)
  | 0x06 => some (.xzip a)
  | 0x07 => some (.xunzip a)
  | _ => none

/-- The instruction of an opcode of the MX slot (R61). -/
def ofOpcodeM (op : Nat) (a : MArgs) : Option Instr :=
  match op with
  | 0x01 => some (.mmode a)
  | 0x02 => some (.mpush a)
  | 0x03 => some (.mrow a)
  | 0x04 => some (.mbeat a)
  | 0x05 => some (.mdrain a)
  | 0x06 => some (.mclear a)
  | 0x07 => some (.mbinv a)
  | 0x08 => some (.mtag a)
  | 0x09 => some (.mresolve a)
  | 0x0A => some (.mcombine a)
  | _ => none

/-- The instruction of an opcode of the LD slot (R61). -/
def ofOpcodeL (op : Nat) (a : LArgs) : Option Instr :=
  match op with
  | 0x01 => some (.ld a)
  | 0x02 => some (.vld a)
  | 0x03 => some (.vgath a)
  | 0x04 => some (.tld a)
  | 0x05 => some (.tldh a)
  | 0x06 => some (.pref a)
  | 0x10 => some (.aadd a)
  | 0x11 => some (.aand a)
  | 0x12 => some (.aor a)
  | 0x13 => some (.axor a)
  | 0x14 => some (.amin a)
  | 0x15 => some (.amax a)
  | 0x16 => some (.aminn a)
  | 0x17 => some (.amaxn a)
  | 0x18 => some (.aswap a)
  | 0x19 => some (.acas a)
  | 0x1A => some (.acas16 a)
  | _ => none

/-- The instruction of an opcode of the ST slot (R61). -/
def ofOpcodeST (op : Nat) (a : STArgs) : Option Instr :=
  match op with
  | 0x01 => some (.st8 a)
  | 0x02 => some (.st16 a)
  | 0x03 => some (.st32 a)
  | 0x04 => some (.st64 a)
  | 0x10 => some (.vst8 a)
  | 0x11 => some (.vst16 a)
  | 0x12 => some (.vst32 a)
  | 0x13 => some (.vst64 a)
  | 0x14 => some (.vscat8 a)
  | 0x15 => some (.vscat16 a)
  | 0x16 => some (.vscat32 a)
  | 0x17 => some (.vscat64 a)
  | 0x20 => some (.tst a)
  | 0x21 => some (.tsth a)
  | 0x28 => some (.append a)
  | _ => none

/-- The instruction of an opcode of the TM slot (R61). -/
def ofOpcodeT (op : Nat) (a : TArgs) : Option Instr :=
  match op with
  | 0x01 => some (.tdef a)
  | 0x02 => some (.tcopy a)
  | 0x03 => some (.ttrans a)
  | 0x04 => some (.tconv a)
  | 0x05 => some (.texp a)
  | 0x06 => some (.tcmp a)
  | 0x07 => some (.tfill a)
  | 0x08 => some (.tsrf a)
  | 0x09 => some (.phase a)
  | 0x20 => some (.hmput a)
  | 0x21 => some (.hmnode a)
  | 0x22 => some (.hmget a)
  | 0x23 => some (.hmhold a)
  | 0x24 => some (.hmdrop a)
  | 0x25 => some (.hmswap a)
  | 0x26 => some (.hmcopy a)
  | 0x27 =>
    match (a.imm.extractLsb' 8 2).toNat with
    | 0 => some (.hmstatDirectory a)
    | 1 => some (.hmstatLineTag a)
    | 2 => some (.hmstatFree a)
    | _ => none
  | _ => none

/-- The instruction of an opcode of the SY slot (R61). -/
def ofOpcodeY (op : Nat) (a : YArgs) : Option Instr :=
  match op with
  | 0x01 => some (.cbind a)
  | 0x02 => some (.cacq a)
  | 0x03 => some (.crel a)
  | 0x04 => some (.ctry a)
  | 0x05 => some (.fence a)
  | 0x10 => some (.wait a)
  | 0x11 => some (.sig a)
  | 0x12 => some (.yield a)
  | 0x13 => some (.mark a)
  | 0x14 => some (.done a)
  | 0x15 => some (.spawn a)
  | 0x16 => some (.post a)
  | 0x17 => some (.cancelInstr a)
  | 0x20 => some (.chsend a)
  | 0x21 => some (.chrecv a)
  | 0x30 => some (.eplook a)
  | 0x31 => some (.epupd a)
  | 0x32 => some (.epcfg a)
  | 0x40 => some (.trap a)
  | 0x41 => some (.eret a)
  | 0x42 => some (.tlbinv a)
  | 0x43 => some (.qset a)
  | _ => none

/-- A decoded slot: the entry's conditions decide whether it stands. -/
def checked (i : Option Instr) : SlotWord :=
  match i with
  | none => .illegal .opcode
  | some i => if wellFormed i then .op i else .illegal .operand

/-- Decode the S slot. -/
def decodeS (w : BitVec 64) : SlotWord :=
  match unpackS w with
  | none => .illegal .code
  | some a => checked (ofOpcodeS (w.extractLsb' 0 10).toNat a)

/-- The X operation that a word names, its operands read but not yet judged. -/
def readX (w : BitVec 32) : Option Instr :=
  if w.extractLsb' 30 2 != 0 then none
  else match unpackX w with
    | none => none
    | some a => ofOpcodeX (w.extractLsb' 0 8).toNat a

/-- Decode the X slot. -/
def decodeX (w : BitVec 32) : SlotWord :=
  if w.extractLsb' 30 2 != 0 then .illegal .reserved else
  match unpackX w with
  | none => .illegal .code
  | some a => checked (ofOpcodeX (w.extractLsb' 0 8).toNat a)

/-- Decode the MX slot. -/
def decodeM (w : BitVec 48) : SlotWord :=
  match unpackM w with
  | none => .illegal .code
  | some a => checked (ofOpcodeM (w.extractLsb' 0 8).toNat a)

/-- Decode the LD slot. -/
def decodeL (w : BitVec 64) : SlotWord :=
  match unpackL w with
  | none => .illegal .code
  | some a => checked (ofOpcodeL (w.extractLsb' 0 8).toNat a)

/-- Decode the ST slot. -/
def decodeST (w : BitVec 48) : SlotWord :=
  match unpackST w with
  | none => .illegal .code
  | some a => checked (ofOpcodeST (w.extractLsb' 0 8).toNat a)

/-- Decode the TM slot. -/
def decodeT (w : BitVec 64) : SlotWord :=
  if w.extractLsb' 56 8 != 0 then .illegal .reserved else
  match unpackT w with
  | none => .illegal .code
  | some a => checked (ofOpcodeT (w.extractLsb' 0 8).toNat a)

/-- Decode the SY slot. -/
def decodeY (w : BitVec 48) : SlotWord :=
  match unpackY w with
  | none => .illegal .code
  | some a => checked (ofOpcodeY (w.extractLsb' 0 8).toNat a)

/-- Decode a vector slot. -/
def decodeV (u : VUnit) (w : BitVec 64) : SlotWord :=
  match unpackV u w with
  | none => .illegal .code
  | some a => checked (ofOpcodeV (w.extractLsb' 0 10).toNat a)

/-- Decode the bits of a slot, read as a number. -/
def decodeSlot (k : Slot) (w : Nat) : SlotWord :=
  match k with
  | .s => decodeS (BitVec.ofNat 64 w)
  | .va => decodeV .a (BitVec.ofNat 64 w)
  | .vb => decodeV .b (BitVec.ofNat 64 w)
  | .x => decodeX (BitVec.ofNat 32 w)
  | .mx => decodeM (BitVec.ofNat 48 w)
  | .ld => decodeL (BitVec.ofNat 64 w)
  | .st => decodeST (BitVec.ofNat 48 w)
  | .tm => decodeT (BitVec.ofNat 64 w)
  | .sy => decodeY (BitVec.ofNat 48 w)

/-- The slots of a bundle in the order of its bits, with the first bit and the width of each (R20). -/
def slotBits : List (Slot × Nat × Nat) :=
  [(.s, 16, 64), (.va, 80, 64), (.vb, 144, 64), (.x, 208, 32), (.mx, 240, 48), (.ld, 288, 64), (.st, 352, 48),
   (.tm, 400, 64), (.sy, 464, 48)]

/-- A decoded bundle: its header and its occupied slots, lowest bits first (R20 to R22). -/
structure Bundle where
  reservedBits : Bool
  early : Bool
  lend : Bool
  ckpt : Bool
  stall : Nat
  slots : List (Slot × SlotWord)
  deriving DecidableEq, Repr

/-- Decode the slots of a bundle; an all-zero slot is empty (R22). -/
def decodeSlots (w : BitVec 512) : List (Slot × Nat × Nat) → List (Slot × SlotWord)
  | [] => []
  | (k, lo, n) :: r =>
    let x := (w.toNat >>> lo) % 2 ^ n
    if x = 0 then decodeSlots w r else (k, decodeSlot k x) :: decodeSlots w r

/-- Decode a bundle (R20, R21). -/
def decodeBundle (w : BitVec 512) : Bundle :=
  { reservedBits := w.extractLsb' 7 9 != 0, early := w.getLsbD 6, lend := w.getLsbD 5, ckpt := w.getLsbD 4,
    stall := (w.extractLsb' 0 4).toNat, slots := decodeSlots w slotBits }

/-- The operations of a bundle that decode. -/
def Bundle.instrs (b : Bundle) : List Instr :=
  b.slots.filterMap fun (_, x) => match x with
    | .op i => some i
    | .illegal _ => none

/-- A list of bytes as one number, the first byte lowest (R2). -/
def bytesToNat : List Byte → Nat
  | [] => 0
  | b :: r => b.toNat + 256 * bytesToNat r

/-- The bytes of a number, the lowest first (R2). -/
def natToBytes : Nat → Nat → List Byte
  | 0, _ => []
  | n + 1, x => BitVec.ofNat 8 x :: natToBytes n (x / 256)

/-- Sign extension of the low `n` bits of a number (R70, R226). -/
def sextNat (n x : Nat) : Int :=
  let y := x % 2 ^ n
  if 2 * y < 2 ^ n then y else (y : Int) - 2 ^ n

/-- A table row's instruction: 32 bits are an X slot, 512 bits a bundle of one operation.  The other slots' formats
have widths in common, so the table's numbering names no slot for them.  An X operation whose operands its entry does not
accept is that operation still: its issue raises ILLENC (R5). -/
def decodeTableWord (nbits w : Nat) : Option Instr :=
  if nbits = 32 then readX (BitVec.ofNat 32 w)
  else if nbits = 512 then
    match (decodeBundle (BitVec.ofNat 512 w)).slots with
    | [(_, .op i)] => some i
    | _ => none
  else none

/-- The slot of an operation; events have none (R20). -/
def slotOf : Instr → Option Slot
  | .add _ | .sub _ | .mul _ | .mulh _ | .mulhn _ | .neg _ | .abs _ | .min _ | .max _ | .minn _ | .maxn _
  | .and _ | .or _ | .xor _ | .andn _ | .not _ | .shl _ | .shr _ | .sar _ | .rol _ | .clz _ | .ctz _ | .popc _
  | .bext _ | .bins _ | .bswap _ | .cmpEq _ | .cmpNe _ | .cmpLt _ | .cmpLe _ | .cmpLtn _ | .cmpLen _ | .mov _
  | .sel _ | .li _ | .lih _ | .lea _ | .fadd _ | .fsub _ | .fmul _ | .fma _ | .fnma _ | .fmin _ | .fmax _
  | .fabs _ | .fneg _ | .fcmpEq _ | .fcmpNe _ | .fcmpLt _ | .fcmpLe _ | .fcmpUn _ | .fcvt _ | .fclass _
  | .fdiv _ | .fsqrt _ | .frsqrt _ | .pand _ | .por _ | .pxor _ | .pandn _ | .pmov _ | .pmovLo _ | .pmovHi _
  | .pany _ | .pall _ | .br _ | .jmp _ | .call _ | .ret _ | .loop _ | .getc _ | .setc _ => some .s
  | .vadd a | .vsub a | .vmul a | .vfma a | .vfnma a | .vmin a | .vmax a | .vabs a | .vneg a | .vcmpEq a
  | .vcmpNe a | .vcmpLt a | .vcmpLe a | .vcmpUn a | .vsel a | .vclass a | .viadd a | .visub a | .vimul a
  | .vimulh a | .vand a | .vor a | .vxor a | .vshl a | .vshr a | .vsar a | .vimin a | .vimax a | .viminn a
  | .vimaxn a | .vicmpEq a | .vicmpNe a | .vicmpLt a | .vicmpLe a | .vicmpLtn a | .vicmpLen a | .vcvt a
  | .vscale a | .vdiv a | .vsqrt a | .vrsqrt a | .vrcp a | .vexp2 a | .vlog2 a | .vtanh a | .vsigm a | .vsum a
  | .vrmax a | .vrmin a | .vbcast a | .vmov a | .vlane a | .vins a | .viota a | .vsig a | .vsigFin a => match a.unit with
    | .a => some .va
    | .b => some .vb
  | .xmov _ | .xperm _ | .xrot _ | .xshuf _ | .xbcast _ | .xzip _ | .xunzip _ => some .x
  | .mmode _ | .mpush _ | .mrow _ | .mbeat _ | .mdrain _ | .mclear _ | .mbinv _ | .mtag _ | .mresolve _
  | .mcombine _ => some .mx
  | .ld _ | .vld _ | .vgath _ | .tld _ | .tldh _ | .pref _ | .aadd _ | .aand _ | .aor _ | .axor _ | .amin _
  | .amax _ | .aminn _ | .amaxn _ | .aswap _ | .acas _ | .acas16 _ => some .ld
  | .st8 _ | .st16 _ | .st32 _ | .st64 _ | .vst8 _ | .vst16 _ | .vst32 _ | .vst64 _ | .vscat8 _ | .vscat16 _
  | .vscat32 _ | .vscat64 _ | .tst _ | .tsth _ | .append _ => some .st
  | .tdef _ | .tcopy _ | .ttrans _ | .tconv _ | .texp _ | .tcmp _ | .tfill _ | .tsrf _ | .phase _ | .hmput _
  | .hmnode _ | .hmget _ | .hmhold _ | .hmdrop _ | .hmswap _ | .hmcopy _ | .hmstatDirectory _ | .hmstatLineTag _
  | .hmstatFree _ => some .tm
  | .cbind _ | .cacq _ | .crel _ | .ctry _ | .fence _ | .wait _ | .sig _ | .yield _ | .mark _ | .done _
  | .spawn _ | .post _ | .cancelInstr _ | .chsend _ | .chrecv _ | .eplook _ | .epupd _ | .epcfg _ | .trap _
  | .eret _ | .tlbinv _ | .qset _ => some .sy
  | .bundleIssue _ | .stallCycle _ | .issueMerge _ | .resultLand _ | .loadDataArrive _ _
  | .atomicReleaseDeadline _ | .registerMissMicroTrap _ _ | .trapDelivery _ | .drain _ | .l1Push _ _
  | .l1Drop _ _ | .atom _ | .hand _ | .piece _ _ | .count _ | .host _ | .hm _ | .hmFaultTrap _ | .heapLineFree
  | .releaseWalkerDrop _ | .walkerCounterAdd _ | .cbindPerform _ | .cacqLock _ | .crelPerform _ | .ctryPerform _
  | .fencePerform _ | .hostFlushComplete _ | .sigPerform _ | .spawnPerform _ | .launchStart | .postPerform _
  | .cancelPerform _ | .cancel | .eretPerform _ | .tlbinvPerform _ | .qsetPerform _ | .tsrfPerform _
  | .predictorUpdateRelease _ | .predictorBindRelease _ | .hmcopyHmStep _ | .mxTileWriteFormed _
  | .beadDispatch _ | .arbiterChoice _ | .roundStart | .budgetOverrun _ | .waitWake _ | .beadComplete _
  | .forcedPreemption _ | .worldSwitch _ _ | .graphStart _ _ _ | .graphNodeComplete _ _ | .locketMessage _ _ _
  | .locketHandlerComplete _ | .handlerInstanceStart | .debugStop _ | .dbgresWrite _ | .rds _ _ | .rdx _ _
  | .upg _ _ | .wb _ _ | .ce _ _ | .fwds _ | .fwdx _ | .inv _ _ | .transactionComplete _ | .agentLost _
  | .flitResend _ | .pageWalk _ _ | .migratorEpoch _ | .pageMigrate _ _ | .dcctlWrite _ _
  | .nearConversionDone _ | .refresh _ _ | .hotRowCapture _ _ | .refreshWindowEnd _ | .heapInit _
  | .chsendHand _ | .channelSlotWrite _ | .channelFlush _ _ | .workEntryRun _ _ | .workRunComplete _ _
  | .collectiveAbort _ | .abortMessage _ _ | .functionLevelReset _ | .moduleReset | .bringUpStep _ _
  | .mctlHalt _ | .mctlMigen _ | .resync | .attestation | .pwrAllowWrite _ | .powerGrantSend _ _
  | .powerGrantReceive _ _ | .operatingPointChange _ | .thermalLimit _ | .controlRegisterWrite _
  | .xpdataWrite _ | .rqRegisterWrite _ | .phaseSplitTakesEffect _ | .l2Eviction _ _ _ | .scrub _ _
  | .transformComplete _ | .recordCacheEviction _ _ => none

/-- The bits of an operation's slot, as a number (R24, R61); 0 for an event. -/
def encode : Instr → Nat
  | .add a => (packS 0x1 a).toNat
  | .sub a => (packS 0x2 a).toNat
  | .mul a => (packS 0x3 a).toNat
  | .mulh a => (packS 0x4 a).toNat
  | .mulhn a => (packS 0x5 a).toNat
  | .neg a => (packS 0x6 a).toNat
  | .abs a => (packS 0x7 a).toNat
  | .min a => (packS 0x8 a).toNat
  | .max a => (packS 0x9 a).toNat
  | .minn a => (packS 0xA a).toNat
  | .maxn a => (packS 0xB a).toNat
  | .and a => (packS 0x10 a).toNat
  | .or a => (packS 0x11 a).toNat
  | .xor a => (packS 0x12 a).toNat
  | .andn a => (packS 0x13 a).toNat
  | .not a => (packS 0x14 a).toNat
  | .shl a => (packS 0x15 a).toNat
  | .shr a => (packS 0x16 a).toNat
  | .sar a => (packS 0x17 a).toNat
  | .rol a => (packS 0x18 a).toNat
  | .clz a => (packS 0x20 a).toNat
  | .ctz a => (packS 0x21 a).toNat
  | .popc a => (packS 0x22 a).toNat
  | .bext a => (packS 0x23 a).toNat
  | .bins a => (packS 0x24 a).toNat
  | .bswap a => (packS 0x25 a).toNat
  | .cmpEq a => (packS 0x30 a).toNat
  | .cmpNe a => (packS 0x31 a).toNat
  | .cmpLt a => (packS 0x32 a).toNat
  | .cmpLe a => (packS 0x33 a).toNat
  | .cmpLtn a => (packS 0x34 a).toNat
  | .cmpLen a => (packS 0x35 a).toNat
  | .mov a => (packS 0x40 a).toNat
  | .sel a => (packS 0x41 a).toNat
  | .li a => (packS 0x42 a).toNat
  | .lih a => (packS 0x43 a).toNat
  | .lea a => (packS 0x44 a).toNat
  | .fadd a => (packS 0x80 a).toNat
  | .fsub a => (packS 0x81 a).toNat
  | .fmul a => (packS 0x82 a).toNat
  | .fma a => (packS 0x83 a).toNat
  | .fnma a => (packS 0x84 a).toNat
  | .fmin a => (packS 0x85 a).toNat
  | .fmax a => (packS 0x86 a).toNat
  | .fabs a => (packS 0x87 a).toNat
  | .fneg a => (packS 0x88 a).toNat
  | .fcmpEq a => (packS 0x90 a).toNat
  | .fcmpNe a => (packS 0x91 a).toNat
  | .fcmpLt a => (packS 0x92 a).toNat
  | .fcmpLe a => (packS 0x93 a).toNat
  | .fcmpUn a => (packS 0x94 a).toNat
  | .fcvt a => (packS 0x98 a).toNat
  | .fclass a => (packS 0x99 a).toNat
  | .fdiv a => (packS 0xA0 a).toNat
  | .fsqrt a => (packS 0xA1 a).toNat
  | .frsqrt a => (packS 0xA2 a).toNat
  | .pand a => (packS 0xC0 a).toNat
  | .por a => (packS 0xC1 a).toNat
  | .pxor a => (packS 0xC2 a).toNat
  | .pandn a => (packS 0xC3 a).toNat
  | .pmov a => (packS 0xC4 a).toNat
  | .pmovLo a => (packS 0xC4 a).toNat
  | .pmovHi a => (packS 0xC4 a).toNat
  | .pany a => (packS 0xC5 a).toNat
  | .pall a => (packS 0xC6 a).toNat
  | .br a => (packS 0x100 a).toNat
  | .jmp a => (packS 0x101 a).toNat
  | .call a => (packS 0x102 a).toNat
  | .ret a => (packS 0x103 a).toNat
  | .loop a => (packS 0x104 a).toNat
  | .getc a => (packS 0x180 a).toNat
  | .setc a => (packS 0x181 a).toNat
  | .vadd a => (packV 0x1 a).toNat
  | .vsub a => (packV 0x2 a).toNat
  | .vmul a => (packV 0x3 a).toNat
  | .vfma a => (packV 0x4 a).toNat
  | .vfnma a => (packV 0x5 a).toNat
  | .vmin a => (packV 0x6 a).toNat
  | .vmax a => (packV 0x7 a).toNat
  | .vabs a => (packV 0x8 a).toNat
  | .vneg a => (packV 0x9 a).toNat
  | .vcmpEq a => (packV 0x10 a).toNat
  | .vcmpNe a => (packV 0x11 a).toNat
  | .vcmpLt a => (packV 0x12 a).toNat
  | .vcmpLe a => (packV 0x13 a).toNat
  | .vcmpUn a => (packV 0x14 a).toNat
  | .vsel a => (packV 0x18 a).toNat
  | .vclass a => (packV 0x19 a).toNat
  | .viadd a => (packV 0x20 a).toNat
  | .visub a => (packV 0x21 a).toNat
  | .vimul a => (packV 0x22 a).toNat
  | .vimulh a => (packV 0x23 a).toNat
  | .vand a => (packV 0x24 a).toNat
  | .vor a => (packV 0x25 a).toNat
  | .vxor a => (packV 0x26 a).toNat
  | .vshl a => (packV 0x27 a).toNat
  | .vshr a => (packV 0x28 a).toNat
  | .vsar a => (packV 0x29 a).toNat
  | .vimin a => (packV 0x2A a).toNat
  | .vimax a => (packV 0x2B a).toNat
  | .viminn a => (packV 0x2C a).toNat
  | .vimaxn a => (packV 0x2D a).toNat
  | .vicmpEq a => (packV 0x30 a).toNat
  | .vicmpNe a => (packV 0x31 a).toNat
  | .vicmpLt a => (packV 0x32 a).toNat
  | .vicmpLe a => (packV 0x33 a).toNat
  | .vicmpLtn a => (packV 0x34 a).toNat
  | .vicmpLen a => (packV 0x35 a).toNat
  | .vcvt a => (packV 0x40 a).toNat
  | .vscale a => (packV 0x41 a).toNat
  | .vdiv a => (packV 0x50 a).toNat
  | .vsqrt a => (packV 0x51 a).toNat
  | .vrsqrt a => (packV 0x52 a).toNat
  | .vrcp a => (packV 0x53 a).toNat
  | .vexp2 a => (packV 0x54 a).toNat
  | .vlog2 a => (packV 0x55 a).toNat
  | .vtanh a => (packV 0x56 a).toNat
  | .vsigm a => (packV 0x57 a).toNat
  | .vsum a => (packV 0x60 a).toNat
  | .vrmax a => (packV 0x61 a).toNat
  | .vrmin a => (packV 0x62 a).toNat
  | .vbcast a => (packV 0x70 a).toNat
  | .vmov a => (packV 0x71 a).toNat
  | .vlane a => (packV 0x72 a).toNat
  | .vins a => (packV 0x73 a).toNat
  | .viota a => (packV 0x74 a).toNat
  | .vsig a => (packV 0x78 a).toNat
  | .vsigFin a => (packV 0x78 a).toNat
  | .xmov a => (packX 0x1 a).toNat
  | .xperm a => (packX 0x2 a).toNat
  | .xrot a => (packX 0x3 a).toNat
  | .xshuf a => (packX 0x4 a).toNat
  | .xbcast a => (packX 0x5 a).toNat
  | .xzip a => (packX 0x6 a).toNat
  | .xunzip a => (packX 0x7 a).toNat
  | .mmode a => (packM 0x1 a).toNat
  | .mpush a => (packM 0x2 a).toNat
  | .mrow a => (packM 0x3 a).toNat
  | .mbeat a => (packM 0x4 a).toNat
  | .mdrain a => (packM 0x5 a).toNat
  | .mclear a => (packM 0x6 a).toNat
  | .mbinv a => (packM 0x7 a).toNat
  | .mtag a => (packM 0x8 a).toNat
  | .mresolve a => (packM 0x9 a).toNat
  | .mcombine a => (packM 0xA a).toNat
  | .ld a => (packL 0x1 a).toNat
  | .vld a => (packL 0x2 a).toNat
  | .vgath a => (packL 0x3 a).toNat
  | .tld a => (packL 0x4 a).toNat
  | .tldh a => (packL 0x5 a).toNat
  | .pref a => (packL 0x6 a).toNat
  | .aadd a => (packL 0x10 a).toNat
  | .aand a => (packL 0x11 a).toNat
  | .aor a => (packL 0x12 a).toNat
  | .axor a => (packL 0x13 a).toNat
  | .amin a => (packL 0x14 a).toNat
  | .amax a => (packL 0x15 a).toNat
  | .aminn a => (packL 0x16 a).toNat
  | .amaxn a => (packL 0x17 a).toNat
  | .aswap a => (packL 0x18 a).toNat
  | .acas a => (packL 0x19 a).toNat
  | .acas16 a => (packL 0x1A a).toNat
  | .st8 a => (packST 0x1 a).toNat
  | .st16 a => (packST 0x2 a).toNat
  | .st32 a => (packST 0x3 a).toNat
  | .st64 a => (packST 0x4 a).toNat
  | .vst8 a => (packST 0x10 a).toNat
  | .vst16 a => (packST 0x11 a).toNat
  | .vst32 a => (packST 0x12 a).toNat
  | .vst64 a => (packST 0x13 a).toNat
  | .vscat8 a => (packST 0x14 a).toNat
  | .vscat16 a => (packST 0x15 a).toNat
  | .vscat32 a => (packST 0x16 a).toNat
  | .vscat64 a => (packST 0x17 a).toNat
  | .tst a => (packST 0x20 a).toNat
  | .tsth a => (packST 0x21 a).toNat
  | .append a => (packST 0x28 a).toNat
  | .tdef a => (packT 0x1 a).toNat
  | .tcopy a => (packT 0x2 a).toNat
  | .ttrans a => (packT 0x3 a).toNat
  | .tconv a => (packT 0x4 a).toNat
  | .texp a => (packT 0x5 a).toNat
  | .tcmp a => (packT 0x6 a).toNat
  | .tfill a => (packT 0x7 a).toNat
  | .tsrf a => (packT 0x8 a).toNat
  | .phase a => (packT 0x9 a).toNat
  | .hmput a => (packT 0x20 a).toNat
  | .hmnode a => (packT 0x21 a).toNat
  | .hmget a => (packT 0x22 a).toNat
  | .hmhold a => (packT 0x23 a).toNat
  | .hmdrop a => (packT 0x24 a).toNat
  | .hmswap a => (packT 0x25 a).toNat
  | .hmcopy a => (packT 0x26 a).toNat
  | .hmstatDirectory a => (packT 0x27 a).toNat
  | .hmstatLineTag a => (packT 0x27 a).toNat
  | .hmstatFree a => (packT 0x27 a).toNat
  | .cbind a => (packY 0x1 a).toNat
  | .cacq a => (packY 0x2 a).toNat
  | .crel a => (packY 0x3 a).toNat
  | .ctry a => (packY 0x4 a).toNat
  | .fence a => (packY 0x5 a).toNat
  | .wait a => (packY 0x10 a).toNat
  | .sig a => (packY 0x11 a).toNat
  | .yield a => (packY 0x12 a).toNat
  | .mark a => (packY 0x13 a).toNat
  | .done a => (packY 0x14 a).toNat
  | .spawn a => (packY 0x15 a).toNat
  | .post a => (packY 0x16 a).toNat
  | .cancelInstr a => (packY 0x17 a).toNat
  | .chsend a => (packY 0x20 a).toNat
  | .chrecv a => (packY 0x21 a).toNat
  | .eplook a => (packY 0x30 a).toNat
  | .epupd a => (packY 0x31 a).toNat
  | .epcfg a => (packY 0x32 a).toNat
  | .trap a => (packY 0x40 a).toNat
  | .eret a => (packY 0x41 a).toNat
  | .tlbinv a => (packY 0x42 a).toNat
  | .qset a => (packY 0x43 a).toNat
  | .bundleIssue _ | .stallCycle _ | .issueMerge _ | .resultLand _ | .loadDataArrive _ _
  | .atomicReleaseDeadline _ | .registerMissMicroTrap _ _ | .trapDelivery _ | .drain _ | .l1Push _ _
  | .l1Drop _ _ | .atom _ | .hand _ | .piece _ _ | .count _ | .host _ | .hm _ | .hmFaultTrap _ | .heapLineFree
  | .releaseWalkerDrop _ | .walkerCounterAdd _ | .cbindPerform _ | .cacqLock _ | .crelPerform _ | .ctryPerform _
  | .fencePerform _ | .hostFlushComplete _ | .sigPerform _ | .spawnPerform _ | .launchStart | .postPerform _
  | .cancelPerform _ | .cancel | .eretPerform _ | .tlbinvPerform _ | .qsetPerform _ | .tsrfPerform _
  | .predictorUpdateRelease _ | .predictorBindRelease _ | .hmcopyHmStep _ | .mxTileWriteFormed _
  | .beadDispatch _ | .arbiterChoice _ | .roundStart | .budgetOverrun _ | .waitWake _ | .beadComplete _
  | .forcedPreemption _ | .worldSwitch _ _ | .graphStart _ _ _ | .graphNodeComplete _ _ | .locketMessage _ _ _
  | .locketHandlerComplete _ | .handlerInstanceStart | .debugStop _ | .dbgresWrite _ | .rds _ _ | .rdx _ _
  | .upg _ _ | .wb _ _ | .ce _ _ | .fwds _ | .fwdx _ | .inv _ _ | .transactionComplete _ | .agentLost _
  | .flitResend _ | .pageWalk _ _ | .migratorEpoch _ | .pageMigrate _ _ | .dcctlWrite _ _
  | .nearConversionDone _ | .refresh _ _ | .hotRowCapture _ _ | .refreshWindowEnd _ | .heapInit _
  | .chsendHand _ | .channelSlotWrite _ | .channelFlush _ _ | .workEntryRun _ _ | .workRunComplete _ _
  | .collectiveAbort _ | .abortMessage _ _ | .functionLevelReset _ | .moduleReset | .bringUpStep _ _
  | .mctlHalt _ | .mctlMigen _ | .resync | .attestation | .pwrAllowWrite _ | .powerGrantSend _ _
  | .powerGrantReceive _ _ | .operatingPointChange _ | .thermalLimit _ | .controlRegisterWrite _
  | .xpdataWrite _ | .rqRegisterWrite _ | .phaseSplitTakesEffect _ | .l2Eviction _ _ _ | .scrub _ _
  | .transformComplete _ | .recordCacheEviction _ _ => 0

/-- The bundle with the header `h` and the operations `l` (R20). -/
def encodeBundle (h : Nat) (l : List Instr) : Nat :=
  l.foldl (fun acc i =>
    match slotOf i with
    | none => acc
    | some k =>
      match slotBits.find? (fun (q, _, _) => q == k) with
      | some (_, lo, _) => acc + encode i * 2 ^ lo
      | none => acc) h

end Sys2Proof
end

