-- ==== Sys2Proof/Config.lean ====
section
/-! DEFINITION. What an implementation fixes and the spec does not state: free values (no body, so nothing can be proved
of them) and the figures of the module (spec 01, R9). -/
namespace Sys2Proof.Config

/-- Cores of a die (R9). -/
def coresPerDie : Nat := 128
/-- Dies of a module (R9). -/
def dies : Nat := 4
/-- Entries of the withhold buffer (R334). -/
def withholdMax : Nat := 256
/-- Entries of the landing part of a write-timing buffer (R43, R45). -/
def landingMax : Nat := 64
/-- Lane groups of a core (R55). -/
def laneGroups : Nat := 6
/-- Entries of a core TLB (R266). -/
def coreTlbMax : Nat := 256
/-- Entries of a die's last-level TLB (R266). -/
def dieTlbMax : Nat := 512
/-- 128-byte lines of an instruction cache of 64 KiB (R216). -/
def icacheLines : Nat := 512
/-- Ways of a set of an L2 slice (R257). -/
def l2Ways : Nat := 24
/-- Ways of a set that may hold pinned lines (R258). -/
def pinWays : Nat := 12
/-- Ways of an L1 (R256). -/
def l1Ways : Nat := 8
/-- Ways of a stack's cache layer (R11, R259). -/
def layerWays : Nat := 16
/-- Nanoseconds of an epoch of the migrator (R263). -/
def epochNs : Nat := 1000000
/-- Nanoseconds of a refresh window (R271). -/
def windowNs : Nat := 32000000
/-- Nanoseconds of a scheduling round (R328). -/
def roundNs : Nat := 100000
/-- Figures an inverse-exponential series is carried to, in bits. -/
def seriesBits : Nat := 256

/-- The module's serial number (R392).  The spec gives no value: log 7. -/
opaque fuseId : BitVec 64
/-- Signature bytes of an attestation report (R399); a free value: log 10. -/
opaque signatureByte : Nat → BitVec 8
/-- Whether an ECDSA P-521 signature over an image's hash verifies with the vendor's public key (R398), whose hash alone stands in
the fuses; a free value: log 10. -/
opaque signatureVerifies : BitVec 512 → BitVec 1056 → Bool
/-- The images that the module holds when it is powered on (R395): no rule gives their bytes; a free value: log 10. -/
opaque flash : BootImages
/-- The fused rollback count (R398); a free value: log 10. -/
opaque rollbackCount : Nat
/-- Virtual functions enabled (R399): the host sets them in PCI Express configuration space, which the spec does not
describe; log 8. -/
opaque enabledVfs : Nat
/-- Energy in microjoules that a context uses in a stretch of its run (R375); a free value: log 11. -/
opaque energyShare : Nat → BitVec 64
/-- Average draw of the module in watts at an operating point (R400, R401, DRAW); a free value: log 11. -/
opaque draw : Nat → Nat → BitVec 16
/-- Whether a correctly rounded transcendental result is the larger in magnitude of its two candidates, where the model's
intervals do not decide it (R106); the argument names function, mode, format and operand; a free value: log 12. -/
opaque roundsUp : Nat → Bool
/-- What an S operation of a format (bf16 0, f16 1) reads from an imm23 whose binary32 value the format does not hold: R34
converts only exactly; a free value: log 16. -/
opaque inexactImmediate : Nat → BitVec 23 → BitVec 64
/-- 1024 bytes of a save area whose layout R341 does not give; a free value: log 13. -/
opaque savedBlock : Nat → BitVec 8192
/-- The way that a full set of an L1, an L2 slice or a cache layer gives up (R256, R257, R259: no program can rely on it);
a free value: log 127. -/
opaque victim : Nat → Nat
/-- The locket that a copy descriptor of a job names, 0 for none (R326): R322 gives the descriptor no field for it; a free value: log
74. -/
opaque copyLocket : Nat → Nat → Nat
/-- Byte of the destination of a work run after it: R386 to R388 leave the moves of a schedule to its firmware; a free value: log 88. -/
opaque scheduleByte : Nat → Nat → BitVec 8
/-- The projection sign of a seed for an element index above 32 bits (R179); a free value: log 17. -/
opaque projectionBeyond : BitVec 64 → Nat → Nat → Bool

end Sys2Proof.Config
end

