-- ==== Sys2Proof/Machine/State.lean ====
section
/-! DEFINITION. The state of one Lorlon L9 module as plain data.  INVENTORY.md lists every field with the rule that names it. -/
namespace Sys2Proof.Machine

/-- Reasons to stop without a next state.  A trap is no such reason: it is taken (R338). -/
inductive Fault where
  /-- Raised by a slot operation that acts in a context slot in which no bead runs: the spec gives it no trap to take.
  Safe: no bundle issues in an idle slot, so the hardware has no such step. -/
  | idleContext
  deriving DecidableEq, Repr

/-- Reasons for which an instruction has no meaning. -/
inductive Refusal where
  /-- Raised by an arm of `exec` whose instruction has no meaning yet.  Safe: the model stops. -/
  | notModelled (mnemonic : String)
  deriving DecidableEq, Repr

/-- A table with rising keys and no default entry. -/
abbrev Table (α : Type) := List (Nat × α)
/-- A table for long runs of keys: pages of 128 keys with rising numbers, none of them empty. -/
abbrev Paged (α : Type) := Table (Table α)

/-- Trap codes (R336). -/
inductive TrapCode where
  | illenc | illsched | xlate | perm | align | arith | abandon | hmprobe | hmfull | hmwrite | priv | soft | watch
  | brk | cancel | mchk
  deriving DecidableEq, Repr

/-- The record of a speculative load that could not be translated (R183). -/
structure AbandonRec where
  pc : Nat
  slot : Slot
  code : TrapCode
  addr : Nat
  deriving DecidableEq, Repr

/-- A trap that has been raised, with what its record says (R340). -/
structure Cause where
  code : TrapCode
  slot : Option Slot
  pc : Nat
  cc : Nat
  addr : Nat
  load : Option AbandonRec
  aflags : BitVec 5
  row : Nat
  log : Nat
  /-- A hallmark mutation or `hmcopy` raised it as it performed (R291). -/
  deferred : Bool
  /-- The line at which a read at issue failed: its fault-log entry is written when the trap is reported (R223, R273). -/
  line : Option Nat
  deriving DecidableEq, Repr

/-- Where a result lands (R37, R43, R91). -/
inductive Dest where
  | s (n : BitVec 6)
  | v (n : BitVec 6)
  | p (n : BitVec 4)
  | iq | fq | aq | bq | xq
  | creg (n : BitVec 12)
  | flagsOnly
  deriving DecidableEq, Repr

/-- One entry of a write-timing buffer (R43, R45, R46, R127). -/
structure Landing where
  uid : Nat
  due : Nat
  dest : Dest
  value : BitVec 1024
  mask : BitVec 1024
  flags : BitVec 5
  enables : BitVec 5
  pc : Nat
  slot : Slot
  /-- The entry is in the landing part (R45). -/
  load : Bool
  /-- Its data has not arrived (R46). -/
  waiting : Bool
  /-- It belongs to a withheld atomic that a checkpoint must release by `due` (R208). -/
  deadline : Bool
  /-- Its data holds an uncorrectable error (R273, R223), with the fault-log entry. -/
  faulty : Option (TrapCode × Nat × Nat)
  /-- Lines that the L2 served for it (R305). -/
  lines : Nat
  deriving DecidableEq, Repr

/-- An entry of the loop stack (R89). -/
structure LoopEntry where
  start : Nat
  remaining : Nat
  deriving DecidableEq, Repr

/-- A tile register (R237, R238). -/
structure TileReg where
  defined : Bool
  image : BitVec 128
  base : W64
  abandoned : Option AbandonRec
  deriving DecidableEq, Repr

/-- The part of a context that the shadow set holds (R332). -/
structure Arch where
  cc : Nat
  s : Vector W64 64
  v : Vector VReg 64
  p : Vector Pred 16
  iq : W64
  fq : W64
  aq : VReg
  bq : VReg
  xq : VReg
  wtb : List Landing
  loops : List LoopEntry
  target : Option Nat
  tiles : Vector TileReg 32
  pattern : Vector (BitVec 256) 64
  fflags : W64
  fmode : W64
  cctl : W64
  xpctl : W64
  rqctl : W64
  rqseed : W64
  rqaddr : W64
  rqpos : W64
  tcbase : W64
  deriving DecidableEq, Repr

/-- The bead that a context runs (R313). -/
structure Bead where
  addr : Nat
  job : Nat
  sup : Bool
  queue : Nat
  rank : Nat
  save : Nat
  launch : Nat
  index : Nat
  budget : Nat
  /-- Names one run of a bead from its first dispatch on; the model's own. -/
  life : Nat
  deriving DecidableEq, Repr

/-- A tile register as an operation captured it, with the physical 64 KiB frames of its region (R227, R240). -/
structure TileRef where
  tl : Nat
  reg : TileReg
  frames : List (Nat × Nat)
  deriving DecidableEq, Repr

/-- Bytes of a read: physical and virtual address, number of bytes, bit of the value at which they stand. -/
structure Seg where
  pa : Nat
  va : Nat
  n : Nat
  bit : Nat
  pte : W64
  deriving DecidableEq, Repr

/-- What a read of R207 reads. -/
inductive ReadWhat where
  | bytes (segs : List Seg) (hint : BitVec 2)
  | lineTag (pa : Nat)
  | directory (name : BitVec 128) (hid : Nat)
  | freeCounts (agent : Nat)
  deriving DecidableEq, Repr

/-- A read issued and not yet performed (R207). -/
structure Read where
  uid : Option Nat
  what : ReadWhat
  /-- Entries issued before it: only these supply bytes (R196). -/
  issuedBefore : Nat
  /-- Entries released before it (R207, R300). -/
  releasedBefore : Nat
  due : Nat
  pc : Nat
  slot : Slot
  /-- The bead life that issued it, and its job; a read into `_` outlives its bead's stay in the context (R47, R207). -/
  life : Nat
  job : Nat
  deriving DecidableEq, Repr

/-- The function of an atomic (R235, R236). -/
inductive AtomicOp where
  | add | and | or | xor | min | max | minn | maxn | swap | cas
  deriving DecidableEq, Repr

/-- A bit move of a transfer piece: `n` bits to bit address `dst`, from bit address `src` or from the number `lit`. -/
structure Move where
  dst : Nat
  src : Nat
  n : Nat
  lit : Option Nat
  /-- The layout unit supplies the bits as an element's padding (R149). -/
  pad : Bool := false
  deriving DecidableEq, Repr

/-- A part of a transfer in one line (R206).  `expand` holds source and destination bytes of a zero-mask block (R246). -/
structure Piece where
  line : Nat
  store : Bool
  moves : List Move
  expand : Option (List Nat × List Nat)
  deriving DecidableEq, Repr

/-- What a transfer does beside its pieces. -/
inductive TransferKind where
  | load
  | store
  /-- `append`: header address and rows (R244). -/
  | append (hdr rows : Nat)
  /-- `chsend`: job, channel, peer core, contributor, element number and data (R383). -/
  | chsend (job ch agent core contributor n depth : Nat) (data : List Byte)
  /-- `chrecv`: job, channel and tile (R384). -/
  | chrecv (job ch : Nat) (tile : TileRef)
  /-- `hmget`: the heap line kept for the transfer (R292). -/
  | hmget (line : Nat)
  /-- `hmcopy`: the root to drop after the last piece, and the walker group of its entry (R299). -/
  | hmcopy (root : BitVec 128) (group : Nat)
  /-- A graph's copy node (R323). -/
  | graphCopy (g j : Nat)
  /-- An element-wise transform of whole tiles (R245). -/
  | convert (dst src : TileRef) (rounding : BitVec 3)
  | transform
  deriving DecidableEq, Repr

/-- A tile transfer in progress (R204, R211). -/
structure Transfer where
  uid : Nat
  /-- The context whose tile queue holds it; none for the graph walker. -/
  ctx : Option Nat
  life : Nat
  job : Nat
  agent : Nat
  pc : Nat
  kind : TransferKind
  /-- Its place in its context's order of issue: entries issued before it (R211). -/
  order : Nat
  tiles : List Nat
  pieces : List Piece
  /-- Store-queue entries that must drain before its pieces (R211). -/
  after : Nat
  /-- Physical address of the completion counter, and the leaf of its page (R240). -/
  counter : Option (Nat × W64)
  /-- Virtual pages it pins: job, address and bytes (R227). -/
  pins : List (Nat × Nat × Nat)
  /-- Page-table entries of the 64 KiB frames of its memory, which give each line's home attribute (R228, R269). -/
  leaves : List (Nat × W64)
  deriving DecidableEq, Repr

/-- What an entry of the withhold buffer or store queue does when it performs (R204, R334). -/
inductive Act where
  /-- Bytes by physical address, and the page-table entries of their 64 KiB frames (R232). -/
  | store (bytes : List (Nat × Byte)) (ptes : List (Nat × W64))
  | mxWrite (tl : Nat) (formed : Bool) (bytes : List (Nat × Byte))
  /-- `due` is its landing cycle c + D. -/
  | atomic (op : AtomicOp) (pa n : Nat) (operand expected : Nat) (uids : List Nat) (due : Nat) (pte : W64)
  | tileStore (t : Transfer) (source : TileRef)
  | append (t : Transfer) (source : TileRef) (hdr pitch limit : Nat) (frames : List (Nat × Nat)) (va : Nat)
  | chsend (ch : Nat) (source : TileRef) (entry : Nat) (t : Transfer)
  | mbinv (bank : Nat)
  /-- Clasp instructions carry the leaf of the clasp's page. -/
  | cbind (pa : Nat) (base : W64) (length : Nat) (pte : W64)
  | cacq (pa : Nat) (pte : W64)
  | crel (pa : Nat) (keep : Bool) (pte : W64)
  | ctry (pa : Nat) (uid : Option Nat) (pte : W64)
  | fence (scope : Nat)
  | tsrf (pa : Nat)
  | epupd (table entry : Nat) (actual : List Nat)
  | epcfg (table : Nat) (op : Nat) (seed : W64) (layer : BitVec 16)
  | hmput (names lines : TileRef) (row n : Nat)
  | hmnode (names line : TileRef) (row : Nat)
  | hmhold (names : TileRef) (row n : Nat)
  | hmdrop (names : TileRef) (row n : Nat)
  | hmswap (values : TileRef) (pa : Nat) (uid : Option Nat) (pte : W64)
  | hmcopy (names : TileRef) (row depth : Nat) (frames : List (Nat × Nat)) (va : Nat) (t : Transfer)
  | sig (pa : Nat) (op : Nat) (b : W64) (pte : W64)
  | spawn (desc : Nat)
  | post (locket module : Nat) (msg : BitVec 256)
  | cancel (lvl : Nat) (target : W64)
  | eret (addr : Nat)
  | tlbinv (scope job : Nat) (va : W64)
  | qset (queue f : Nat) (v : W64)
  deriving DecidableEq, Repr

/-- An entry of the withhold buffer or the store queue. -/
structure Entry where
  seq : Nat
  released : Nat
  job : Nat
  sup : Bool
  bead : Nat
  life : Nat
  launch : Nat
  pc : Nat
  slot : Slot
  act : Act
  pins : List (Nat × Nat × Nat)
  deriving DecidableEq, Repr

/-- Causes of a freeze, numbered as byte 21 of a drift record (R369), and a preemption that waits for data, which writes no record (R48, R310,
R370). -/
inductive FreezeCause where
  | lateData | registerMiss | pendingTile | lostMerge | awaitedHallmark | recordOrPhase | otherPhase | preempted
  deriving DecidableEq, Repr

/-- Why a context is to be preempted (R310, R317, R324, R372). -/
inductive PreemptCause where
  | worldSwitch | overrun | cancelled | debugStop
  deriving DecidableEq, Repr

/-- A context slot (R9, R204). -/
structure Ctx where
  run : Option Bead
  arch : Arch
  shadow : Arch
  ckpt : Nat
  /-- The model's own: names given out before the last checkpoint are smaller. -/
  ckptUid : Nat
  pc : Nat
  owed : Option Nat
  withheld : List Entry
  storeQ : List Entry
  reads : List Read
  issued : Nat
  released : Nat
  hostAddr : Option Nat
  flush : Bool
  unfetched : List Nat
  pendTraps : List Cause
  freeze : Option (FreezeCause × Nat × Bool)
  ready : Nat
  granted : Bool
  pmctl : W64
  pmlock : W64
  pmsel : Vector W64 8
  pmcnt : Vector W64 8
  jobsel : BitVec 16
  spent : Nat
  slotJob : Option Nat
  /-- Bundles of the bead's debug stops that it has not issued since, with the comparators that have stopped it there (R372). -/
  stopSkip : List (Nat × List Nat)
  phaseWin : Option (Nat × Nat)
  preempt : Option PreemptCause
  deriving DecidableEq, Repr

/-- A line of an L1 (R196, R204), with the leaf of its page, which says where its agent's L2 holds it (R258). -/
structure L1Line where
  data : BitVec 1024
  valid : BitVec 128
  dirty : BitVec 128
  excl : Bool
  pte : W64
  deriving DecidableEq, Repr

/-- A translation held in a TLB (R266). -/
structure TlbEntry where
  job : Nat
  vpage : Nat
  pages : Nat
  entry : W64
  deriving DecidableEq, Repr

/-- A pushed row of a bank's staging store: 512 operand codes, 512 sc8 exponents, the row's format (R157). -/
structure BankRow where
  codes : BitVec 8192
  scales : BitVec 4096
  fmt : ETy
  deriving DecidableEq, Repr

/-- A bank state (R158). -/
inductive BankState where
  | invalid | filling | valid | abandoned
  deriving DecidableEq, Repr

/-- A bank descriptor (R157). -/
structure BankDesc where
  fill : Nat
  isInt : Option Bool
  st : BankState
  load : Option AbandonRec
  deriving DecidableEq, Repr

/-- A bank: its descriptor and the rows of its staging store below the fill count (R157, R163). -/
structure Bank where
  desc : BankDesc
  rows : List BankRow
  deriving DecidableEq, Repr

/-- An accumulator row and its pendant tag (R157, R159). -/
structure AccRow where
  elems : BitVec 16384
  tag : BitVec 30
  /-- The load that abandoned the bank of an abandoned row (R172). -/
  load : Option AbandonRec
  deriving DecidableEq, Repr

/-- A row-lane of a row buffer (R157). -/
structure RowLane where
  ints : List Int
  exp : Int
  nav : Bool
  deriving DecidableEq, Repr

/-- A row buffer (R157). -/
structure RowBuf where
  fmt : ETy
  lanes : Vector RowLane 4
  deriving DecidableEq, Repr

/-- An open digit sequence (R160). -/
structure DigitSeq where
  next : Nat
  row : Nat
  bank : Nat
  sums : List Int
  deriving DecidableEq, Repr

/-- A core's matrix array (R157). -/
structure MxArray where
  banks : Vector Bank 8
  acc : Table AccRow
  accShadow : Table AccRow
  lo : Option Bool
  hi : Option Bool
  /-- The contexts whose checkpoints copied the lower and the upper half into the shadow (R163). -/
  snapLo : Option Bool
  snapHi : Option Bool
  rowBuf : Vector RowBuf 2
  digits : Vector (Vector (Option DigitSeq) 4) 2
  snapRowBuf : Vector RowBuf 2
  snapDigits : Vector (Vector (Option DigitSeq) 4) 2
  snapBanks : Vector BankDesc 8
  deriving DecidableEq, Repr

/-- A core (R9). -/
structure Core where
  u : Nat
  /-- A move of the L1 split: new size, context, landing cycle (R250). -/
  phase : Option (Nat × Nat × Nat)
  l1 : Table L1Line
  icache : Table (BitVec 1024)
  tlb : List TlbEntry
  vf : Nat
  arr : MxArray
  deriving DecidableEq, Repr

/-- States of an L2 copy (R219). -/
inductive L2State where
  | s | e | m | o
  deriving DecidableEq, Repr

/-- An agent's copy of a line (R219, R223, R257, R258).  `dirty` tells an E copy that its agent has turned into M; `slice` is the
slice that holds it. -/
structure L2Copy where
  st : L2State
  dirty : Bool
  pinned : Bool
  slice : Nat
  inWriteback : Bool
  deriving DecidableEq, Repr

/-- Coherence requests that a home serves (R220). -/
inductive Request where
  | rds | rdx | upg
  deriving DecidableEq, Repr

/-- A home transaction in progress (R221, R222). -/
structure HomeTxn where
  req : Request
  q : Nat
  owner : Option Nat
  forwarded : Bool
  ownerDirty : Bool
  fromWriteback : Bool
  acks : List Nat
  deriving DecidableEq, Repr

/-- A predictor table (R178). -/
structure Predictor where
  bound : Bool
  job : Nat
  lastJob : Option Nat
  layer : BitVec 16
  seed : W64
  entries : Table (BitVec 52)
  deriving DecidableEq, Repr

/-- Registers and rights of a job (R360, R376, R379). -/
structure Job where
  vf : Nat
  fab : Bool
  capture : Bool
  ring : Nat
  captured : Nat
  cancelled : Bool
  ptroot : W64
  traph : W64
  hmctl : W64
  hmsalt0 : W64
  hmsalt1 : W64
  hmwcnt : W64
  mkring : W64
  mkthr : W64
  jcnt : W64
  chtab : W64
  deriving DecidableEq, Repr

/-- A heap descriptor (R286). -/
structure Heap where
  hbase : W64
  nlines : W64
  dbase : W64
  word24 : W64
  deriving DecidableEq, Repr

/-- A queue descriptor (R327).  `allotNext` is ALLOT, `left` is LEFT. -/
structure Queue where
  head : W64
  tail : W64
  allot : BitVec 32
  left : BitVec 32
  word24 : W64
  deriving DecidableEq, Repr

/-- A locket message (R325). -/
structure Mail where
  locket : Nat
  msg : BitVec 256
  src : MailSource
  deriving DecidableEq, Repr

/-- What a launch belongs to (R319 to R323, R326, R338, R402). -/
inductive LaunchKind where
  | plain
  | node (g j : Nat)
  | locket (n slot : Nat)
  | trap (s1 s2 : Nat)
  deriving DecidableEq, Repr

/-- A launch in progress (R319, R320): `job` is the job that started it, `beadJob` that of its beads. -/
structure Launch where
  job : Nat
  beadJob : Nat
  desc : Nat
  n : Nat
  ccnt : Nat
  args : Nat
  count : Nat
  cancelled : Bool
  kind : LaunchKind
  beads : Nat
  /-- The launch has completed; it stays known until each of its beads has counted. -/
  ended : Bool
  deriving DecidableEq, Repr

/-- A launch or handler that waits to start (R319, R402). -/
inductive Start where
  | launch (job desc : Nat) (kind : LaunchKind)
  | handler (job template : Nat) (kind : LaunchKind) (instanceNo : Option Nat) (super : Bool) (launch : Nat)
  deriving DecidableEq, Repr

/-- A graph in progress (R323). -/
structure Graph where
  die : Nat
  job : Nat
  desc : Nat
  /-- Nodes that have completed and that the walker has not counted yet, with their cancel marks. -/
  finished : List (Nat × Bool)
  /-- Nodes that will not run: successors of cancelled nodes. -/
  gone : List Nat
  cancelled : Bool
  deriving DecidableEq, Repr

/-- What a cancel names (R354). -/
inductive CancelTarget where
  | unit (job addr : Nat)
  | launch (id : Nat)
  | graph (g : Nat)
  | phase (job counter : Nat)
  | job (n : Nat) (kill : Bool)
  deriving DecidableEq, Repr

/-- A bead that has issued `done` and has not completed (R197). -/
structure Completing where
  job : Nat
  addr : Nat
  life : Nat
  launch : Nat
  ctx : Nat
  deriving DecidableEq, Repr

/-- The parts of a saved bead that no program reads (R341), beside the images in memory. -/
structure Saved where
  arch : Arch
  shadow : Arch
  ckpt : Nat
  ckptUid : Nat
  withheld : List Entry
  issued : Nat
  owed : Option Nat
  pendTraps : List Cause
  pmctl : W64
  pmlock : W64
  pmsel : Vector W64 8
  pmcnt : Vector W64 8
  addr : Nat
  life : Nat
  ctx : Nat
  array : Option MxArray
  stopSkip : List (Nat × List Nat)
  deriving DecidableEq, Repr

/-- A channel's receiving state (R383, R384). -/
structure Chan where
  /-- Contributions present: element number, contributor, arrival time. -/
  present : List (Nat × Nat × Nat)
  /-- Pending receives: transfer and time of issue. -/
  recvs : List (Nat × Nat)
  /-- Agents whose contributions have arrived: the stream receives from them (R388). -/
  senders : List Nat
  deriving DecidableEq, Repr

/-- A DCCTL register (R259, R260). -/
structure Dcctl where
  ways : Nat
  busy : Bool
  err : Bool
  target : Nat
  deriving DecidableEq, Repr

/-- Messages of the coherence protocol (R220). -/
inductive CohKind where
  | rds | rdx | upg | wb | ce | fwds | fwdx | inv | data | ack | done
  deriving DecidableEq, Repr

/-- A message that leaves the module over the fabric (R220, R224, R353, R383, R388, R400). -/
inductive FabricMsg where
  /-- A coherence message; WB and Data carry the line's data (R220). -/
  | coherence (kind : CohKind) (src dst line : Nat) (data : Option (BitVec 1024))
  /-- An access at the home of a home-01 line on another module: the bytes that it writes, none for a read (R224). -/
  | access (src line : Nat) (bytes : List (Nat × Byte))
  /-- The answer to an access of an agent on another module: the line as it was before the access (R224). -/
  | answer (dst line : Nat) (data : BitVec 1024)
  /-- A hm step at the home of a name on another module (R206, R288). -/
  | hmStep (home : Nat) (name : BitVec 128)
  | post (module locket job : Nat) (msg : BitVec 256)
  | slot (agent core job ch contributor n : Nat) (data : List Byte)
  | abort (agent job : Nat)
  | grant (port watts : Nat)
  deriving DecidableEq, Repr

/-- The coherence domain as the homes of this module keep it (R217 to R225). -/
structure Homes where
  tags : Paged (BitVec 16)
  tagErr : List Nat
  dataErr : List Nat
  /-- Correctable errors that no access has found yet: line and error (R223, R273). -/
  latent : List (Nat × MemErr)
  l2 : Paged L2Copy
  busy : Table HomeTxn
  waiting : List (Nat × Request × Nat)
  present : List Nat
  lost : List Nat
  /-- Pinned fills that found 12 lines pinned in their set (R258). -/
  pinOver : Nat
  deriving DecidableEq, Repr

/-- Hallmarked memory (R284 to R295). -/
structure Hallmarks where
  heaps : Table Heap
  heapInit : List Nat
  /-- Names whose count reached 0 and whose Acks are awaited: name, walker group, job. -/
  freeing : List (BitVec 128 × Nat × Nat)
  /-- Children given to the walker: group, job, name. -/
  walker : List (Nat × Nat × BitVec 128)
  /-- Entries whose drops are not all performed: group, job, whether the entry itself has performed. -/
  groups : List (Nat × Nat × Bool)
  deriving DecidableEq, Repr

/-- Queues, launches, graphs and lockets as the hub and the arbiters hold them (19). -/
structure Hub where
  queues : Table Queue
  rotate : Table Nat
  chosen : Table Nat
  lockets : Table (BitVec 256)
  mail : List Mail
  resync : List (BitVec 256)
  launchId : BitVec 32
  launches : Table Launch
  graphs : Table Graph
  starts : List Start
  handlerWait : List Start
  /-- Beads in STATE 3: job, record, whether their condition has held since they began to wait (R314, R348). -/
  waiters : List (Nat × Nat × Bool)
  completing : List Completing
  handlersDone : List (Nat × Nat)
  cancels : List CancelTarget
  /-- Lives of beads that a cancel has reached while entries of theirs stand in store queues: no acquire of theirs waits (R200, R324). -/
  ended : List Nat
  /-- Jobs with a cancelled level whose collectives have not been told (R324 step 3). -/
  aborts : List Nat
  saved : Table Saved
  timebase : W64
  roundAt : Nat
  /-- Deferred counter events: life, 1 above the least context cycle or 0 for a queue step's, code, number (R374). -/
  pmDefer : List (Nat × Nat × Nat × Nat)
  deriving DecidableEq, Repr

/-- Registers and logs of the management window (22, 24). -/
structure Management where
  flog : Table (BitVec 512)
  flogN : Nat
  step : Nat
  ready : Bool
  migen : Bool
  halt : Bool
  pwrFloor : BitVec 16
  pwrAllow : BitVec 16
  pwrDraw : BitVec 16
  point : Nat
  suph : W64
  comparators : Table (BitVec 128)
  work : Table (BitVec 512)
  images : List (BitVec 512)
  /-- Bring-up has stopped at a verification that failed (R395). -/
  bootStopped : Bool
  /-- A die is at 105 °C or more: the governor stays at 0.6 GHz (R401). -/
  hot : Bool
  /-- An operating point that work entries sharing a channel take together, and the nanosecond at which they do (R401). -/
  pointNext : Option (Nat × Nat)
  deriving DecidableEq, Repr

/-- Pages that the migrator of an agent is exchanging line by line (R224, R263). -/
structure Migration where
  /-- The page of the capacity tier, and the page of HBM with which it changes places. -/
  up : Nat
  down : Nat
  /-- Lines of each page that have moved. -/
  done : Nat
  /-- The next line is moving: it is busy. -/
  busy : Bool
  deriving DecidableEq, Repr

/-- Base dies of the memory (15). -/
structure Tiers where
  dcctl : Table Dcctl
  /-- The tier map (R262): the place of each page that has moved, counted over its agent's HBM frames and then its
  capacity-tier frames. -/
  place : Table Nat
  migrating : Table Migration
  pageCount : Table Nat
  /-- Pages that each agent has moved in this epoch. -/
  moves : Table Nat
  /-- The nanosecond at which each agent's epoch ends; the first epoch ends at 1 ms (R263). -/
  epochAt : Table Nat
  /-- Lines of each set of a stack's cache layer, with their ways (R259). -/
  cached : Paged (List (Nat × Nat))
  rowAct : Paged Nat
  hotRows : List (Nat × Nat)
  /-- Rows that have reached 512 activations and are to be captured next: stack and row (R272). -/
  hotDue : List (Nat × Nat)
  /-- The nanosecond at which each stack's refresh window ends; the first ends at 32 ms (R271, R272). -/
  windowAt : Table Nat
  /-- Refreshes that each bank has had. -/
  refreshed : Table Nat
  /-- Refreshes of rows beside one that was not captured (R272). -/
  rowRefreshed : Table Nat
  /-- The model's own: ways that the stacks of other modules have given to their near regions, by 2 times the agent and the stack (R254; log
  170). -/
  peerWays : Table Nat
  deriving DecidableEq, Repr

/-- What the host does at this module's PCI Express functions (R391, R392). -/
inductive HostAct where
  /-- The physical function writes bytes of BAR0, the management window. -/
  | bar0 (off : Nat) (bytes : List Byte)
  /-- A function, a virtual one or the physical one, writes bytes of BAR2, the locket window. -/
  | bar2 (vf : Option Nat) (off : Nat) (bytes : List Byte)
  /-- The driver registers a locket's entry (R325). -/
  | register (n : Nat) (entry : BitVec 256)
  deriving DecidableEq, Repr

/-- What the other modules of the domain do to what this module sees (R220, R222, R224, R254). -/
inductive PeerAct where
  /-- An agent on another module writes bytes of a line: of its own E or M copy, or of what stands on another module and no agent of this
  one holds (R219, R222, R224). -/
  | write (agent line : Nat) (bytes : List (Nat × Byte))
  /-- An agent on another module reads or writes at this module what is never cached: a line of home 01, a scratchpad window, the management
  window or the host (R224, R254, R255). -/
  | access (agent line : Nat) (reads : Bool) (bytes : List (Nat × Byte))
  /-- The supervisor of another module gives ways of a stack of an agent to its near region, or takes them back (R254, R260). -/
  | ways (agent stack n : Nat)
  deriving DecidableEq, Repr

/-- The state of the module. -/
structure State where
  ctxs : Table Ctx
  cores : Table Core
  mem : List Host.Cell
  homes : Homes
  dieTlb : Table (List TlbEntry)
  recCache : Table (Table (BitVec 1024))
  transfers : List Transfer
  pred : Table Predictor
  jobs : Table Job
  hall : Hallmarks
  hub : Hub
  mgmt : Management
  tiers : Tiers
  chans : Table Chan
  pos : Nat
  fabricOut : List FabricMsg
  hostOut : List Nat
  /-- What the host does next, in order, each from a TIMEBASE value on (R391, R392). -/
  hostIn : List (Nat × HostAct)
  /-- The model's own: what other modules do next, in order, each from a TIMEBASE value on (R220, R224; log 170). -/
  peersIn : List (Nat × PeerAct)
  /-- The model's own: bytes that steps of the L9's own write to the management window, which the management processor takes at the end
  of the step (R254; log 171). -/
  mgmtIn : List (Nat × Byte)
  /-- Bits of the scratchpads that the layout unit supplied as padding and nothing has written since (R149; log 130). -/
  padBits : List (Nat × Nat)
  /-- The model's own: errors that appear in the codes of lines, each at a TIMEBASE value: line and error (R223, R273; log 9). -/
  errorsIn : List (Nat × Nat × MemErr)
  /-- The model's own: counter that names landings, transfers and bead lives (log 9). -/
  uid : Nat
  /-- The model's own: free values taken so far (log 9). -/
  free : Nat
  /-- The model's own: the steps that the parts of the machine take next, in order (log 9). -/
  script : List Instr
  /-- The model's own: nanoseconds of each step, 1 when not listed (log 9). -/
  elapse : List Nat
  /-- The model's own: the context on which a lone slot operation acts (log 9). -/
  cur : Nat
  deriving DecidableEq, Repr

/-- A tile register at a bead's first dispatch (R237, R316). -/
def TileReg.fresh : TileReg := { defined := false, image := 0, base := 0, abandoned := none }

/-- A context's shadowed state at a bead's first dispatch (R316), which is also its value at reset (log 3). -/
def Arch.fresh : Arch where
  cc := 0
  s := Vector.replicate 64 0
  v := Vector.replicate 64 0
  p := Vector.replicate 16 0
  iq := 0
  fq := 0
  aq := 0
  bq := 0
  xq := 0
  wtb := []
  loops := []
  target := none
  tiles := Vector.replicate 32 TileReg.fresh
  pattern := Vector.replicate 64 0
  fflags := 0
  fmode := 1
  cctl := 0
  xpctl := 0
  rqctl := 0
  rqseed := 0
  rqaddr := 0
  rqpos := 0
  tcbase := 0

/-- An idle context slot. -/
def Ctx.reset : Ctx where
  run := none
  arch := Arch.fresh
  shadow := Arch.fresh
  ckpt := 0
  ckptUid := 0
  pc := 0
  owed := none
  withheld := []
  storeQ := []
  reads := []
  issued := 0
  released := 0
  hostAddr := none
  flush := false
  unfetched := []
  pendTraps := []
  freeze := none
  ready := 0
  granted := false
  pmctl := 0
  pmlock := 0
  pmsel := Vector.replicate 8 0
  pmcnt := Vector.replicate 8 0
  jobsel := 0
  spent := 0
  slotJob := none
  stopSkip := []
  phaseWin := none
  preempt := none

/-- An invalid bank's descriptor (R158). -/
def BankDesc.reset : BankDesc := { fill := 0, isInt := none, st := .invalid, load := none }
/-- An invalid bank (R158). -/
def Bank.reset : Bank := { desc := .reset, rows := [] }
/-- A clear accumulator row (R159). -/
def AccRow.clear : AccRow := { elems := 0, tag := 0, load := none }
/-- A row-lane at reset (R157). -/
def RowLane.reset : RowLane := { ints := List.replicate 64 0, exp := 0, nav := false }
/-- A row buffer at reset (R157). -/
def RowBuf.reset : RowBuf := { fmt := .bf16, lanes := Vector.replicate 4 .reset }

/-- A core's array at reset (R157 to R161). -/
def MxArray.reset : MxArray where
  banks := Vector.replicate 8 .reset
  acc := []
  accShadow := []
  lo := none
  hi := none
  snapLo := none
  snapHi := none
  rowBuf := Vector.replicate 2 .reset
  digits := Vector.replicate 2 (Vector.replicate 4 none)
  snapRowBuf := Vector.replicate 2 .reset
  snapDigits := Vector.replicate 2 (Vector.replicate 4 none)
  snapBanks := Vector.replicate 8 .reset

/-- A core at reset (R255). -/
def Core.reset : Core :=
  { u := 1, phase := none, l1 := [], icache := [], tlb := [], vf := 0, arr := .reset }

/-- A job that the driver has not described (R392). -/
def Job.reset : Job where
  vf := 0
  fab := false
  capture := false
  ring := 0
  captured := 0
  cancelled := false
  ptroot := 0
  traph := 0
  hmctl := 0
  hmsalt0 := 0
  hmsalt1 := 0
  hmwcnt := 0
  mkring := 0
  mkthr := 0
  jcnt := 0
  chtab := 0

/-- An unbound predictor table (R178). -/
def Predictor.reset : Predictor := { bound := false, job := 0, lastJob := none, layer := 0, seed := 0, entries := [] }
/-- A heap descriptor at reset (R286, R396). -/
def Heap.reset : Heap := { hbase := 0, nlines := 0, dbase := 0, word24 := 0 }
/-- A queue descriptor at reset (R327). -/
def Queue.reset : Queue := { head := 0, tail := 0, allot := 0, left := 0, word24 := 0 }
/-- DCCTL at reset (R259). -/
def Dcctl.reset : Dcctl := { ways := 0, busy := false, err := false, target := 0 }
/-- A channel on which nothing has arrived. -/
def Chan.reset : Chan := { present := [], recvs := [], senders := [] }

/-- The module right after reset: bring-up has completed no step (R394 to R396).  Its position in the domain is assigned in step 5 alone (R7,
R395), and the spec gives none before: it is 0, and steps 2 to 4 act on the agents of position 0 (log 172, DESIGN CHOICE). -/
def State.reset : State where
  ctxs := []
  cores := []
  mem := []
  homes := {
    tags := [], tagErr := [], dataErr := [], latent := [], l2 := [], busy := [], waiting := [], present := [], lost := [], pinOver := 0 }
  dieTlb := []
  recCache := []
  transfers := []
  pred := []
  jobs := []
  hall := { heaps := [], heapInit := [], freeing := [], walker := [], groups := [] }
  hub := {
    queues := [], rotate := [], chosen := [], lockets := [], mail := [], resync := [], launchId := 0,
    launches := [], graphs := [], starts := [], handlerWait := [], waiters := [], completing := [], handlersDone := [],
    cancels := [], ended := [], aborts := [], saved := [], timebase := 0, roundAt := 100000, pmDefer := [] }
  mgmt := {
    flog := [], flogN := 0, step := 0, ready := false, migen := false, halt := false, pwrFloor := 200, pwrAllow := 800,
    pwrDraw := 0, point := 10, suph := 0, comparators := [], work := [], images := [], bootStopped := false, hot := false,
    pointNext := none }
  tiers := {
    dcctl := [], place := [], migrating := [], pageCount := [], moves := [], epochAt := [], cached := [], rowAct := [],
    hotRows := [], hotDue := [], windowAt := [], refreshed := [], rowRefreshed := [], peerWays := [] }
  chans := []
  pos := 0
  fabricOut := []
  hostOut := []
  hostIn := []
  peersIn := []
  mgmtIn := []
  padBits := []
  errorsIn := []
  uid := 0
  free := 0
  script := []
  elapse := []
  cur := 0

end Sys2Proof.Machine
end

