-- ==== Sys2Proof/Machine/Memory.lean ====
section
/-! DEFINITION. Tables, memory, the physical address map and page tables (spec 15). -/
namespace Sys2Proof.Machine

namespace Table
variable {α : Type}

/-- The entry of key `k`, or none. -/
def get? : Table α → Nat → Option α
  | [], _ => none
  | (a, x) :: r, k => if a = k then some x else get? r k

/-- The entry of key `k`, or `d`. -/
def get (t : Table α) (k : Nat) (d : α) : α := (t.get? k).getD d

/-- Set the entry of key `k`, keeping the keys rising. -/
def set : Table α → Nat → α → Table α
  | [], k, x => [(k, x)]
  | (a, y) :: r, k, x =>
    if k < a then (k, x) :: (a, y) :: r
    else if k = a then (k, x) :: r
    else (a, y) :: set r k x

/-- Remove the entry of key `k`. -/
def erase : Table α → Nat → Table α
  | [], _ => []
  | (a, y) :: r, k => if k = a then r else (a, y) :: erase r k

end Table

namespace Paged
variable {α : Type}

/-- The entry of key `k`, or none. -/
def get? (t : Paged α) (k : Nat) : Option α := (Table.get t (k / 128) []).get? (k % 128)
/-- The entry of key `k`, or `d`. -/
def get (t : Paged α) (k : Nat) (d : α) : α := (t.get? k).getD d
/-- Set the entry of key `k`. -/
def set (t : Paged α) (k : Nat) (x : α) : Paged α := Table.set t (k / 128) ((Table.get t (k / 128) []).set (k % 128) x)
/-- Remove the entry of key `k`. -/
def erase (t : Paged α) (k : Nat) : Paged α :=
  let p := (Table.get t (k / 128) []).erase (k % 128)
  if p.isEmpty then Table.erase t (k / 128) else Table.set t (k / 128) p
/-- The entries, by rising key. -/
def entries (t : Paged α) : Table α := t.flatMap fun (g, p) => p.map fun (i, x) => (128 * g + i, x)
/-- The entries that meet a condition. -/
def keep (f : Nat → α → Bool) (t : Paged α) : Paged α :=
  (t.map fun (g, p) => (g, p.filter fun (i, x) => f (128 * g + i) x)).filter fun (_, p) => !p.isEmpty
/-- Change every entry. -/
def change (f : Nat → α → α) (t : Paged α) : Paged α := t.map fun (g, p) => (g, p.map fun (i, x) => (i, f (128 * g + i) x))

end Paged

/-- The first `some` of a list of options. -/
def firstSome {α : Type} : List (Option α) → Option α
  | [] => none
  | some x :: _ => some x
  | none :: r => firstSome r

/-! ### Memory -/

/-- What a byte that nothing has written reads as: scratchpad bytes are zero after reset (R255); for every other byte the
value is the model's choice (log 1). -/
def unwritten : Byte := 0

namespace Memory

/-- The canonical form: addresses rising, no entry equal to an unwritten byte. -/
def wfFrom : Nat → List Host.Cell → Bool
  | _, [] => true
  | lo, (a, b) :: r => decide (lo ≤ a) && b != unwritten && wfFrom (a + 1) r

/-- The memory is in canonical form. -/
def wf (m : List Host.Cell) : Bool := wfFrom 0 m

/-- Read one byte. -/
def get : List Host.Cell → Nat → Byte
  | [], _ => unwritten
  | (a, b) :: r, k => if a = k then b else get r k

/-- Write one byte, keeping the canonical form. -/
def set : List Host.Cell → Nat → Byte → List Host.Cell
  | [], k, x => if x = unwritten then [] else [(k, x)]
  | (a, b) :: r, k, x =>
    if k < a then (if x = unwritten then (a, b) :: r else (k, x) :: (a, b) :: r)
    else if k = a then (if x = unwritten then r else (k, x) :: r)
    else (a, b) :: set r k x

/-- Read `n` bytes, the first lowest (R2). -/
def read (m : List Host.Cell) : Nat → Nat → Nat
  | _, 0 => 0
  | a, n + 1 => (get m a).toNat + 256 * read m (a + 1) n

/-- The cells below address `a`. -/
def below : List Host.Cell → Nat → List Host.Cell
  | [], _ => []
  | (k, b) :: r, a => if k < a then (k, b) :: below r a else []

/-- The cells at or above address `a`. -/
def above : List Host.Cell → Nat → List Host.Cell
  | [], _ => []
  | (k, b) :: r, a => if k < a then above r a else (k, b) :: r

/-- The cells of bytes that stand from address `a` up. -/
def cells : Nat → List Byte → List Host.Cell
  | _, [] => []
  | a, b :: r => if b = unwritten then cells (a + 1) r else (a, b) :: cells (a + 1) r

/-- Write bytes from address `a` up. -/
def write (m : List Host.Cell) (a : Nat) (l : List Byte) : List Host.Cell :=
  below m a ++ cells a l ++ above m (a + l.length)

/-- Give `n` bytes from address `a` up the value of an unwritten byte, which is zero. -/
def clear (m : List Host.Cell) (a n : Nat) : List Host.Cell := below m a ++ above m (a + n)

/-- Write a list of addressed bytes, in order. -/
def writeCells (m : List Host.Cell) : List (Nat × Byte) → List Host.Cell
  | [] => m
  | (a, b) :: r => writeCells (set m a b) r

/-- Read one bit of memory. -/
def getBit (m : List Host.Cell) (a : Nat) : Bool := (get m (a / 8)).getLsbD (a % 8)

/-- The byte `b` with `n` bits from bit `i` on replaced by the low bits of `x`. -/
def insertBits (b : Byte) (i n x : Nat) : Byte :=
  let mask : Byte := BitVec.ofNat 8 ((2 ^ n - 1) * 2 ^ i)
  (b &&& ~~~mask) ||| (BitVec.ofNat 8 (x * 2 ^ i) &&& mask)

/-- Read `n` bits from bit address `a` (R140, R212). -/
def readBits (m : List Host.Cell) (a n : Nat) : Nat :=
  (read m (a / 8) ((a % 8 + n + 7) / 8) >>> (a % 8)) % 2 ^ n

/-- Write `n` bits at bit address `a`, at most eight bits at a time; every other bit stays (R212). -/
def writeBitsGo (m : List Host.Cell) : Nat → Nat → Nat → Nat → List Host.Cell
  | 0, _, _, _ => m
  | fuel + 1, a, n, x =>
    if n = 0 then m
    else
      let k := min n (8 - a % 8)
      let b := get m (a / 8)
      writeBitsGo (set m (a / 8) (insertBits b (a % 8) k (x % 2 ^ k))) fuel (a + k) (n - k) (x / 2 ^ k)

/-- Write `n` bits at bit address `a` (R212). -/
def writeBits (m : List Host.Cell) (a n x : Nat) : List Host.Cell := writeBitsGo m (n + 1) a n x

end Memory

/-! ### The state's parts -/

namespace State

/-- The context slot `c`. -/
def ctx (s : State) (c : Nat) : Ctx := s.ctxs.get c Ctx.reset
/-- Set the context slot `c`. -/
def setCtx (s : State) (c : Nat) (x : Ctx) : State := { s with ctxs := s.ctxs.set c x }
/-- Change the context slot `c`. -/
def modCtx (s : State) (c : Nat) (f : Ctx → Ctx) : State := s.setCtx c (f (s.ctx c))
/-- Change the shadowed part of context slot `c`. -/
def modArch (s : State) (c : Nat) (f : Arch → Arch) : State := s.modCtx c fun x => { x with arch := f x.arch }
/-- The core `k`. -/
def core (s : State) (k : Nat) : Core := s.cores.get k Core.reset
/-- Change the core `k`. -/
def modCore (s : State) (k : Nat) (f : Core → Core) : State := { s with cores := s.cores.set k (f (s.core k)) }
/-- The registers of job `j`. -/
def job (s : State) (j : Nat) : Job := s.jobs.get j Job.reset
/-- Change the registers of job `j`. -/
def modJob (s : State) (j : Nat) (f : Job → Job) : State := { s with jobs := s.jobs.set j (f (s.job j)) }
/-- The heap descriptor of agent `a` (R286). -/
def heap (s : State) (a : Nat) : Heap := s.hall.heaps.get a Heap.reset
/-- Read `n` bytes at the coherent point. -/
def readMem (s : State) (pa n : Nat) : Nat := Memory.read s.mem pa n
/-- Write a number of `n` bytes at the coherent point. -/
def writeMem (s : State) (pa n x : Nat) : State := { s with mem := Memory.write s.mem pa (natToBytes n x) }
/-- Take a fresh name. -/
def fresh (s : State) : Nat × State := (s.uid, { s with uid := s.uid + 1 })
/-- Change the homes. -/
def modHomes (s : State) (f : Homes → Homes) : State := { s with homes := f s.homes }
/-- Change the hub. -/
def modHub (s : State) (f : Hub → Hub) : State := { s with hub := f s.hub }
/-- Change the management processor's part. -/
def modMgmt (s : State) (f : Management → Management) : State := { s with mgmt := f s.mgmt }
/-- Change the hallmark part. -/
def modHall (s : State) (f : Hallmarks → Hallmarks) : State := { s with hall := f s.hall }
/-- Change the base dies. -/
def modTiers (s : State) (f : Tiers → Tiers) : State := { s with tiers := f s.tiers }

end State

/-- The core of a context slot. -/
def coreOf (c : Nat) : Nat := c / 2
/-- The number of a context slot in its core. -/
def slotNo (c : Nat) : Nat := c % 2
/-- The die of a core. -/
def dieOf (k : Nat) : Nat := k / Config.coresPerDie
/-- The core's number in its die. -/
def coreNo (k : Nat) : Nat := k % Config.coresPerDie
/-- The agent of a core (R7). -/
def agentOfCore (s : State) (k : Nat) : Nat := 4 * s.pos + dieOf k
/-- The agent of a context's core (R7). -/
def agentOf (s : State) (c : Nat) : Nat := agentOfCore s (coreOf c)
/-- The C-die of this module that an agent number names, if it is one of this module's (R7). -/
def localDie (s : State) (a : Nat) : Option Nat := if a / 4 = s.pos then some (a % 4) else none

/-! ### The physical address map (R254) -/

/-- What a physical address reaches. -/
inductive Region where
  | memory (agent off : Nat)
  | near (agent stack off : Nat)
  | window (agent core off : Nat)
  | mgmt (off : Nat)
  | host (addr : Nat)
  | absent
  deriving DecidableEq, Repr

/-- Bits of a 4 GiB unit and other round sizes. -/
def gib : Nat := 2 ^ 30
/-- Bytes of a scratchpad window. -/
def windowBytes : Nat := 2 ^ 21
/-- The agent that a physical address names (R8). -/
def paAgent (pa : Nat) : Nat := pa / 2 ^ 45 % 128
/-- The offset of a physical address in its agent's range (R254). -/
def paOff (pa : Nat) : Nat := pa % 2 ^ 45
/-- The ways that a stack of agent `a` has given to its near region (R260); those of another module are what its supervisor has given
(log 170). -/
def nearWays (s : State) (a j : Nat) : Nat :=
  match localDie s a with
  | some d => (s.tiers.dcctl.get (2 * d + j) Dcctl.reset).ways
  | none => s.tiers.peerWays.get (2 * a + j) 0

/-- What a physical address reaches (R8, R254). -/
def region (s : State) (pa : Nat) : Region :=
  let a := paAgent pa
  let o := paOff pa
  if !s.homes.present.contains a then .absent
  else if o < 312 * gib then .memory a o
  else if 0x100000000000 ≤ o ∧ o < 0x100000000000 + nearWays s a 0 * 2 ^ 28 then .near a 0 (o - 0x100000000000)
  else if 0x100100000000 ≤ o ∧ o < 0x100100000000 + nearWays s a 1 * 2 ^ 28 then .near a 1 (o - 0x100100000000)
  else if 0x180000000000 ≤ o ∧ o < 0x180000000000 + 128 * windowBytes then
    .window a ((o - 0x180000000000) / windowBytes) ((o - 0x180000000000) % windowBytes)
  else if 0x190000000000 ≤ o ∧ o < 0x190000000000 + 2 ^ 25 then .mgmt (o - 0x190000000000)
  else if 0x1C0000000000 ≤ o then .host (o - 0x1C0000000000)
  else .absent

/-- The physical address of a core's window (R254). -/
def windowBase (agent core : Nat) : Nat := agent * 2 ^ 45 + 0x180000000000 + core * windowBytes

/-- The address lies in a scratchpad window. -/
def isWindow (s : State) (pa : Nat) : Bool := match region s pa with
  | .window .. => true
  | _ => false
/-- The address lies in host memory. -/
def isHost (s : State) (pa : Nat) : Bool := match region s pa with
  | .host _ => true
  | _ => false
/-- The address lies in the management window. -/
def isMgmt (s : State) (pa : Nat) : Bool := match region s pa with
  | .mgmt _ => true
  | _ => false
/-- The address lies in the window of core `k` of this module (R228). -/
def isOwnWindow (s : State) (k pa : Nat) : Bool := match region s pa with
  | .window a c _ => a == agentOfCore s k && c == coreNo k
  | _ => false
/-- The address lies in the L1 part of a window of this module (R255). -/
def inL1Part (s : State) (pa : Nat) : Bool := match region s pa with
  | .window a c o => match localDie s a with
    | some d => o < (s.core (d * 128 + c)).u * 2 ^ 18
    | none => false
  | _ => false

/-- The number of agents that serve hallmarks, or none when NHA disables them (R286). -/
def servingAgents (h : Heap) : Option Nat :=
  let n := (h.word24.extractLsb' 0 8).toNat
  if n ∈ [1, 2, 4, 8, 16, 32, 64, 128] then some n else none
/-- NHA of the domain: every descriptor holds the same (R286). -/
def nha (s : State) : Option Nat := servingAgents (s.heap (4 * s.pos))
/-- Number of primary buckets of a heap (R286, R288). -/
def buckets (h : Heap) : Nat := 2 ^ (h.word24.extractLsb' 8 5).toNat
/-- Number of overflow buckets of a heap (R286). -/
def overflows (h : Heap) : Nat := (h.word24.extractLsb' 32 32).toNat
/-- Number of heap lines (R286). -/
def heapLines (h : Heap) : Nat := (h.nlines.extractLsb' 0 40).toNat
/-- Bytes of a free map of `n` bits (R287). -/
def mapBytes (n : Nat) : Nat := (n + 1023) / 1024 * 128
/-- Bytes of the directory range with its free maps (R287, R289). -/
def directoryBytes (h : Heap) : Nat := 256 * (buckets h + overflows h) + mapBytes (heapLines h) + mapBytes (overflows h)

/-- Agent `a` serves hallmarks: its number is below the NHA of the domain and of its own descriptor (R286). -/
def serves (s : State) (a : Nat) : Bool := decide (a < (nha s).getD 0) && decide (a < (servingAgents (s.heap a)).getD 0)
/-- The address lies in an agent's heap range (R296). -/
def inHeap (s : State) (pa : Nat) : Bool :=
  let h := s.heap (paAgent pa)
  serves s (paAgent pa) && h.hbase.toNat ≤ paOff pa && paOff pa < h.hbase.toNat + 128 * heapLines h
/-- The address lies in the directory range of an agent that serves hallmarks (R289). -/
def inDirectory (s : State) (pa : Nat) : Bool :=
  let h := s.heap (paAgent pa)
  serves s (paAgent pa) && h.dbase.toNat ≤ paOff pa && paOff pa < h.dbase.toNat + directoryBytes h
/-- The line carries a line tag: it lies in an agent's memory or near region (R217, R224). -/
def tagged (s : State) (pa : Nat) : Bool := match region s pa with
  | .memory .. => true
  | .near .. => true
  | _ => false

/-! ### Line tags (R218) -/

/-- States of a line tag (R218). -/
inductive TagState where
  | i | s | e | m | o | broken
  deriving DecidableEq, Repr

namespace Tag
/-- STATE. -/
def state (t : BitVec 16) : TagState := match (t.extractLsb' 0 3).toNat with
  | 0 => .i | 1 => .s | 2 => .e | 3 => .m | 4 => .o | _ => .broken
/-- OWNER. -/
def owner (t : BitVec 16) : Nat := (t.extractLsb' 3 7).toNat
/-- HINTS. -/
def hints (t : BitVec 16) : BitVec 6 := t.extractLsb' 10 6
/-- A tag from its fields. -/
def make (h : BitVec 6) (o : Nat) (st : BitVec 3) : BitVec 16 := h ++ BitVec.ofNat 7 o ++ st
/-- The hint bit of an agent's group: G(a). -/
def group (a : Nat) : BitVec 6 := BitVec.ofNat 6 (2 ^ (a % 6))
end Tag

/-- The tag of a line (R217). -/
def lineTag (s : State) (line : Nat) : BitVec 16 := s.homes.tags.get line 0
/-- Whether the home can serve a line: MCHK for a broken tag, and for a line owned by a lost agent (R223). -/
def tagFault (s : State) (line : Nat) : Bool :=
  let t := lineTag s line
  let st := Tag.state t
  s.homes.lost.contains (paAgent (line * 128)) || s.homes.tagErr.contains line ||
  (!inHeap s (line * 128) &&
    (st == .broken || ((st == .e || st == .m || st == .o) && s.homes.lost.contains (Tag.owner t))))

/-! ### Page tables (R264 to R266) -/

namespace Pte
/-- V. -/
def v (e : W64) : Bool := e.getLsbD 0
/-- R. -/
def r (e : W64) : Bool := e.getLsbD 1
/-- W. -/
def w (e : W64) : Bool := e.getLsbD 2
/-- X. -/
def x (e : W64) : Bool := e.getLsbD 3
/-- SUP. -/
def sup (e : W64) : Bool := e.getLsbD 4
/-- SIZE. -/
def size (e : W64) : Nat := (e.extractLsb' 5 2).toNat
/-- TABLE. -/
def table (e : W64) : Bool := e.getLsbD 7
/-- NOMIG. -/
def nomig (e : W64) : Bool := e.getLsbD 8
/-- HM. -/
def hm (e : W64) : Bool := e.getLsbD 9
/-- FRAME as a physical address. -/
def frame (e : W64) : Nat := (e.extractLsb' 16 36).toNat * 2 ^ 16
/-- HOME. -/
def home (e : W64) : Nat := (e.extractLsb' 62 2).toNat
/-- PINSL. -/
def pinsl (e : W64) : Nat := (e.extractLsb' 12 4).toNat
/-- PINAG. -/
def pinag (e : W64) : Nat := (e.extractLsb' 55 7).toNat
/-- A reserved bit is set. -/
def rsv (e : W64) : Bool := e.extractLsb' 52 3 != 0 || e.extractLsb' 10 2 != 0
/-- Bytes of the page. -/
def bytes (e : W64) : Nat := match size e with
  | 0 => 2 ^ 16
  | 1 => 2 ^ 21
  | 2 => 2 ^ 27
  | _ => 2 ^ 32
end Pte

/-- HOME 11 goes with a frame inside a scratchpad window, and with no other (R265). -/
def homeOk (s : State) (e : W64) : Bool := match region s (Pte.frame e) with
  | .window .. => Pte.home e == 3
  | _ => Pte.home e != 3

/-- A leaf is well formed for its level and its frame (R254, R265). -/
def leafOk (s : State) (level : Nat) (e : W64) : Bool :=
  let okSize := match level with
    | 1 => Pte.size e == 3
    | 2 => Pte.size e == 1 || Pte.size e == 2
    | 3 => Pte.size e == 0
    | _ => false
  let r := region s (Pte.frame e)
  okSize && Pte.frame e % Pte.bytes e == 0 && r != .absent && homeOk s e &&
  (match r with
   | .mgmt _ => Pte.sup e && Pte.home e == 1
   | _ => true)

/-- The line of an entry of a page table. -/
def entryLine (t i : Nat) : Nat := (t + 8 * i) / 128
/-- What stops the walker at an entry of a table: its home does not serve the line, or its data is bad (R223, R273). -/
def tableFault (s : State) (t i : Nat) : Option TrapCode :=
  if tagged s (t + 8 * i) && tagFault s (entryLine t i) then some .mchk
  else if s.homes.dataErr.contains (entryLine t i) then some .soft
  else none
/-- The entry of a table at physical address `t`, if the table lies in memory and its line can be read (R223, R264, R266). -/
def tableEntry (s : State) (t i : Nat) : Option W64 :=
  match region s t with
  | .absent => none
  | _ => if (tableFault s t i).isSome then none else some (BitVec.ofNat 64 (s.readMem (t + 8 * i) 8))

/-- The index of a virtual address in a table of a level (R264). -/
def tableIndex (va level : Nat) : Nat := match level with
  | 0 => va / 2 ^ 44 % 4096
  | 1 => va / 2 ^ 32 % 4096
  | 2 => va / 2 ^ 21 % 2048
  | _ => va / 2 ^ 16 % 32

/-- Walk from the table at `t` of level `4 - n` (R264, R265). -/
def walkFrom (s : State) (va : Nat) : Nat → Nat → Option W64
  | 0, _ => none
  | n + 1, t =>
    let level := 3 - n
    match tableEntry s t (tableIndex va level) with
    | none => none
    | some e =>
      if !Pte.v e || Pte.rsv e || !homeOk s e then none
      else if Pte.table e then walkFrom s va n (Pte.frame e)
      else if leafOk s level e then some e else none

/-- The root of a job's page table (R264). -/
def tableRoot (s : State) (j : Nat) : Nat := (s.job j).ptroot.toNat % 2 ^ 52 / 2 ^ 16 * 2 ^ 16
/-- The leaf that job `j` maps a virtual address with (R264). -/
def walk (s : State) (j va : Nat) : Option W64 := if va < 2 ^ 56 then walkFrom s va 4 (tableRoot s j) else none

/-- The code and the line at which the walk from a table ends for want of a line that can be read (R223, R273). -/
def walkFaultFrom (s : State) (va : Nat) : Nat → Nat → Option (TrapCode × Nat)
  | 0, _ => none
  | n + 1, t =>
    let i := tableIndex va (3 - n)
    match tableFault s t i, tableEntry s t i with
    | some code, _ => some (code, entryLine t i)
    | none, some e => if Pte.v e && !Pte.rsv e && homeOk s e && Pte.table e then walkFaultFrom s va n (Pte.frame e) else none
    | none, none => none
/-- What a walk for a virtual address of job `j` meets at a line of a page table: MCHK or SOFT, and the line (R223, R273). -/
def walkFault (s : State) (j va : Nat) : Option (TrapCode × Nat) :=
  if va < 2 ^ 56 then walkFaultFrom s va 4 (tableRoot s j) else none

/-- A translation that a TLB holds (R266). -/
def tlbFind (l : List TlbEntry) (j va : Nat) : Option W64 :=
  match l with
  | [] => none
  | e :: r =>
    if e.job = j ∧ e.vpage ≤ va / 2 ^ 16 ∧ va / 2 ^ 16 < e.vpage + e.pages then some e.entry else tlbFind r j va

/-- The leaf for an access of core `k` in job `j`: a TLB's, else a walk's (R266).  A TLB entry whose frame has gone raises
XLATE at its next use (R260). -/
def leaf (s : State) (k j va : Nat) : Option W64 :=
  if 2 ^ 56 ≤ va then none
  else
    match firstSome [tlbFind (s.core k).tlb j va, tlbFind (s.dieTlb.get (dieOf k) []) j va] with
    | some e => some e
    | none => walk s j va

/-- Every agent of a module reaches the same management window and the same host (R254): one name for each byte. -/
def sharedPa (pa : Nat) : Nat :=
  if 0x190000000000 ≤ paOff pa then paAgent pa / 4 * 4 * 2 ^ 45 + paOff pa else pa
/-- The physical address of `va` under leaf `e`. -/
def Pte.pa (e : W64) (va : Nat) : Nat := sharedPa (Pte.frame e + va % Pte.bytes e)

/-- The physical address and the leaf for one byte, when it is mapped and exists (R226, R254). -/
def translate (s : State) (k j va : Nat) : Option (Nat × W64) :=
  match leaf s k j va with
  | none => none
  | some e =>
    let pa := Pte.pa e va
    if region s pa = .absent then none else some (pa, e)

/-- The lines of the entries that a walk from a table reads, in order (R264). -/
def walkLinesFrom (s : State) (va : Nat) : Nat → Nat → List Nat
  | 0, _ => []
  | n + 1, t =>
    let i := tableIndex va (3 - n)
    entryLine t i :: match tableEntry s t i with
      | some e => if Pte.v e && !Pte.rsv e && homeOk s e && Pte.table e then walkLinesFrom s va n (Pte.frame e) else []
      | none => []
/-- The lines that a walk for a virtual address of job `j` reads (R264, R266). -/
def walkLines (s : State) (j va : Nat) : List Nat := if va < 2 ^ 56 then walkLinesFrom s va 4 (tableRoot s j) else []

/-- The translation of the hub and of a die's own machinery in job `j`: a walk (R266). -/
def translateHub (s : State) (j va : Nat) : Option (Nat × W64) :=
  match walk s j va with
  | none => none
  | some e =>
    let pa := Pte.pa e va
    if region s pa = .absent then none else some (pa, e)

/-- The code of an access of core `k` whose address has no translation: XLATE (R227), unless a line of the page table cannot be read
(R223, R273; log 146). -/
def walkCode (s : State) (k j va : Nat) : TrapCode :=
  if (leaf s k j va).isSome then .xlate
  else match walkFault s j va with
    | some (code, _) => code
    | none => .xlate

/-- How an access uses its bytes (R227). -/
inductive Access where
  | load | store | fetch
  deriving DecidableEq, Repr

/-- The frames of a range: virtual and physical 64 KiB granule and leaf. -/
abbrev Frames := List (Nat × Nat × W64)

/-- Translate the granules `g` to `g + n - 1`: the frames, or the first address that fails. -/
def translateGranules (s : State) (k j lo : Nat) : Nat → Nat → Sum Nat Frames
  | _, 0 => .inr []
  | g, n + 1 =>
    let va := Nat.max lo (g * 2 ^ 16)
    match translate s k j va with
    | none => .inl va
    | some (pa, e) =>
      match translateGranules s k j lo (g + 1) n with
      | .inl a => .inl a
      | .inr r => .inr ((g, pa / 2 ^ 16, e) :: r)

/-- Translate the byte range of `n` bytes at `va` (R227). -/
def translateRange (s : State) (k j va n : Nat) : Sum Nat Frames :=
  if n = 0 then .inr []
  else translateGranules s k j va (va / 2 ^ 16) ((va + n - 1) / 2 ^ 16 - va / 2 ^ 16 + 1)

/-- The physical address of a virtual byte under the frames of a range. -/
def framePa (f : Frames) (va : Nat) : Nat :=
  match f with
  | [] => 0
  | (g, p, _) :: r => if g = va / 2 ^ 16 then p * 2 ^ 16 + va % 2 ^ 16 else framePa r va

/-- The leaf of a virtual byte under the frames of a range. -/
def frameLeaf (f : Frames) (va : Nat) : W64 :=
  match f with
  | [] => 0
  | (g, _, e) :: r => if g = va / 2 ^ 16 then e else frameLeaf r va

/-- Frames as plain pairs of granules. -/
def Frames.plain (f : Frames) : List (Nat × Nat) := f.map fun (g, p, _) => (g, p)
/-- The physical address of a virtual byte under plain frames. -/
def plainPa (f : List (Nat × Nat)) (va : Nat) : Nat :=
  match f with
  | [] => 0
  | (g, p) :: r => if g = va / 2 ^ 16 then p * 2 ^ 16 + va % 2 ^ 16 else plainPa r va
/-- The leaves of the physical granules of a range. -/
def Frames.leaves (f : Frames) : List (Nat × W64) := f.map fun (_, p, e) => (p, e)

/-- The first virtual address of a range whose page fails `bad` (R227). -/
def firstBad (lo : Nat) (bad : Nat → W64 → Bool) : Frames → Option Nat
  | [] => none
  | (g, p, e) :: r =>
    let va := Nat.max lo (g * 2 ^ 16)
    if bad (p * 2 ^ 16 + va % 2 ^ 16) e then some va else firstBad lo bad r

/-- The page does not allow the access to a bead (R227, R255, R265, R289). -/
def permBad (s : State) (sup : Bool) (acc : Access) (pa : Nat) (e : W64) : Bool :=
  (match acc with
   | .load => !Pte.r e
   | .store => !Pte.w e
   | .fetch => !Pte.x e) ||
  (Pte.sup e && !sup) || inL1Part s pa || inDirectory s pa

/-- A store into the hallmark heap (R227, R296). -/
def hmBad (s : State) (pa : Nat) (e : W64) : Bool := Pte.hm e || inHeap s pa

/-- The page does not let the L9 write a word on a job's behalf (R295, R350): a right, the heap, a directory or an L1 part stands
against it. -/
def hubWriteBad (s : State) (pa : Nat) (e : W64) : Bool := !Pte.w e || hmBad s pa e || inDirectory s pa || inL1Part s pa

/-- The check of R227 after alignment: the frames, or the code and first failing address. -/
def checkRange (s : State) (k j : Nat) (sup : Bool) (acc : Access) (va n : Nat) : Sum (TrapCode × Nat) Frames :=
  match translateRange s k j va n with
  | .inl a => .inl (walkCode s k j a, a)
  | .inr f =>
    match firstBad va (permBad s sup acc) f with
    | some a => .inl (.perm, a)
    | none =>
      match (if acc = .store then firstBad va (hmBad s) f else none) with
      | some a => .inl (.hmwrite, a)
      | none => .inr f

end Sys2Proof.Machine
end

