-- ==== Sys2Proof/Machine/Counters.lean ====
section
/-! DEFINITION. Bits of records, the fault log, registers of the management window, locket messages and performance counters (spec 18,
R304 to R309; 22, R373, R374; 24, R392, R393). -/
namespace Sys2Proof.Machine

/-! ### Bits -/

/-- Bits [lo+n-1 : lo] of a number. -/
def bitsOf (x lo n : Nat) : Nat := x / 2 ^ lo % 2 ^ n
/-- `x` with bits [lo+n-1 : lo] replaced by `v`. -/
def putBits (x lo n v : Nat) : Nat := x - bitsOf x lo n * 2 ^ lo + v % 2 ^ n * 2 ^ lo
/-- The low byte number `i` of a number. -/
def byteOf (x i : Nat) : Nat := x / 2 ^ (8 * i) % 256
/-- A number that saturates at `m`. -/
def sat (m x : Nat) : Nat := if m < x then m else x

/-! ### Fault log (R392, R393) -/

/-- What a fault-log entry says (R393). -/
structure LogEntry where
  kind : Nat
  agent : Nat := 0xFF
  unit : Nat := 0xFF
  corrected : Bool := false
  job : Nat := 0
  vf : Nat := 0xFF
  first : Nat := 0
  second : Nat := 0
  detail : Nat := 0
  deriving DecidableEq, Repr

/-- The 64 bytes of entry `n` (R393). -/
def LogEntry.image (e : LogEntry) (time n : Nat) : BitVec 512 :=
  BitVec.ofNat 512 (time + n * 2 ^ 64 + e.kind * 2 ^ 128 + e.agent * 2 ^ 136 + e.unit * 2 ^ 144 +
    (if e.corrected then 1 else 0) * 2 ^ 152 + e.job % 2 ^ 16 * 2 ^ 160 + e.vf % 256 * 2 ^ 176 +
    e.first % 2 ^ 64 * 2 ^ 192 + e.second % 2 ^ 64 * 2 ^ 256 + e.detail % 2 ^ 64 * 2 ^ 320)

/-- Write a fault-log entry (R393). -/
def logFault (s : State) (e : LogEntry) : State :=
  s.modMgmt fun m => { m with
    flog := m.flog.set (m.flogN % 4096) (e.image s.hub.timebase.toNat m.flogN), flogN := m.flogN + 1 }

/-- A log entry of job `j`: its number and its virtual function (R393). -/
def ofJob (s : State) (j : Nat) (e : LogEntry) : LogEntry := { e with job := j, vf := (s.job j).vf }
/-- Bytes 18 and 17 of a log entry for a context, with the job of its bead where the entry names none (R393). -/
def logAt (s : State) (c : Nat) (e : LogEntry) : LogEntry :=
  let e1 := { e with agent := agentOf s c, unit := slotNo c * 128 + coreNo (coreOf c) }
  match (s.ctx c).run with
  | some b => if e.vf = 0xFF then ofJob s b.job e1 else e1
  | none => e1

/-! ### Registers of the management window (R259, R286, R371, R376, R386, R392, R393, R400) -/

/-- MCTL (R392). -/
def mctl (m : Management) : Nat :=
  (if m.halt then 2 else 0) + (if m.migen then 4 else 0) + (if m.ready then 8 else 0) + m.step * 16
/-- PWR (R400).  DRAW is an average of the last millisecond that the governor keeps. -/
def pwr (m : Management) : Nat := m.pwrDraw.toNat + m.pwrAllow.toNat * 2 ^ 16 + m.pwrFloor.toNat * 2 ^ 32
/-- DCCTL (R259). -/
def dcctlWord (d : Dcctl) : Nat := d.ways + (if d.err then 2 ^ 30 else 0) + (if d.busy then 2 ^ 31 else 0)
/-- Word `i` of a heap descriptor (R286). -/
def heapWord (h : Heap) (i : Nat) : Nat := match i with
  | 0 => h.hbase.toNat
  | 1 => h.nlines.toNat
  | 2 => h.dbase.toNat
  | _ => h.word24.toNat
/-- Word `i` of a job's entry in the job table: FAB in bit 0, the capture enable in bit 1 and the owning function in bits [13:8], then the capture ring's
address (R376, R379, R392; the layout is log 18). -/
def jobTableWord (j : Job) (i : Nat) : Nat := match i with
  | 0 => (if j.fab then 1 else 0) + (if j.capture then 2 else 0) + j.vf % 64 * 256
  | _ => j.ring

/-- Bits [64i+63 : 64i] of a wide entry. -/
def wordOf {n : Nat} (x : BitVec n) (i : Nat) : Nat := (x.extractLsb' (64 * i) 64).toNat

/-- The 8-byte word at offset `8 w` of the management window (R392), but for the part that shows stopped beads; offsets that hold nothing
read zero. -/
def registerWord (s : State) (w : Nat) : Nat :=
  let o := 8 * w
  let m := s.mgmt
  if o < 0x1000 then
    match w with
    | 0 => mctl m
    | 1 => pwr m
    | 2 => m.suph.toNat
    | 3 => Config.fuseId.toNat
    | 4 => m.flogN % 2 ^ 64
    | _ => 0
  else if 0x0100000 ≤ o ∧ o < 0x0101000 then heapWord (s.heap ((o - 0x0100000) / 32)) (w % 4)
  else if 0x0200000 ≤ o ∧ o < 0x0200040 then dcctlWord (s.tiers.dcctl.get (w % 8) Dcctl.reset)
  else if 0x0300000 ≤ o ∧ o < 0x0310000 then wordOf (m.comparators.get ((o - 0x0300000) / 16) 0) (w % 2)
  else if 0x0400000 ≤ o ∧ o < 0x0440000 then wordOf (m.flog.get ((o - 0x0400000) / 64) 0) (w % 8)
  else if 0x0800000 ≤ o ∧ o < 0x0900000 then jobTableWord (s.job ((o - 0x0800000) / 16)) (w % 2)
  else if 0x1000000 ≤ o ∧ o < 0x1040000 then wordOf (m.work.get ((o - 0x1000000) / 64) 0) (w % 8)
  else 0
/-- `n` bytes of the registers of the management window, the first lowest. -/
def registerRead (s : State) (o n : Nat) : Nat :=
  bytesToNat ((List.range n).map fun i => BitVec.ofNat 8 (byteOf (registerWord s ((o + i) / 8)) ((o + i) % 8)))

/-! ### Messages -/

/-- Send a locket message (R325, R326). -/
def sendMail (s : State) (m : Mail) : State := s.modHub fun h => { h with mail := h.mail ++ [m] }

/-! ### Counters (R304 to R309, R373, R374) -/

/-- Codes of counter events (R373). -/
def evBundle : Nat := 0x01
def evCycle : Nat := 0x02
def evFrozen : Nat := 0x03
def evVector : Nat := 0x04
def evMatrix : Nat := 0x05
def evLoad : Nat := 0x06
def evStore : Nat := 0x07
def evFill : Nat := 0x08
def evL2 : Nat := 0x09
def evAcquire : Nat := 0x0A
def evAcqDrop : Nat := 0x0B
def evFabTx : Nat := 0x0C
def evFabRx : Nat := 0x0D
def evPush : Nat := 0x0E
def evTxSrc : Nat := 0x0F
def evTxDst : Nat := 0x10
def evMicro : Nat := 0x11

/-- A fabric code (R308). -/
def isFabric (code : Nat) : Bool := code == evFabTx || code == evFabRx

/-- The overflow message of counter `i` (R309). -/
def overflowMessage (x : Ctx) (b : Bead) (i : Nat) : BitVec 256 :=
  BitVec.ofNat 256 (1 + i * 256 + b.launch * 2 ^ 64 + x.pc % 2 ^ 64 * 2 ^ 128 + x.arch.cc % 2 ^ 64 * 2 ^ 192)

/-- The number names a registered locket of a job; 0 names none (R309, R325). -/
def ownLocket (s : State) (j n : Nat) : Bool :=
  let x := (s.hub.lockets.get n 0).toNat
  n != 0 && bitsOf x 63 1 == 1 && bitsOf x 32 16 == j
/-- Counter `i` of context `c` counts `n` events of a code at the current context cycle (R306, R308, R309). -/
def countOne (s : State) (c code n : Nat) (i : Fin 8) : State :=
  let x := s.ctx c
  match x.run with
  | none => s
  | some b =>
    if x.pmctl.getLsbD i && (x.pmsel[i]).toNat == code && !(isFabric code && !(s.job b.job).fab) then
      let v := (x.pmcnt[i]).toNat + n
      let wraps := decide (2 ^ 48 ≤ v)
      let bit : W64 := (1 : W64) <<< (8 + i.val)
      let was := x.pmctl.getLsbD (8 + i)
      let s1 := s.modCtx c fun x => { x with
        pmcnt := x.pmcnt.set i (BitVec.ofNat 64 (v % 2 ^ 48))
        pmctl := if wraps then x.pmctl ||| bit else x.pmctl }
      if wraps && !was && x.pmctl.getLsbD (16 + i) && ownLocket s b.job (x.pmlock.toNat % 65536) then
        sendMail s1 { locket := x.pmlock.toNat % 65536, msg := overflowMessage x b i, src := .unit b.job }
      else s1
    else s

/-- Count `n` events of a code for the bead of context `c` (R306). -/
def count (s : State) (c code n : Nat) : State :=
  if n = 0 then s
  else (List.finRange 8).foldl (fun s i => countOne s c code n i) s

/-- Events are held for a bead; `at_` is 1 above the context cycle from which on they count, or 0 for those of a queue step (R374). -/
def countHeld (s : State) (life at_ code n : Nat) : State :=
  if n = 0 then s else s.modHub fun h => { h with pmDefer := h.pmDefer ++ [(life, at_, code, n)] }
/-- Count events of a bead at its first context cycle from `cc` on (R374). -/
def countFrom (s : State) (life cc code n : Nat) : State := countHeld s life (cc + 1) code n
/-- Count events of a queue step, at the bead's next context cycle (R374). -/
def countLater (s : State) (life code n : Nat) : State := countHeld s life 0 code n

/-- A deferred event counts at this context cycle of a bead (R374). -/
def countsNow (life cc : Nat) (e : Nat × Nat × Nat × Nat) : Bool := e.1 == life && decide (e.2.1 ≤ cc + 1)
/-- The counting points of deferred events: a context cycle of their bead (R374). -/
def countDeferred (s : State) (c : Nat) : State :=
  match (s.ctx c).run with
  | none => s
  | some b =>
    let cc := (s.ctx c).arch.cc
    let mine := s.hub.pmDefer.filter (countsNow b.life cc)
    let s1 := s.modHub fun h => { h with pmDefer := h.pmDefer.filter fun e => !countsNow b.life cc e }
    mine.foldl (fun s (_, _, code, n) => count s c code n) s1

/-- A landing and the end of a freeze count at their own cycle, and so before a trap of that cycle takes the bead back (R305, R306, R307,
R373). -/
def landedNow (life cc : Nat) (e : Nat × Nat × Nat × Nat) : Bool := decide (e.2.1 ≠ 0) && countsNow life cc e
/-- The events of landings and freezes up to this cycle count. -/
def countLanded (s : State) (c : Nat) : State :=
  match (s.ctx c).run with
  | none => s
  | some b =>
    let cc := (s.ctx c).arch.cc
    let s1 := s.modHub fun h => { h with pmDefer := h.pmDefer.filter fun e => !landedNow b.life cc e }
    (s.hub.pmDefer.filter (landedNow b.life cc)).foldl (fun s (_, _, code, n) => count s c code n) s1

/-- A flit of any fabric port counts for every context (R305, R373). -/
def countFabric (s : State) (code : Nat) : State := s.ctxs.foldl (fun s (c, _) => count s c code 1) s

end Sys2Proof.Machine
end

