-- ==== Sys2Proof/Machine/Flags.lean ====
section
/-! DEFINITION. Rounding modes, exception flags and their enables (spec 06, R120 to R127). -/
namespace Sys2Proof.Machine

/-- Rounding modes (R120). -/
inductive Rm where
  | rne | rtz | rdn | rup
  deriving DecidableEq, Repr

/-- Exception flags in FFLAGS order: NV, DZ, OF, UF, NX (R125). -/
abbrev Flags := BitVec 5

namespace Flags
/-- No flag. -/
def none : Flags := 0
/-- Invalid operation. -/
def nv : Flags := 16
/-- Divide by zero. -/
def dz : Flags := 8
/-- Overflow. -/
def ov : Flags := 4
/-- Underflow. -/
def uf : Flags := 2
/-- Inexact. -/
def nx : Flags := 1
/-- The flag `f` when the condition holds. -/
def cond (b : Bool) (f : Flags) : Flags := if b then f else none
end Flags

/-- The mode of a code of FMODE's RM field (R126); the field never holds another code. -/
def Rm.ofCode (n : Nat) : Rm := match n with
  | 2 => .rtz
  | 3 => .rdn
  | 4 => .rup
  | _ => .rne

/-- The dynamic rounding mode (R71, R126). -/
def dynamicMode (a : Arch) : Rm := Rm.ofCode (a.fmode.extractLsb' 0 3).toNat
/-- The mode of a rounding field: 000 takes FMODE at issue (R25, R121). -/
def modeOf (a : Arch) (rnd : BitVec 3) : Rm := if rnd = 0 then dynamicMode a else Rm.ofCode rnd.toNat
/-- The trap enables, in the order of the flags (R126). -/
def trapEnables (a : Arch) : Flags := a.fmode.extractLsb' 8 5

/-- A magnitude between two neighbours is rounded away from zero: `odd` is the last bit of the lower one, `cmp` compares the
remainder with the half (R120). -/
def roundsAway (md : Rm) (neg odd : Bool) (cmp : Ordering) (exact : Bool) : Bool :=
  match md with
  | .rne => cmp == .gt || (cmp == .eq && odd)
  | .rtz => false
  | .rdn => neg && !exact
  | .rup => !neg && !exact

/-- Round `m / 2^k` to an integer, with a sticky rest below `m`: the integer and whether it is exact (R120). -/
def roundShift (md : Rm) (neg : Bool) (m k : Nat) (sticky : Bool) : Nat × Bool :=
  let q := m >>> k
  let r := m % 2 ^ k
  let exact := r == 0 && !sticky
  let c : Ordering :=
    if k = 0 then .lt
    else if r < 2 ^ (k - 1) then .lt
    else if r = 2 ^ (k - 1) then (if sticky then .gt else .eq)
    else .gt
  (if roundsAway md neg (q % 2 == 1) c exact then q + 1 else q, exact)

end Sys2Proof.Machine
end

