-- ==== Sys2Proof/Machine/Float.lean ====
section
/-! DEFINITION. The floating-point formats and their exact arithmetic, rounded once (spec 06, R115 to R131; 04, R80 to R84). -/
namespace Sys2Proof.Machine

/-- A floating-point format: exponent width and fraction width (R115). -/
structure FFmt where
  e : Nat
  p : Nat
  deriving DecidableEq, Repr

namespace FFmt
/-- f32. -/
def f32 : FFmt := { e := 8, p := 23 }
/-- f16. -/
def f16 : FFmt := { e := 5, p := 10 }
/-- bf16. -/
def bf16 : FFmt := { e := 8, p := 7 }
/-- Width in bits. -/
def width (f : FFmt) : Nat := 1 + f.e + f.p
/-- Exponent bias. -/
def bias (f : FFmt) : Nat := 2 ^ (f.e - 1) - 1
/-- Exponent of the smallest normal. -/
def emin (f : FFmt) : Int := 1 - (f.bias : Int)
/-- The exponent field of infinities and NaNs. -/
def ones (f : FFmt) : Nat := 2 ^ f.e - 1
/-- The sign bit as a number. -/
def signBit (f : FFmt) : Nat := 2 ^ (f.e + f.p)
/-- +infinity. -/
def inf (f : FFmt) : Nat := f.ones * 2 ^ f.p
/-- The largest finite value. -/
def largest (f : FFmt) : Nat := f.inf - 1
/-- The default NaN (R117). -/
def nan (f : FFmt) : Nat := f.inf + 2 ^ (f.p - 1)
/-- A magnitude with its sign. -/
def signed (f : FFmt) (neg : Bool) (x : Nat) : Nat := if neg then f.signBit + x else x
/-- 1.0. -/
def one (f : FFmt) : Nat := f.bias * 2 ^ f.p
end FFmt

/-- The floating-point format of an element type; the other types are not asked for. -/
def ffmt : ETy → FFmt
  | .f16 => .f16
  | .bf16 => .bf16
  | _ => .f32

/-- What an encoding stands for (R116): `fin` is `m` times 2 to the `x`, with its sign. -/
inductive FVal where
  | nan (signalling : Bool)
  | inf (neg : Bool)
  | fin (neg : Bool) (m : Nat) (x : Int)
  deriving DecidableEq, Repr

/-- Decode an encoding (R116). -/
def decodeF (f : FFmt) (b : Nat) : FVal :=
  let neg := b / f.signBit % 2 == 1
  let e := b / 2 ^ f.p % 2 ^ f.e
  let m := b % 2 ^ f.p
  if e = f.ones then (if m = 0 then .inf neg else .nan (m < 2 ^ (f.p - 1)))
  else if e = 0 then .fin neg m (f.emin - f.p)
  else .fin neg (2 ^ f.p + m) (f.emin - f.p + (e - 1 : Nat))

namespace FVal
/-- A NaN. -/
def isNan : FVal → Bool
  | nan _ => true
  | _ => false
/-- A signalling NaN (R71). -/
def isSnan : FVal → Bool
  | nan s => s
  | _ => false
/-- The sign. -/
def neg : FVal → Bool
  | nan _ => false
  | inf s => s
  | fin s _ _ => s
/-- A zero. -/
def isZero : FVal → Bool
  | fin _ m _ => m == 0
  | _ => false
/-- An infinity. -/
def isInf : FVal → Bool
  | inf _ => true
  | _ => false
/-- The sign inverted. -/
def negate : FVal → FVal
  | nan s => nan s
  | inf s => inf !s
  | fin s m x => fin (!s) m x
end FVal

/-- Overflow (R122). -/
def overflowF (f : FFmt) (md : Rm) (neg : Bool) : Nat × Flags :=
  let toInf := match md with
    | .rne => true
    | .rtz => false
    | .rdn => neg
    | .rup => !neg
  (f.signed neg (if toInf then f.inf else f.largest), Flags.ov ||| Flags.nx)

/-- Shift left by an integer amount that is not negative, or right without loss. -/
def shlInt (m : Nat) (k : Int) : Nat := m <<< k.toNat

/-- Round to multiples of 2 to the `q`: the integer number of units and whether that is exact. -/
def roundUnits (md : Rm) (neg : Bool) (m : Nat) (x q : Int) (sticky : Bool) : Nat × Bool :=
  if q ≤ x then (shlInt m (x - q), !sticky) else roundShift md neg m (q - x).toNat sticky

/-- Round a nonzero magnitude `m` times 2 to the `x`, with a sticky rest below `m`, into format `f` (R120 to R123).  With a
sticky rest, `m` has at least two bits more than the format. -/
def roundF (f : FFmt) (md : Rm) (neg : Bool) (m : Nat) (x : Int) (sticky : Bool) : Nat × Flags :=
  let top : Int := x + Nat.log2 m
  let q : Int := max top f.emin - f.p
  let (n, exact) := roundUnits md neg m x q sticky
  let bits := if top < f.emin then n else ((top + f.bias).toNat - 1) * 2 ^ f.p + n
  if f.inf ≤ bits then overflowF f md neg
  else
    let tiny := decide (top < f.emin) &&
      !(top == f.emin - 1 && (roundUnits md neg m x (top - f.p) sticky).1 == 2 ^ (f.p + 1))
    (f.signed neg bits, Flags.cond (!exact) Flags.nx ||| Flags.cond (tiny && !exact) Flags.uf)

/-- The default NaN, with invalid when `b` holds. -/
def nanF (f : FFmt) (b : Bool) : Nat × Flags := (f.nan, Flags.cond b Flags.nv)
/-- A signed zero. -/
def zeroF (f : FFmt) (neg : Bool) : Nat × Flags := (f.signed neg 0, Flags.none)
/-- A signed infinity. -/
def infF (f : FFmt) (neg : Bool) : Nat × Flags := (f.signed neg f.inf, Flags.none)
/-- A signed infinity with divide-by-zero. -/
def poleF (f : FFmt) (neg : Bool) : Nat × Flags := (f.signed neg f.inf, Flags.dz)

/-- Round a decoded value into format `f` (R83, R118, R130). -/
def packF (f : FFmt) (md : Rm) : FVal → Nat × Flags
  | .nan s => nanF f s
  | .inf n => infF f n
  | .fin n m x => if m = 0 then zeroF f n else roundF f md n m x false

/-- The signed integer number of units of 2 to the `q`, for `q` at most `x`. -/
def unitsOf (neg : Bool) (m : Nat) (x q : Int) : Int :=
  let v : Int := shlInt m (x - q)
  if neg then -v else v

/-- The sum of two finite values, rounded once (R80, R124). -/
def addFin (f : FFmt) (md : Rm) (n1 : Bool) (m1 : Nat) (x1 : Int) (n2 : Bool) (m2 : Nat) (x2 : Int) : Nat × Flags :=
  let q := min x1 x2
  let t := unitsOf n1 m1 x1 q + unitsOf n2 m2 x2 q
  if t = 0 then zeroF f (if n1 == n2 then n1 else md == .rdn)
  else roundF f md (decide (t < 0)) t.natAbs q false

/-- a + b (R80). -/
def addF (f : FFmt) (md : Rm) (a b : FVal) : Nat × Flags :=
  match a, b with
  | .nan s, y => nanF f (s || y.isSnan)
  | x, .nan s => nanF f (s || x.isSnan)
  | .inf n, .inf k => if n = k then infF f n else nanF f true
  | .inf n, .fin _ _ _ => infF f n
  | .fin _ _ _, .inf n => infF f n
  | .fin n1 m1 x1, .fin n2 m2 x2 => addFin f md n1 m1 x1 n2 m2 x2

/-- An exact product; an invalid one is a NaN. -/
def mulExact (a b : FVal) : FVal :=
  match a, b with
  | .nan s, y => .nan (s || y.isSnan)
  | x, .nan s => .nan (s || x.isSnan)
  | .inf n, y => if y.isZero then .nan true else .inf (n != y.neg)
  | x, .inf n => if x.isZero then .nan true else .inf (n != x.neg)
  | .fin n1 m1 x1, .fin n2 m2 x2 => .fin (n1 != n2) (m1 * m2) (x1 + x2)

/-- a times b (R80). -/
def mulF (f : FFmt) (md : Rm) (a b : FVal) : Nat × Flags := packF f md (mulExact a b)
/-- d plus a times b, rounded once (R80): an invalid product raises invalid whatever d is. -/
def fmaF (f : FFmt) (md : Rm) (d a b : FVal) : Nat × Flags := addF f md d (mulExact a b)
/-- d minus a times b (R80). -/
def fnmaF (f : FFmt) (md : Rm) (d a b : FVal) : Nat × Flags := addF f md d (mulExact a b).negate

/-- Order of two values that are not NaNs; the zeros are equal. -/
def compareF (a b : FVal) : Ordering :=
  match a, b with
  | .fin n1 m1 x1, .fin n2 m2 x2 =>
    let q := min x1 x2
    compare (unitsOf n1 m1 x1 q) (unitsOf n2 m2 x2 q)
  | .inf n, .inf k => if n = k then .eq else if n then .lt else .gt
  | .inf n, _ => if n then .lt else .gt
  | _, .inf n => if n then .gt else .lt
  | _, _ => .eq

/-- minimumNumber or maximumNumber on encodings (R80). -/
def minMaxF (f : FFmt) (isMax : Bool) (a b : Nat) : Nat × Flags :=
  let x := decodeF f a
  let y := decodeF f b
  let fl := Flags.cond (x.isSnan || y.isSnan) Flags.nv
  if x.isNan && y.isNan then (f.nan, fl)
  else if x.isNan then (b, fl)
  else if y.isNan then (a, fl)
  else
    let aFirst := match compareF x y with
      | .lt => true
      | .gt => false
      | .eq => x.neg
    (if aFirst != isMax then a else b, fl)

/-- Conditions of a floating-point compare (R81). -/
inductive FCond where
  | eq | ne | lt | le | un
  deriving DecidableEq, Repr

/-- A compare (R81): the result and the flags. -/
def cmpF (f : FFmt) (k : FCond) (a b : Nat) : Bool × Flags :=
  let x := decodeF f a
  let y := decodeF f b
  if x.isNan || y.isNan then
    let any := k == .lt || k == .le
    (k == .ne || k == .un, Flags.cond (any || x.isSnan || y.isSnan) Flags.nv)
  else
    let o := compareF x y
    (match k with
     | .eq => o == .eq
     | .ne => o != .eq
     | .lt => o == .lt
     | .le => o != .gt
     | .un => false, Flags.none)

/-- The class of an encoding, one bit of ten (R82). -/
def classF (f : FFmt) (a : Nat) : Nat :=
  match decodeF f a with
  | .nan s => if s then 2 ^ 8 else 2 ^ 9
  | .inf n => if n then 2 ^ 0 else 2 ^ 7
  | .fin n m _ =>
    if m = 0 then (if n then 2 ^ 3 else 2 ^ 4)
    else if m < 2 ^ f.p then (if n then 2 ^ 2 else 2 ^ 5)
    else (if n then 2 ^ 1 else 2 ^ 6)

/-- The sign bit cleared (R80). -/
def absF (f : FFmt) (a : Nat) : Nat := a % f.signBit
/-- The sign bit inverted (R80). -/
def negF (f : FFmt) (a : Nat) : Nat := if a / f.signBit % 2 = 1 then a % f.signBit else f.signBit + a % f.signBit

/-! ### Quotients and roots (R84) -/

/-- Bits to which a quotient or root is carried before rounding. -/
def guardBits : Nat := 64

/-- a / b (R84). -/
def divF (f : FFmt) (md : Rm) (a b : FVal) : Nat × Flags :=
  match a, b with
  | .nan s, y => nanF f (s || y.isSnan)
  | x, .nan s => nanF f (s || x.isSnan)
  | .inf _, .inf _ => nanF f true
  | .inf n, .fin k _ _ => infF f (n != k)
  | .fin n _ _, .inf k => zeroF f (n != k)
  | .fin n m1 x1, .fin k m2 x2 =>
    if m2 = 0 then (if m1 = 0 then nanF f true else poleF f (n != k))
    else if m1 = 0 then zeroF f (n != k)
    else
      let num := m1 <<< guardBits
      roundF f md (n != k) (num / m2) (x1 - x2 - guardBits) (num % m2 != 0)

/-- The integer square root, one bit at a time from bit `i - 1` down. -/
def isqrtGo (n : Nat) : Nat → Nat → Nat
  | 0, r => r
  | i + 1, r => let t := r + 2 ^ i; isqrtGo n i (if t * t ≤ n then t else r)
/-- The integer square root. -/
def isqrt (n : Nat) : Nat := isqrtGo n (Nat.log2 n / 2 + 1) 0

/-- A value as `m` times an even power of two, with `m` scaled up by `2^(2*guardBits)`. -/
def evenForm (m : Nat) (x : Int) : Nat × Int :=
  if x % 2 = 0 then (m, x) else (2 * m, x - 1)

/-- The square root (R84). -/
def sqrtF (f : FFmt) (md : Rm) (a : FVal) : Nat × Flags :=
  match a with
  | .nan s => nanF f s
  | .inf n => if n then nanF f true else infF f false
  | .fin n m x =>
    if m = 0 then zeroF f n
    else if n then nanF f true
    else
      let (m1, x1) := evenForm m x
      let big := m1 <<< (2 * guardBits)
      let r := isqrt big
      roundF f md false r (x1 / 2 - guardBits) (r * r != big)

/-- The reciprocal square root (R84). -/
def rsqrtF (f : FFmt) (md : Rm) (a : FVal) : Nat × Flags :=
  match a with
  | .nan s => nanF f s
  | .inf n => if n then nanF f true else zeroF f false
  | .fin n m x =>
    if m = 0 then poleF f n
    else if n then nanF f true
    else
      let (m1, x1) := evenForm m x
      let k := guardBits + Nat.log2 m1
      let big := 2 ^ (2 * k)
      let r := isqrt (big / m1)
      roundF f md false r (-(x1 / 2) - k) (r * r * m1 != big)

/-! ### Conversions (R83, R129, R130) -/

/-- Smallest value of an integer type of `n` bits. -/
def intMin (isI : Bool) (n : Nat) : Int := if isI then -(2 ^ (n - 1) : Int) else 0
/-- Largest value of an integer type of `n` bits. -/
def intMax (isI : Bool) (n : Nat) : Int := if isI then 2 ^ (n - 1) - 1 else 2 ^ n - 1
/-- The `n`-bit encoding of an integer. -/
def encodeInt (n : Nat) (v : Int) : Nat := (v % 2 ^ n).toNat
/-- The value of an `n`-bit integer encoding. -/
def decodeInt (isI : Bool) (n x : Nat) : Int := if isI then sextNat n x else (x % 2 ^ n : Nat)
/-- The value clamped to the range of an integer type (R97, R104). -/
def clampInt (isI : Bool) (n : Nat) (v : Int) : Int := max (intMin isI n) (min (intMax isI n) v)

/-- A decoded value to an integer type (R129). -/
def toInt (isI : Bool) (n : Nat) (md : Rm) (a : FVal) : Nat × Flags :=
  match a with
  | .nan _ => (0, Flags.nv)
  | .inf s => (encodeInt n (if s then intMin isI n else intMax isI n), Flags.nv)
  | .fin s m x =>
    let (u, exact) := roundUnits md s m x 0 false
    let v : Int := if s then -(u : Int) else u
    if v < intMin isI n then (encodeInt n (intMin isI n), Flags.nv)
    else if intMax isI n < v then (encodeInt n (intMax isI n), Flags.nv)
    else (encodeInt n v, Flags.cond (!exact) Flags.nx)

/-- An integer as a decoded value. -/
def ofInt (v : Int) : FVal := .fin (decide (v < 0)) v.natAbs 0

/-- The decoded value of an encoding of type `t`, an integer or a floating-point type. -/
def decodeE (t : ETy) (x : Nat) : FVal :=
  if t.isInt then ofInt (decodeInt t.isI t.bits x) else decodeF (ffmt t) x

/-- Conversion among integer and floating-point types, not both integers (R83). -/
def convert (dst src : ETy) (md : Rm) (x : Nat) : Nat × Flags :=
  if dst.isInt then toInt dst.isI dst.bits md (decodeE src x) else packF (ffmt dst) md (decodeE src x)

end Sys2Proof.Machine
end

