-- ==== Sys2Proof/Machine/Tapered.lean ====
section
/-! DEFINITION. Tapered codes and block scales (spec 08, R140 to R148). -/
namespace Sys2Proof.Machine

/-- Leading bits of the `n`-bit body equal to `lead`. -/
def tapRun (lead body : Nat) : Nat → Nat
  | 0 => 0
  | n + 1 => if body / 2 ^ n % 2 = lead then 1 + tapRun lead body n else 0

/-- The magnitude of a nonzero body of `b` bits, in units of 2^-12 (R140). -/
def tapMagnitude (b body : Nat) : Nat :=
  let lead := body / 2 ^ (b - 1) % 2
  let run := tapRun lead body b
  let k : Int := if lead = 1 then (run : Int) - 1 else -(run : Int)
  let rest := b - run - 1
  let e := if 1 ≤ rest then body / 2 ^ (rest - 1) % 2 else 0
  let fb := rest - 1
  let f := body % 2 ^ fb
  2 ^ (2 * k + e + 12).toNat * (2 ^ fb + f) / 2 ^ fb

/-- Body width of a tapered format (R140). -/
def tapBits (t : ETy) : Nat := if t == .ta6 then 5 else 7

/-- Decode a tapered code: a signed number of units of 2^-12, or none for not-a-value (R140, R141). -/
def decodeTap (t : ETy) (code : Nat) : Option Int :=
  let b := tapBits t
  let s := code / 2 ^ b % 2
  let body := code % 2 ^ b
  if body = 0 then (if s = 0 then some 0 else none)
  else if s = 1 then some (-(tapMagnitude b body : Int)) else some (tapMagnitude b body)

/-- A tapered code as a decoded value; not-a-value is a quiet NaN (R145). -/
def tapVal (t : ETy) (code : Nat) : FVal := match decodeTap t code with
  | none => .nan false
  | some v => .fin (decide (v < 0)) v.natAbs (-12)

/-- The largest body of at most `n` whose magnitude is at most `a / u`, given in scaled units. -/
def tapBelow (b a u : Nat) : Nat → Nat
  | 0 => 0
  | n + 1 => if tapMagnitude b (n + 1) * u ≤ a then n + 1 else tapBelow b a u n

/-- Convert a decoded value into a tapered format (R146).  A quiet NaN and an infinity set NV as R146 says, though R118 and the list of R128 do
not have them among what sets invalid: the rule that names the conversion is followed (log 182, DEDUCED). -/
def encodeTap (t : ETy) (v : FVal) : Nat × Flags :=
  let b := tapBits t
  match v with
  | .nan _ => (2 ^ b, Flags.nv)
  | .inf _ => (2 ^ b, Flags.nv)
  | .fin neg m x =>
    if m = 0 then (0, 0)
    else
      let q := min x (-12)
      let a := shlInt m (x - q)
      let u := shlInt 1 (-12 - q)
      let top := 2 ^ b - 1
      let sign := if neg then 2 ^ b else 0
      if tapMagnitude b top * u < a then (sign + top, Flags.ov ||| Flags.nx)
      else if a < tapMagnitude b 1 * u then (sign + 1, Flags.uf ||| Flags.nx)
      else
        let lo := tapBelow b a u top
        let below := a - tapMagnitude b lo * u
        if below = 0 then (sign + lo, 0)
        else
          let above := tapMagnitude b (lo + 1) * u - a
          let body := if below < above then lo else if above < below then lo + 1
            else if lo % 2 = 0 then lo else lo + 1
          (sign + body, Flags.nx)

/-- An sc8 scale: its exponent, or none for a block that is not present (R148). -/
def scaleExp (q : Nat) : Option Int := if q % 256 = 128 then none else some (sextNat 8 q)

end Sys2Proof.Machine
end

