-- ==== Sys2Proof/Machine/Blocks.lean ====
section
/-! DEFINITION. Block fixed point and what a bank forms from its staging store (spec 08, R150 to R155; 09, R157, R158). -/
namespace Sys2Proof.Machine

/-! ### Block fixed point (R150 to R154) -/

/-- An exact scaled element, or none for not-a-value (R150, R154). -/
def exactValue (t : ETy) (code scale : Nat) : Option FVal :=
  match scaleExp scale with
  | none => none
  | some q => match (if t.isTap then tapVal t code else decodeE t code) with
    | .fin s m x => some (.fin s m (x + q))
    | _ => none

/-- ex(v) of a nonzero value (R151). -/
def exOf : FVal → Option Int
  | .fin _ m x => if m = 0 then none else some (Nat.log2 m + x + 1)
  | _ => none
/-- The larger of two exponents, where there are any. -/
def maxEx (a b : Option Int) : Option Int := match a, b with
  | none, y => y
  | x, none => x
  | some x, some y => some (max x y)
/-- The exponent of a list of optional values. -/
def exponentOf (l : List (Option FVal)) : Int := ((l.map fun v => v.bind exOf).foldl maxEx none).getD 0
/-- The block fixed-point integer of a value under exponent `e` (R151). -/
def quantize (m : Nat) (e : Int) : Option FVal → Int
  | some (.fin s k x) =>
    let t := x + m - e
    let q : Int := ((if 0 ≤ t then k * 2 ^ t.toNat else k / 2 ^ (-t).toNat : Nat) : Int)
    if s then -q else q
  | _ => 0

/-- m of a format (R151). -/
def rowBits : ETy → Nat
  | .ta6 => 5
  | _ => 8
/-- Digits of a row buffer's format (R160). -/
def digitCount : ETy → Nat
  | .ta6 => 2
  | _ => 3
/-- Digit `d` of an integer (R152). -/
def digitOf (n d : Nat) (q : Int) : Int := if d + 1 = n then q / 8 ^ d else q / 8 ^ d % 8

/-- A row-lane from 64 elements with their scales (R151, R154, R155, R170). -/
def rowLane (t : ETy) (l : List (Nat × Nat)) : RowLane :=
  if t == .i8 then { ints := l.map fun (x, _) => sextNat 8 x, exp := 0, nav := false }
  else
    let v := l.map fun (x, q) => exactValue t x q
    let e := exponentOf v
    { ints := v.map (quantize (rowBits t) e), exp := e, nav := v.any (·.isNone) }

/-- The `n` fields of `w` bits of a number, the lowest first. -/
def fields (w : Nat) : Nat → Nat → List Nat
  | 0, _ => []
  | n + 1, x => x % 2 ^ w :: fields w n (x / 2 ^ w)
/-- A number from its fields of `w` bits. -/
def unfields (w : Nat) : List Nat → Nat
  | [] => 0
  | x :: r => x % 2 ^ w + 2 ^ w * unfields w r

/-- A pushed row from its elements with their scales (R157). -/
def bankRow (t : ETy) (l : List (Nat × Nat)) : BankRow :=
  { codes := BitVec.ofNat 8192 (unfields 16 (l.map (·.1))), scales := BitVec.ofNat 4096 (unfields 8 (l.map (·.2))), fmt := t }
/-- The exact values of a pushed row. -/
def bankValues (r : BankRow) : List (Option FVal) :=
  List.zipWith (exactValue r.fmt) (fields 16 512 r.codes.toNat) (fields 8 512 r.scales.toNat)
/-- The integers of a pushed i8 row. -/
def bankInts (r : BankRow) : List Int := (fields 16 512 r.codes.toNat).map fun x => sextNat 8 x

/-- What a valid bank forms from its staging store: per row the 512 integers, and per column E_B and the mark of a group that is
not a value (R151, R154, R158). -/
structure Formed where
  ints : List (List Int)
  exps : List Int
  navs : List Bool
/-- Form a bank (R151, R158). -/
def formBank (b : Bank) : Formed :=
  if b.desc.isInt == some true then
    { ints := b.rows.map bankInts, exps := List.replicate 512 0, navs := List.replicate 512 false }
  else
    let v := b.rows.map bankValues
    let e := (v.foldl (fun (l : List (Option Int)) r => List.zipWith (fun x y => maxEx x (y.bind exOf)) l r)
      (List.replicate 512 none)).map (·.getD 0)
    { ints := v.map fun r => List.zipWith (quantize 8) e r, exps := e
      navs := v.foldl (fun l r => List.zipWith (fun x y => x || y.isNone) l r) (List.replicate 512 false) }

end Sys2Proof.Machine
end

