-- ==== Sys2Proof/Machine/Coherence.lean ====
section
/-! DEFINITION. Line tags, L2 copies, L1s and the steps that move bytes between them and the coherent point
(spec 11 R196, 12 R206, 13 R217 to R225, 15 R254 to R258). -/
namespace Sys2Proof.Machine

/-! ### Tags and L2 copies -/

/-- Write the tag of a line. -/
def setTag (s : State) (line : Nat) (t : BitVec 16) : State :=
  s.modHomes fun h => { h with tags := if t = 0 then h.tags.erase line else h.tags.set line t }

/-- Key of agent `a`'s copy of a line. -/
def l2Key (a line : Nat) : Nat := a * 2 ^ 46 + line
/-- Agent `a`'s copy of a line, if it holds one (R219). -/
def l2Copy (s : State) (a line : Nat) : Option L2Copy := s.homes.l2.get? (l2Key a line)
/-- Set agent `a`'s copy of a line. -/
def setL2 (s : State) (a line : Nat) (x : L2Copy) : State :=
  s.modHomes fun h => { h with l2 := h.l2.set (l2Key a line) x }
/-- Agent `a` drops its copy of a line. -/
def dropL2 (s : State) (a line : Nat) : State := s.modHomes fun h => { h with l2 := h.l2.erase (l2Key a line) }
/-! ### L2 slices (R257, R258) -/

/-- The slice of a line (R257). -/
def sliceOf (line : Nat) : Nat := line % 16 ^^^ line / 2 ^ 4 % 16 ^^^ line / 2 ^ 8 % 16 ^^^ line / 2 ^ 12 % 16
/-- The set of a line in its slice (R257). -/
def setOf (line : Nat) : Nat := line / 2 ^ 4 % 16384
/-- A copy occupies a way of the set of a line in a slice of agent `a`'s L2; one in the writeback buffer does not. -/
def inSet (a slice line k : Nat) (x : L2Copy) : Bool :=
  k / 2 ^ 46 == a && x.slice == slice && !x.inWriteback && setOf (k % 2 ^ 46) == setOf line
/-- Agent `a`'s copies in the set of a line in a slice. -/
def setCopies (s : State) (a slice line : Nat) : Table L2Copy :=
  (Paged.entries (List.filter (fun p => p.1 % 2048 == line / 128 % 2048) s.homes.l2)).filter fun (k, x) => inSet a slice line k x
/-- Lines pinned in the set of a line in a slice of agent `a`'s L2 (R257, R258). -/
def pinnedInSet (s : State) (a slice line : Nat) : Nat := ((setCopies s a slice line).filter fun (_, x) => x.pinned).length

/-- A copy leaves its way (R219, R223): an S copy goes silently, an E, M or O copy waits in the writeback buffer. -/
def evictCopy (s : State) (k : Nat) (x : L2Copy) : State :=
  s.modHomes fun h => { h with l2 := if x.st = .s then h.l2.erase k else h.l2.set k { x with inWriteback := true } }
/-- A full set of a slice gives up a line that is not pinned; which one is a free value (R257, R258; log 127). -/
def makeRoom (s : State) (a slice line : Nat) : State :=
  let l := setCopies s a slice line
  if l.length < Config.l2Ways then s
  else
    let m := l.filter fun (_, x) => !x.pinned
    match m[Config.victim s.free % m.length]? with
    | some (k, x) => evictCopy { s with free := s.free + 1 } k x
    | none => s

/-- A copy in a state is dirty. -/
def L2State.isDirty (st : L2State) : Bool := st == .m || st == .o
/-- A fresh copy in a state, in a slice. -/
def copyIn (slice : Nat) (st : L2State) : L2Copy :=
  { st := st, dirty := st.isDirty, pinned := false, slice := slice, inWriteback := false }
/-- Agent `a`'s copy takes a state: a copy that it holds keeps its way and its pin, and a new one takes a way of its set (R257,
R258).  A new copy takes the place of one that still waits in the agent's writeback buffer, whose WB or CE is then not sent; R222 and
R223 do not say what becomes of it (log 149, DESIGN CHOICE). -/
def takeCopy (s : State) (a line : Nat) (st : L2State) : State :=
  match l2Copy s a line with
  | some x =>
    if x.inWriteback then setL2 (makeRoom s a (sliceOf line) line) a line (copyIn (sliceOf line) st)
    else setL2 s a line { x with st := st, dirty := st.isDirty }
  | none => setL2 (makeRoom s a (sliceOf line) line) a line (copyIn (sliceOf line) st)

/-- Agent `a` holds a copy of a line; one that waits in its writeback buffer has left its way (R219, R223). -/
def holds (s : State) (a line : Nat) : Bool := match l2Copy s a line with
  | some x => !x.inWriteback
  | none => false

/-- A line of home 10 stays in slice PINSL of agent PINAG's L2, unless 12 lines are pinned in its set; such a fill is counted (R258).
`had`: the agent held the line before the access. -/
def pin (s : State) (q line : Nat) (e : W64) (had : Bool) : State :=
  if Pte.home e == 2 && Pte.pinag e == q then
    match l2Copy s q line with
    | some x =>
      if x.pinned then s
      else if Config.pinWays ≤ pinnedInSet s q (Pte.pinsl e) line then
        (if had then s else s.modHomes fun h => { h with pinOver := h.pinOver + 1 })
      else
        let s1 := if x.slice = Pte.pinsl e then s else makeRoom s q (Pte.pinsl e) line
        setL2 s1 q line { x with pinned := true, slice := Pte.pinsl e }
    | none => s
  else s

/-- Agents of the marked groups, but `q` (R222, "Inv H"). -/
def sharers (s : State) (h : BitVec 6) (q : Nat) : List Nat :=
  s.homes.present.filter fun a => a != q && h.getLsbD (a % 6) && !s.homes.lost.contains a
/-- An agent drops any S copy of a line; a copy that waits in its writeback buffer stays there (R220, R223). -/
def dropShared (s : State) (a line : Nat) : State := match l2Copy s a line with
  | some x => if x.st = .s then dropL2 s a line else s
  | none => s
/-- Agents of a list drop their S copies of a line (R222). -/
def invalidate (s : State) (line : Nat) : List Nat → State
  | [] => s
  | a :: r => invalidate (dropShared s a line) line r

/-- The owner's answer to a forward for a line (R222, R223): whether it holds the copy in its writeback buffer, and
whether the copy is dirty. -/
def ownerAnswer (s : State) (o line : Nat) : Bool × Bool := match l2Copy s o line with
  | some x => (x.inWriteback, x.dirty)
  | none => (false, false)

/-- Log an uncorrectable or invalid tag that an agent's request meets, for a context that waits there (R223, R393). -/
def logTag (s : State) (q line : Nat) : State :=
  logFault s { kind := 0x04, agent := q, first := line * 128, detail := (lineTag s line).toNat }
/-- Report an error that no context waits for (R223, R273, R393): 1 writeback or eviction, 2 migration, 3 scrub, and 0 for a step of the
L9's own that is none of these, for which R393 names no number (log 173, DESIGN CHOICE). -/
def logNoContext (s : State) (line detail : Nat) : State :=
  logFault s { kind := 0x05, agent := paAgent (line * 128), first := line * 128, detail := detail }
/-- An error of the data of a line, and not of its tag. -/
def ofData : MemErr → Bool
  | .tagCorrected | .tagBad => false
  | _ => true
/-- A line whose every bit has been written anew has a good code again (R273). -/
def cleanLine (s : State) (line : Nat) : State :=
  s.modHomes fun h => { h with
    dataErr := h.dataErr.filter (· != line), latent := h.latent.filter fun (l, e) => l != line || !ofData e }

/-- Log a corrected error (R223, R273, R393). -/
def logCorrected (s : State) (line kind bits : Nat) : State :=
  logFault s { kind := kind, agent := paAgent (line * 128), corrected := true, first := line * 128, detail := bits }
/-- The kind of a corrected error in the fault log (R393). -/
def errKind : MemErr → Nat
  | .tagCorrected => 0x03
  | _ => 0x01
/-- Bits that a correction has changed (R393). -/
def errBits : MemErr → Nat
  | .corrected n => n
  | _ => 0
/-- An access finds the correctable errors of a line: each is corrected there and logged (R223, R273). -/
def findErrors (s : State) (line : Nat) : State :=
  let l := s.homes.latent.filter fun (a, _) => a == line
  if l.isEmpty then s
  else l.foldl (fun s (_, e) => logCorrected s line (errKind e) (errBits e))
    (s.modHomes fun h => { h with latent := h.latent.filter fun (a, _) => a != line })

/-! ### Tiers, the cache layers and rows (R259 to R263, R272) -/

/-- Frames of 64 KiB that an agent has in HBM (R262). -/
def hbmPages : Nat := 120 * gib / 2 ^ 16
/-- Frames of 64 KiB that the capacity tier keeps for an agent's pages (R262). -/
def tierPages : Nat := 192 * gib / 2 ^ 16
/-- The place of a page among its agent's frames: HBM first, then the capacity tier (R262). -/
def placeOf (s : State) (page : Nat) : Nat := s.tiers.place.get page (page % 2 ^ 29)
/-- The exchange that a page takes part in, with the page whose place it takes (R263). -/
def movingPage (s : State) (page : Nat) : Option (Migration × Nat) :=
  firstSome (s.tiers.migrating.map fun (_, m) =>
    if m.up = page then some (m, m.down) else if m.down = page then some (m, m.up) else none)
/-- The place of the page that holds a line: a line that has moved stands in the frame of the other page (R224, R263). -/
def lineFrame (s : State) (line : Nat) : Nat := match movingPage s (line / 512) with
  | some (m, other) => placeOf s (if line % 512 < m.done then other else line / 512)
  | none => placeOf s (line / 512)
/-- A page lies in HBM: in its reset tier unless it has moved (R262). -/
def inHbm (s : State) (page : Nat) : Bool := decide (placeOf s page < hbmPages)
/-- The line is one of an agent's 312 GiB of memory (R262). -/
def inMemory (s : State) (line : Nat) : Bool := match region s (line * 128) with
  | .memory .. => true
  | _ => false
/-- The stack of the module and the line of its data layers that hold a line, for a line in HBM; the halves of an agent's frames lie in
its two stacks in order (R262; log 40). -/
def hbmLine (s : State) (line : Nat) : Option (Nat × Nat) :=
  match localDie s (paAgent (line * 128)) with
  | some d =>
    let o := lineFrame s line * 512 + line % 512
    if inMemory s line ∧ o < 120 * gib / 128 then some (2 * d + o / (60 * gib / 128), o % (60 * gib / 128)) else none
  | none => none
/-- Stack and row of a line in HBM; a row is 8 lines (R272). -/
def rowOfLine (s : State) (line : Nat) : Option (Nat × Nat) := (hbmLine s line).map fun (st, l) => (st, l / 8)
/-- Tier offset of a byte of the capacity tier, counted across the module: the agents' parts stand one after another (R261; log 128). -/
def tierOffset (s : State) (pa : Nat) : Option Nat :=
  match localDie s (paAgent pa) with
  | some d =>
    let f := lineFrame s (pa / 128)
    if inMemory s (pa / 128) ∧ hbmPages ≤ f then some ((d * tierPages + (f - hbmPages)) * 2 ^ 16 + pa % 2 ^ 16) else none
  | none => none
/-- The channel of a tier offset, and the offset in that channel (R261). -/
def channelOf (o : Nat) : Nat × Nat := (o / 256 % 48, o / 12288 * 256 + o % 256)
/-- The channel of the capacity tier that holds a byte, and its offset there; none for a byte that is not in the tier (R261). -/
def capacityChannel (s : State) (pa : Nat) : Option (Nat × Nat) := (tierOffset s pa).map channelOf

/-- Key of a row among the rows of the module. -/
def rowKey (stack row : Nat) : Nat := stack * 2 ^ 32 + row
/-- Sets of a stack's cache layer: 4 GiB of lines in 16 ways (R9, R259). -/
def layerSets : Nat := 4 * gib / 128 / Config.layerWays
/-- Key of a set of a cache layer: consecutive lines of a stack take consecutive sets (log 129). -/
def layerKey (stack l : Nat) : Nat := stack * 2 ^ 32 + l % layerSets
/-- The lines that a set of a cache layer holds, with their ways; a line is its number in the stack. -/
def layerSet (s : State) (stack l : Nat) : List (Nat × Nat) := s.tiers.cached.get (layerKey stack l) []
/-- Replace what a set of a cache layer holds. -/
def setLayer (s : State) (stack l : Nat) (x : List (Nat × Nat)) : State :=
  s.modTiers fun t => { t with cached := t.cached.set (layerKey stack l) x }
/-- The cache layer holds a line of its stack (R259). -/
def inLayer (s : State) (stack l : Nat) : Bool := (layerSet s stack l).any fun (_, x) => x == l
/-- The ways of a stack's cache layer that are not converted (R260). -/
def freeWays (s : State) (stack : Nat) : List Nat :=
  (List.range Config.layerWays).filter fun w => decide ((s.tiers.dcctl.get stack Dcctl.reset).ways ≤ w)
/-- The line belongs to a captured row (R272). -/
def rowHeld (s : State) (stack l : Nat) : Bool := s.tiers.hotRows.contains (stack, l / 8)
/-- The cache layer allocates a line (R259): in a free way, or in that of a line that no captured row holds; which one is a free value
(log 127). -/
def allocLayer (s : State) (stack l : Nat) : State :=
  let x := layerSet s stack l
  if inLayer s stack l then s
  else match (freeWays s stack).find? fun w => !(x.any fun (v, _) => v == w) with
    | some w => setLayer s stack l (x ++ [(w, l)])
    | none =>
      let m := x.filter fun (_, y) => !rowHeld s stack y
      match m[Config.victim s.free % m.length]? with
      | some (w, y) => setLayer { s with free := s.free + 1 } stack l (x.filter (fun p => p.2 != y) ++ [(w, l)])
      | none => s
/-- A row of a stack is activated; at the 512th time it is to be captured next (R272). -/
def activate (s : State) (stack row : Nat) : State :=
  let n := s.tiers.rowAct.get (rowKey stack row) 0 + 1
  s.modTiers fun t => { t with
    rowAct := t.rowAct.set (rowKey stack row) n, hotDue := if n = 512 then t.hotDue ++ [(stack, row)] else t.hotDue }

/-- A line of HBM is read or written (R259, R272): its stack's cache layer serves it, and reads it from its row first when it lacks it and
no captured row holds it.  The base dies of another module serve its lines.  Correctable errors of the line are found (R273). -/
def tierAccess (s0 : State) (line : Nat) : State :=
  let s := findErrors s0 line
  match hbmLine s line with
  | some (st, l) => if inLayer s st l || rowHeld s st l then s else allocLayer (activate s st (l / 8)) st l
  | none => s
/-- An access counts for its page while the migrator runs (R263). -/
def countPage (s : State) (line : Nat) : State :=
  let page := line / 512
  if s.mgmt.migen && (localDie s (paAgent (line * 128))).isSome && inMemory s line then
    s.modTiers fun t => { t with pageCount := t.pageCount.set page (Nat.min 255 (t.pageCount.get page 0 + 1)) }
  else s
/-- A line access at the home (R259, R263, R272). -/
def touch (s : State) (line : Nat) : State := tierAccess (countPage s line) line
/-- Lines are accessed at their homes, in order. -/
def touchLines (s : State) (l : List Nat) : State := l.foldl touch s

/-! ### Transactions served whole (R221, R222) -/

/-- An owner that has answered FwdS keeps its copy in a lesser state; a copy in the writeback buffer stays there (R222). -/
def downgrade (s : State) (o line : Nat) (st : L2State) : State := match l2Copy s o line with
  | some x => if x.inWriteback then s else takeCopy s o line st
  | none => s

/-- RdS from `q`, served whole (R222), with the owner's answer: from its writeback buffer, dirty. -/
def serveRdSWith (answer : Bool × Bool) (s0 : State) (q line : Nat) : State :=
  let s := touch s0 line
  if inHeap s (line * 128) then takeCopy s q line .s
  else
    let t := lineTag s line
    let o := Tag.owner t
    let alone (s : State) : State := takeCopy (setTag s line (Tag.make 0 q 2)) q line .e
    match Tag.state t with
    | .s => takeCopy (setTag s line (Tag.make (Tag.hints t ||| Tag.group q) 0 1)) q line .s
    | .e | .m =>
      if o = q then alone s
      else if answer.1 then alone s
      else if answer.2 || Tag.state t == .m then
        takeCopy (downgrade (setTag s line (Tag.make (Tag.group q) o 4)) o line .o) q line .s
      else takeCopy (downgrade (setTag s line (Tag.make (Tag.group o ||| Tag.group q) 0 1)) o line .s) q line .s
    | .o =>
      if o = q then alone s
      else if answer.1 then alone s
      else takeCopy (setTag s line (Tag.make (Tag.hints t ||| Tag.group q) o 4)) q line .s
    | _ => alone s

/-- RdS from `q`, served whole (R222). -/
def serveRdS (s : State) (q line : Nat) : State :=
  serveRdSWith (ownerAnswer s (Tag.owner (lineTag s line)) line) s q line

/-- The owner of a line drops its copy for FwdX; a copy in the writeback buffer stays there until its WB or CE (R222). -/
def forwardX (s : State) (o line : Nat) : State := match l2Copy s o line with
  | some x => if x.inWriteback then s else dropL2 s o line
  | none => s

/-- RdX or Upg from `q`, served whole (R222): every other copy goes, the tag becomes M with owner `q`. -/
def serveRdX (s0 : State) (q line : Nat) : State :=
  let s := touch s0 line
  let t := lineTag s line
  let o := Tag.owner t
  let s1 := match Tag.state t with
    | .s => invalidate s line (sharers s (Tag.hints t) q)
    | .e | .m => if o = q then s else forwardX s o line
    | .o => (fun z => if o = q then z else forwardX z o line) (invalidate s line (sharers s (Tag.hints t) q))
    | _ => s
  takeCopy (setTag s1 line (Tag.make 0 q 3)) q line .m

/-! ### Messages between modules (R220, R224) -/

/-- The whole line as a number of the coherent point. -/
def lineData (s : State) (line : Nat) : BitVec 1024 := BitVec.ofNat 1024 (s.readMem (line * 128) 128)
/-- The message carries the line's data (R220). -/
def CohKind.hasData (k : CohKind) : Bool := k == .wb || k == .data
/-- A message between two agents, with the line's data where it has any: on different modules it crosses the fabric, in one flit (R220,
R224, R305, R378). -/
def carry (s : State) (kind : CohKind) (line src dst : Nat) : State :=
  if src / 4 = dst / 4 then s
  else if src / 4 = s.pos then
    let data := if kind.hasData then some (lineData s line) else none
    countFabric { s with fabricOut := s.fabricOut ++ [.coherence kind src dst line data] } evFabTx
  else if dst / 4 = s.pos then countFabric s evFabRx
  else s
/-- Agent `q` reads, writes or changes where they stand bytes that are never cached (R224): a line of home 01, a scratchpad window, a
management window or host memory.  To another module one flit leaves, with the written bytes, and one comes back with what is read (R254,
R305; log 148). -/
def homeAccess (s : State) (q line : Nat) (reads : Bool) (bytes : List (Nat × Byte)) : State :=
  let h := paAgent (line * 128)
  if q / 4 = h / 4 || q / 4 != s.pos then (if tagged s (line * 128) then touch s line else findErrors s line)
  else
    let s1 := countFabric { s with fabricOut := s.fabricOut ++ [.access q line bytes] } evFabTx
    if reads then countFabric s1 evFabRx else s1

/-- The agents that must drop their S copies before a request completes, and the owner to which it is forwarded (R222). -/
def needs (s : State) (req : Request) (q line : Nat) : List Nat × Option Nat :=
  let t := lineTag s line
  let o := Tag.owner t
  let fwd := if o = q then none else some o
  match req, Tag.state t with
  | .rds, .e | .rds, .m | .rds, .o => ([], fwd)
  | .rds, _ => ([], none)
  | _, .s => (sharers s (Tag.hints t) q, none)
  | _, .e | _, .m => ([], fwd)
  | _, .o => (sharers s (Tag.hints t) q, fwd)
  | _, _ => ([], none)

/-- The message that a request is (R220). -/
def Request.message : Request → CohKind
  | .rds => .rds
  | .rdx => .rdx
  | .upg => .upg
/-- Inv to the sharers and FwdS or FwdX to the owner (R222). -/
def sendNeeds (s : State) (req : Request) (line : Nat) (acks : List Nat) (fwd : Option Nat) : State :=
  let h := paAgent (line * 128)
  let s1 := acks.foldl (fun s a => carry s .inv line h a) s
  match fwd with
  | some o => carry s1 (if req = .rds then .fwds else .fwdx) line h o
  | none => s1
/-- The owner sends the data straight to the requester, from its writeback buffer to the home as well, and Done to the home (R222,
R223). -/
def sendOwner (s : State) (line q o : Nat) : State :=
  let h := paAgent (line * 128)
  let s1 := carry s .data line o q
  carry (if (ownerAnswer s o line).1 then carry s1 .data line o h else s1) .done line o h
/-- The home answers a request: with data, or with completion alone where the owner has sent them or an Upg needs none (R222). -/
def sendAnswer (s : State) (req : Request) (q line : Nat) (forwarded marked : Bool) : State :=
  carry s (if forwarded || (req == .upg && marked) then .done else .data) line (paAgent (line * 128)) q
/-- The tag marks the sender of an Upg as a sharer (R223). -/
def marks (s : State) (q line : Nat) : Bool :=
  Tag.state (lineTag s line) == .s && (Tag.hints (lineTag s line)).getLsbD (q % 6)
/-- The messages that follow a request that is served whole. -/
def homeTraffic (s : State) (req : Request) (q line : Nat) : State :=
  let h := paAgent (line * 128)
  if s.homes.present.all fun a => a / 4 == s.pos then s
  else
    let (acks, fwd) := if inHeap s (line * 128) then ([], none) else needs s req q line
    let s1 := sendNeeds s req line acks fwd
    let s2 := acks.foldl (fun s a => carry s .ack line a h) s1
    let s3 := match fwd with
      | some o => sendOwner s2 line q o
      | none => s2
    sendAnswer s3 req q line fwd.isSome (marks s q line)
/-- The messages of a request that is served whole, the request among them. -/
def traffic (s : State) (req : Request) (q line : Nat) : State :=
  homeTraffic (carry s req.message line q (paAgent (line * 128))) req q line

/-! ### A line that is busy (R221) -/

/-- The line is one of those that the migrator is moving now (R224). -/
def isMoving (s : State) (line : Nat) : Bool := match movingPage s (line / 512) with
  | some (m, _) => m.busy && m.done == line % 512
  | none => false
/-- A line is busy at its home: a transaction is in progress, or the migrator moves it (R221, R224). -/
def lineBusy (s : State) (line : Nat) : Bool := (s.homes.busy.get? line).isSome || isMoving s line
/-- The line of its stack's cache layer is given up where its page leaves its frame. -/
def dropLayer (s : State) (line : Nat) : State := match hbmLine s line with
  | some (st, l) => setLayer s st l ((layerSet s st l).filter fun p => p.2 != l)
  | none => s
/-- The migrator reads or writes the two lines that change places, wherever they stand now (R259, R272); its own accesses add nothing to
the counts by which it chooses pages (R263; log 155). -/
def moveAccess (s : State) (m : Migration) : State := tierAccess (tierAccess s (m.up * 512 + m.done)) (m.down * 512 + m.done)
/-- The exchange of an agent moves on: the next line has moved, with its tag; after the last line the pages have changed places and
count as two moved pages (R224, R263). -/
def endMove (s0 : State) (a : Nat) (m : Migration) : State :=
  let s := moveAccess s0 m
  let s1 := dropLayer (dropLayer s (m.up * 512 + m.done)) (m.down * 512 + m.done)
  if m.done + 1 < 512 then
    moveAccess (s1.modTiers fun t => { t with migrating := t.migrating.set a { m with done := m.done + 1, busy := false } }) m
  else
    let p := placeOf s1 m.up
    let q := placeOf s1 m.down
    moveAccess (s1.modTiers fun t => { t with
      migrating := t.migrating.erase a, place := (t.place.set m.up q).set m.down p, moves := t.moves.set a (t.moves.get a 0 + 2) }) m
/-- The line that changes places with a line that the migrator is moving now (R224). -/
def movePartner (s : State) (line : Nat) : Option Nat := match movingPage s (line / 512) with
  | some (m, other) => if m.busy && m.done == line % 512 then some (other * 512 + line % 512) else none
  | none => none
/-- The move of a line completes (R221, R224). -/
def settleMove (s : State) (line : Nat) : State := match movingPage s (line / 512) with
  | some (m, _) => if m.busy && m.done == line % 512 then endMove s (paAgent (line * 128)) m else s
  | none => s

/-- The transaction in progress on a line completes (R221): the rest of the machine never meets a busy line half way. -/
def settle (s0 : State) (line : Nat) : State :=
  let s := settleMove s0 line
  match s.homes.busy.get? line with
  | none => s
  | some x =>
    let s1 := x.acks.foldl (fun s a => carry s .ack line a (paAgent (line * 128))) (s.modHomes fun h => { h with busy := h.busy.erase line })
    let s2 := sendAnswer (match x.owner, x.forwarded with
      | some o, false => sendOwner s1 line x.q o
      | _, _ => s1) x.req x.q line x.owner.isSome (marks s x.q line)
    match x.req with
    | .rds =>
      if x.forwarded then serveRdSWith (x.fromWriteback, x.ownerDirty) s2 x.q line else serveRdS s2 x.q line
    | _ => serveRdX s2 x.q line

/-- Requests that wait for a line are served in the order in which they arrived (R221); one that would own a heap line is refused
(R225). -/
def serveWaiting (s : State) (line : Nat) : List (Nat × Request × Nat) → State
  | [] => s
  | (l, r, q) :: rest =>
    if l = line then
      let s0 := homeTraffic s r q line
      let s1 := if tagFault s line then logTag s q line
        else match r with
          | .rds => serveRdS s0 q line
          | _ => if inHeap s (line * 128) then s else serveRdX s0 q line
      serveWaiting s1 line rest
    else serveWaiting s line rest

/-- The requests that wait for an idle line are served. -/
def serveAll (s : State) (line : Nat) : State :=
  let w := s.homes.waiting
  if w.any (fun (l, _, _) => l == line) then
    serveWaiting (s.modHomes fun h => { h with waiting := w.filter fun (l, _, _) => l != line }) line w
  else s
/-- The line is idle: the transaction in progress and the waiting requests are over.  The move of a line frees its partner as well, whose
waiting requests are served too (R221, R224). -/
def settleAll (s : State) (line : Nat) : State :=
  let s1 := serveAll (settle s line) line
  match movePartner s line with
  | some l => serveAll s1 l
  | none => s1

/-- Agent `q` must send a request for the line of `pa`, `own` for ownership, and the home will not serve it (R219, R223): the home judges the
tag that the requests before it leave (R221). -/
def refused (s : State) (q pa : Nat) (pte : W64) (own : Bool) : Bool :=
  tagged s pa && (Pte.home pte == 1 || match l2Copy s q (pa / 128) with
    | some x => x.inWriteback || (own && (x.st == .s || x.st == .o))
    | none => true) && tagFault (settleAll s (pa / 128)) (pa / 128)

/-- Agent `q` obtains a copy for reading (R206, R222).  A line without a tag needs none. -/
def obtainS (s : State) (q line : Nat) : State :=
  if !tagged s (line * 128) then s
  else
    let serve (s : State) : State := serveRdS (traffic s .rds q line) q line
    match l2Copy s q line with
    | some x => if x.inWriteback then serve (settleAll s line) else findErrors s line
    | none => serve (settleAll s line)

/-- Agent `q` obtains a line in M (R206, R219). -/
def obtainM (s : State) (q line : Nat) : State :=
  if !tagged s (line * 128) || inHeap s (line * 128) then s
  else
    let serve (req : Request) (s : State) : State := serveRdX (traffic s req q line) q line
    match l2Copy s q line with
    | some x =>
      if x.inWriteback then serve .rdx (settleAll s line)
      else match x.st with
        | .m => findErrors s line
        | .e => setL2 (findErrors s line) q line { x with st := .m, dirty := true }
        | _ => serve .upg (settleAll s line)
    | none => serve .rdx (settleAll s line)
/-- Agent `q` obtains in M a line of a page with leaf `e`, which may pin it (R258). -/
def obtainPinned (s : State) (q line : Nat) (e : W64) : State := pin (obtainM s q line) q line e (holds s q line)
/-- Agent `q` obtains for reading a line of a page with leaf `e`, which may pin it (R258). -/
def obtainShared (s : State) (q line : Nat) (e : W64) : State := pin (obtainS s q line) q line e (holds s q line)

/-! ### L1 (R196, R204, R256) -/

/-- A byte of a 1024-bit line. -/
def lineByte (d : BitVec 1024) (i : Nat) : Byte := d.extractLsb' (8 * i) 8
/-- The bit mask of a byte mask. -/
def byteMask (m : BitVec 128) : Nat → BitVec 1024
  | 0 => 0
  | i + 1 => byteMask m i ||| (if m.getLsbD i then (255 : BitVec 1024) <<< (8 * i) else 0)
/-- All of a line's bytes under a mask, as addressed bytes. -/
def maskedBytes (line : Nat) (d : BitVec 1024) (m : BitVec 128) : List (Nat × Byte) :=
  (List.range 128).filterMap fun i => if m.getLsbD i then some (line * 128 + i, lineByte d i) else none

/-- The L1 line of core `k`, if present. -/
def l1Line (s : State) (k line : Nat) : Option L1Line := (s.core k).l1.get? line
/-- Set an L1 line. -/
def setL1 (s : State) (k line : Nat) (x : L1Line) : State := s.modCore k fun c => { c with l1 := c.l1.set line x }
/-- Remove an L1 line. -/
def eraseL1 (s : State) (k line : Nat) : State := s.modCore k fun c => { c with l1 := c.l1.erase line }

/-- A push of core `k` needs a line which its home does not serve (R223). -/
def pushFault (s : State) (k line : Nat) (x : L1Line) : Bool :=
  x.dirty != 0 && refused s (agentOfCore s k) (line * 128) x.pte true
/-- Dirty bytes of a line go to the coherent point under their byte mask; the line stays, clean (R196, R212).  A line that its home does
not serve is reported, for no context waits for it (R223). -/
def pushRaw (s : State) (k line : Nat) : State :=
  match l1Line s k line with
  | none => s
  | some x =>
    if x.dirty = 0 then s
    else if pushFault s k line x then logNoContext s line 1
    else
      let s1 := obtainPinned s (agentOfCore s k) line x.pte
      let s2 := if x.dirty = BitVec.allOnes 128 then cleanLine s1 line else s1
      setL1 { s2 with mem := Memory.writeCells s2.mem (maskedBytes line x.data x.dirty) } k line { x with dirty := 0 }

/-- The holder of an exclusive copy pushes its dirty bytes and drops the line (R206). -/
def giveUp (s : State) (k line : Nat) : State := eraseL1 (pushRaw s k line) k line

/-- Take back a line that another core than `k` holds exclusive (R206). -/
def takeBack (s : State) (k line : Nat) : List (Nat × Core) → State
  | [] => s
  | (q, c) :: r =>
    let s1 := if q != k && (match c.l1.get? line with
      | some x => x.excl
      | none => false) then giveUp s q line else s
    takeBack s1 k line r

/-- Every other L1 that holds the line exclusive pushes and drops it. -/
def reclaim (s : State) (k line : Nat) : State := takeBack s k line s.cores
/-- Every L1 that holds the line exclusive pushes and drops it (R206, coherent-point atom step). -/
def reclaimAll (s : State) (line : Nat) : State := takeBack s (2 ^ 20) line s.cores

/-- The push step of core `k`: an exclusive copy of another core is taken back first (R196, R206). -/
def pushLine (s : State) (k line : Nat) : State := match l1Line s k line with
  | some x => if x.dirty = 0 then s else pushRaw (reclaim s k line) k line
  | none => s
/-- Push any dirty bytes, then drop the line (R196). -/
def dropLine (s : State) (k line : Nat) : State := eraseL1 (pushLine s k line) k line

/-- Every L1 of the module but core `k` pushes its dirty bytes of the line and drops it (R206, atom). -/
def dropOthers (s : State) (k line : Nat) : List (Nat × Core) → State
  | [] => s
  | (q, c) :: r => dropOthers (if q != k && (c.l1.get? line).isSome then dropLine s q line else s) k line r

/-- An agent drops its copy of a heap line, and has every one of its cores drop it (R225). -/
def dropAt (s : State) (a line : Nat) : State :=
  dropL2 (s.cores.foldl (fun s (k, _) => if agentOfCore s k = a then eraseL1 s k line else s) s) a line
/-- Every agent of the domain, but the lost ones. -/
def liveAgents (s : State) : List Nat := s.homes.present.filter fun a => !s.homes.lost.contains a
/-- The home of a freed heap line sends an Inv to every agent (R225). -/
def sendInv (s : State) (line : Nat) : State := (liveAgents s).foldl (fun s a => carry s .inv line (paAgent (line * 128)) a) s
/-- Every agent drops its copies of a freed heap line and answers Ack (R225). -/
def takeInv (s : State) (line : Nat) : State :=
  (liveAgents s).foldl (fun s a => carry (dropAt s a line) .ack line a (paAgent (line * 128))) s

/-- The line may be held by an L1: it is ordinary memory of home 00 or 10 (R224, R228, R255). -/
def cacheable (s : State) (pa : Nat) (e : W64) : Bool := tagged s pa && Pte.home e != 1

/-- Reading a line at the coherent point for core `k` (R228, hint 01): exclusive copies are taken back and the agent
obtains the line by RdS. -/
def readThrough (s : State) (k line : Nat) (e : W64) : State := obtainShared (reclaim s k line) (agentOfCore s k) line e

/-- With hint 10 the read leaves no L2 copy behind (R27, R228, R257).  What tag it leaves is not said: a tag that names the requester as
owner in E goes back to I, and any other stays as the RdS left it (log 150, DESIGN CHOICE). -/
def forgetL2 (s : State) (q line : Nat) (had : Bool) : State :=
  if had then s
  else match l2Copy s q line with
    | some x =>
      let s1 := dropL2 s q line
      if x.st == .e && Tag.state (lineTag s line) == .e && Tag.owner (lineTag s line) == q then setTag s1 line 0 else s1
    | none => s

/-- Sets of the L1 of a core: 256 KiB of lines in 8 ways for each unit of the split (R256). -/
def l1Sets (s : State) (k : Nat) : Nat := (s.core k).u * 256
/-- The lines of core `k`'s L1 in the set of a line: consecutive lines take consecutive sets (log 129). -/
def l1Set (s : State) (k line : Nat) : Table L1Line := (s.core k).l1.filter fun (l, _) => l % l1Sets s k == line % l1Sets s k
/-- The L1 allocates a line (R256): a full set first evicts one of its lines, whichever a free value says (R196; log 127). -/
def makeWay (s : State) (k line : Nat) : State :=
  let l := l1Set s k line
  if (l1Line s k line).isSome || l.length < Config.l1Ways then s
  else
    let m := l.filter fun (a, x) => !pushFault s k a x
    match m[Config.victim s.free % m.length]? with
    | some (a, _) => dropLine { s with free := s.free + 1 } k a
    | none => s

/-- The fill step (R196): core `k` copies the line from the coherent point and keeps its dirty bytes. -/
def fillLine (s : State) (k line : Nat) (e : W64) (hint : BitVec 2) : State :=
  let q := agentOfCore s k
  let had := holds s q line
  let s1 := readThrough s k line e
  let s2 := if hint = 2 then forgetL2 s1 q line had else s1
  if (s2.core k).u = 0 then s2
  else
    let d := lineData s2 line
    match l1Line s2 k line with
    | some x =>
      let m := byteMask x.dirty 128
      setL1 s2 k line { x with data := (x.data &&& m) ||| (d &&& ~~~m), valid := BitVec.allOnes 128, pte := e }
    | none => setL1 (makeWay s2 k line) k line { data := d, valid := BitVec.allOnes 128, dirty := 0, excl := false, pte := e }

/-- Set one byte of an L1 line as dirty (R196, drain). -/
def storeByteL1 (s0 : State) (k pa : Nat) (b : Byte) (e : W64) : State :=
  let line := pa / 128
  let i := pa % 128
  let s := makeWay s0 k line
  let x := (l1Line s k line).getD { data := 0, valid := 0, dirty := 0, excl := false, pte := e }
  let m : BitVec 1024 := (255 : BitVec 1024) <<< (8 * i)
  let bit : BitVec 128 := (1 : BitVec 128) <<< i
  setL1 s k line { x with
    data := (x.data &&& ~~~m) ||| (b.zeroExtend 1024 <<< (8 * i)), valid := x.valid ||| bit, dirty := x.dirty ||| bit }

/-- The drain of one stored byte (R196, R232, R256): a window byte is written at its scratchpad, a home-01 byte at its
home, any other byte in the L1, or at the coherent point when the core has no L1. -/
def drainByte (s : State) (k pa : Nat) (b : Byte) (e : W64) : State :=
  if cacheable s pa e then
    if (s.core k).u = 0 then
      let s1 := obtainPinned (reclaim s k (pa / 128)) (agentOfCore s k) (pa / 128) e
      { s1 with mem := Memory.set s1.mem pa b }
    else storeByteL1 s k pa b e
  else { s with mem := Memory.set s.mem pa b }

/-- The leaf of a physical byte in a list of granules. -/
def pteOf (l : List (Nat × W64)) (pa : Nat) : W64 :=
  match l with
  | [] => 0
  | (p, e) :: r => if p = pa / 2 ^ 16 then e else pteOf r pa

/-- Drain a list of bytes in order. -/
def drainBytes (s : State) (k : Nat) (ptes : List (Nat × W64)) : List (Nat × Byte) → State
  | [] => s
  | (pa, b) :: r => drainBytes (drainByte s k pa b (pteOf ptes pa)) k ptes r

/-- The lines of core `k`'s L1. -/
def l1Lines (s : State) (k : Nat) : List Nat := (s.core k).l1.map (·.1)
/-- Core `k` pushes every line of a list. -/
def pushLines (s : State) (k : Nat) : List Nat → State
  | [] => s
  | l :: r => pushLines (pushLine s k l) k r
/-- Core `k` drops every line of a list. -/
def dropLines (s : State) (k : Nat) : List Nat → State
  | [] => s
  | l :: r => dropLines (dropLine s k l) k r
/-- Every dirty line of core `k`'s L1 is pushed (R202, R345). -/
def pushAll (s : State) (k : Nat) : State := pushLines s k (l1Lines s k)
/-- The L1 lines of core `k` that hold dirty bytes. -/
def dirtyLines (s : State) (k : Nat) : List Nat := ((s.core k).l1.filter fun (_, x) => x.dirty != 0).map (·.1)

/-! ### Bits that have been written (R149, R273) -/

/-- The parts of a bit range that lie outside `n` bits from bit `a`. -/
def outside (a n : Nat) (p : Nat × Nat) : List (Nat × Nat) :=
  if p.1 + p.2 ≤ a ∨ a + n ≤ p.1 then [p]
  else (if p.1 < a then [(p.1, a - p.1)] else []) ++ (if a + n < p.1 + p.2 then [(a + n, p.1 + p.2 - (a + n))] else [])
/-- Bits that something writes are padding no more (R149). -/
def unpad (s : State) (l : List (Nat × Nat)) : State :=
  if s.padBits.isEmpty then s else { s with padBits := l.foldl (fun p (a, n) => p.flatMap (outside a n)) s.padBits }
/-- The layout unit has supplied the bits of a line as padding (R149). -/
def isPad (s : State) (bit : Nat) : Bool := s.padBits.any fun (a, n) => decide (a ≤ bit) && decide (bit < a + n)
/-- Lines whose every bit some bit ranges write; no range crosses a line. -/
def wholeLines (l : List (Nat × Nat)) : List Nat := ((l.map fun (b, _) => b / 1024).eraseDups).filter fun x =>
  decide (1024 ≤ ((l.filter fun (b, _) => b / 1024 == x).map (·.2)).sum)
/-- Bit ranges have been written: the lines that they fill have good codes again (R273), and their bits are padding no more (R149). -/
def written (s : State) (l : List (Nat × Nat)) : State :=
  let s1 := unpad s l
  if s1.homes.dataErr.isEmpty then s1 else (wholeLines l).foldl cleanLine s1
/-- Write a number of `n` bytes where they stand, padding or not (R149). -/
def putMem (s : State) (pa n x : Nat) : State := unpad (s.writeMem pa n x) [(8 * pa, 8 * n)]
/-- The bytes of a number of `n` bytes, with their addresses. -/
def bytesAt (pa n x : Nat) : List (Nat × Byte) := (natToBytes n x).zipIdx.map fun (b, i) => (pa + i, b)

/-! ### The management window (R254, R392) -/

/-- The byte lies in this module's management window. -/
def ownMgmt (s : State) (pa : Nat) : Bool := isMgmt s pa && paAgent pa / 4 == s.pos
/-- Offset of a byte in the management window (R254). -/
def mgmtOff (pa : Nat) : Nat := paOff pa - 0x190000000000
/-- A step of the L9's own writes bytes of the management window: the management processor takes them at the end of the step (R254; log
171). -/
def mgmtLater (s : State) (pa n x : Nat) : State := { s with mgmtIn := s.mgmtIn ++ bytesAt (mgmtOff pa) n x }

/-- A coherent-point atom step by agent `q` on the line of `pa` (R206): exclusive copies are pushed and dropped, `q`
obtains M, and the bytes at `pa` change.  What is never cached is read and written where it stands (R224), and a register of the
management window at the management processor (R254).  The old value and the state. -/
def cpAtomOld (s : State) (q pa : Nat) (e : W64) (n : Nat) (f : Nat → Nat) : Nat × State :=
  if ownMgmt s pa then (registerRead s (mgmtOff pa) n, mgmtLater s pa n (f (registerRead s (mgmtOff pa) n)))
  else
    let s1 := if Pte.home e == 1 || !tagged s pa then homeAccess s q (pa / 128) true (bytesAt pa n (f (s.readMem pa n)))
      else obtainPinned (reclaimAll s (pa / 128)) q (pa / 128) e
    let old := s1.readMem pa n
    (old, putMem s1 pa n (f old))
/-- A coherent-point atom step, for its effect alone. -/
def cpAtom (s : State) (q pa : Nat) (e : W64) (n : Nat) (f : Nat → Nat) : State := (cpAtomOld s q pa e n f).2

/-- The home agent of an address acts (R206): hub, walkers and counters that the L9 advances.  A line that its home does not serve is
reported, for no context waits for it (R223, R393), and a heap line stays as it is: its RdX is refused (R225; log 174). -/
def homeAtom (s : State) (pa : Nat) (e : W64) (n : Nat) (f : Nat → Nat) : State :=
  if refused s (paAgent pa) pa e true then logNoContext s (pa / 128) 0
  else if inHeap s pa then s
  else cpAtom s (paAgent pa) pa e n f
/-- What stops a coherent-point atom step that a bead has asked for: its home does not serve the line, or its data is bad (R223,
R273). -/
def atomFault (s : State) (q pa : Nat) (e : W64) : Option TrapCode :=
  if refused s q pa e true then some .mchk else if s.homes.dataErr.contains (pa / 128) then some .soft else none

/-! ### Traffic of the hub (R7) -/

/-- The lines of `n` bytes at a physical address. -/
def linesOf (pa n : Nat) : List Nat :=
  if n = 0 then [] else (List.range ((pa + n - 1) / 128 - pa / 128 + 1)).map (pa / 128 + ·)
/-- The hub reads or writes lines of a page with leaf `e` on behalf of the agent that owns them (R7): it obtains each for reading, or in M
to write, but for what is never cached, which it reads or writes where it stands (R224).  A line that its home does not serve is reported,
and no context waits for it (R223, R393); a heap line is not written, for its RdX is refused (R225; log 174). -/
def hubObtain (own : Bool) (e : W64) (s : State) (line : Nat) : State :=
  let q := paAgent (line * 128)
  if refused s q (line * 128) e own then logNoContext s line 0
  else if Pte.home e == 1 || !tagged s (line * 128) then homeAccess s q line true []
  else if own then obtainPinned s q line e
  else obtainShared s q line e
/-- The home serves every line of a range of a page with leaf `e` to the agent that owns it, and none that is to be written lies in the
heap (R7, R223, R225). -/
def hubServed (s : State) (own : Bool) (e : W64) (pa n : Nat) : Bool :=
  (linesOf pa n).all fun l => !refused s (paAgent (l * 128)) (l * 128) e own && !(own && inHeap s (l * 128))
/-- The hub obtains the lines of a range. -/
def hubLines (s : State) (own : Bool) (e : W64) (pa n : Nat) : State := (linesOf pa n).foldl (hubObtain own e) s
/-- The hub writes a number of `n` bytes (R7): to the management window as the management processor takes them (R254), and elsewhere where
every line is served. -/
def hubWrite (s : State) (e : W64) (pa n x : Nat) : State :=
  if ownMgmt s pa then mgmtLater s pa n x
  else
    let s1 := hubLines s true e pa n
    if hubServed s true e pa n then putMem s1 pa n x else s1
/-- The hub zeroes `n` bytes (R7). -/
def hubClear (s : State) (e : W64) (pa n : Nat) : State :=
  if ownMgmt s pa then mgmtLater s pa n 0
  else
    let s1 := hubLines s true e pa n
    if hubServed s true e pa n then unpad { s1 with mem := Memory.clear s1.mem pa n } [(8 * pa, 8 * n)] else s1

/-! ### Walkers (R266) -/

/-- A walker of agent `q` reads an entry's line at the coherent point, never through an L1 (R266): the agent obtains it for reading.  What it
meets at a line that its home does not serve stops the walk (`tableFault`). -/
def walkerRead (q : Nat) (s : State) (line : Nat) : State :=
  if refused s q (line * 128) 0 false then s
  else if tagged s (line * 128) then obtainS s q line
  else homeAccess s q line true []
/-- The hub walks the page table of job `j`, for the agent that owns each line of it (R7, R266). -/
def hubWalk (s : State) (j va : Nat) : State :=
  (walkLines s j va).foldl (fun s line => walkerRead (paAgent (line * 128)) s line) s

end Sys2Proof.Machine
end

