-- ==== Sys2Proof/Machine/Ops.lean ====
section
/-! DEFINITION. Operations that many steps share: records in memory,
queues, saving and restoring a bead, taking a trap (spec 20 R336 to R344) and returning from one (21 R357). -/
namespace Sys2Proof.Machine

/-! ### Records in memory, read and written by the L9 itself at the coherent point -/

/-- The parts of `n` bytes at a virtual address that lie in one 64 KiB granule each: offset, address and number of bytes. -/
def granulesGo : Nat → Nat → Nat → Nat → List (Nat × Nat × Nat)
  | 0, _, _, _ => []
  | fuel + 1, off, va, n =>
    if n = 0 then []
    else
      let k := min n (2 ^ 16 - va % 2 ^ 16)
      (off, va, k) :: granulesGo fuel (off + k) (va + k) (n - k)
/-- The parts of `n` bytes at a virtual address that lie in one 64 KiB granule each. -/
def granules (va n : Nat) : List (Nat × Nat × Nat) := granulesGo (n / 2 ^ 16 + 2) 0 va n
/-- What a walk of the hub meets at a line of a page table is reported, for no context waits for it (R223, R273, R393). -/
def logWalk (s : State) (j va : Nat) : State := match walkFault s j va with
  | some (_, line) => logNoContext s line 0
  | none => s

/-- Read `n` bytes of job `j` within one granule for the hub (R7), from the management window its registers (R254; log 171): bytes that are not
mapped, or that their home does not serve, read as `kept` (R223; log 147). -/
def vReadPart (s : State) (j va n kept : Nat) : Nat := match translateHub s j va with
  | some (pa, e) =>
    if ownMgmt s pa then registerRead s (mgmtOff pa) n
    else if hubServed s false e pa n then s.readMem pa n else kept
  | none => kept
/-- Read `n` bytes of job `j` for the hub (R7), where bytes that cannot be read are those of `kept` (log 147). -/
def vReadOr (s : State) (j va n kept : Nat) : Nat :=
  ((granules va n).map fun (o, a, k) => vReadPart s j a k (kept / 2 ^ (8 * o) % 2 ^ (8 * k)) * 2 ^ (8 * o)).sum
/-- Read `n` bytes of job `j` for the hub (R7); bytes that cannot be read are zero (log 147). -/
def vRead (s : State) (j va n : Nat) : Nat := vReadOr s j va n 0
/-- The hub walks the page table for `n` bytes of job `j` and acts on them, granule by granule (R266); an address that is not mapped is left
alone. -/
def vEach (f : State → W64 → Nat → Nat → Nat → State) (s : State) (j va n : Nat) : State :=
  (granules va n).foldl (fun s (o, a, k) => match translateHub s j a with
    | some (pa, e) => f (hubWalk s j a) e pa k o
    | none => logWalk (hubWalk s j a) j a) s
/-- One atom step of the hub on a number of job `j` within one granule (R7, R206, R266). -/
def vAtomStep (s : State) (j va n : Nat) (f : Nat → Nat) : State := match translateHub s j va with
  | some (pa, e) => homeAtom (hubWalk s j va) pa e n f
  | none => logWalk (hubWalk s j va) j va
/-- Write an `n`-byte number of job `j` for the hub (R7). -/
def vWrite (s : State) (j va n x : Nat) : State := vEach (fun s e pa k o => hubWrite s e pa k (x / 2 ^ (8 * o))) s j va n
/-- The hub reads `n` bytes of job `j` for their effect on the lines (R7). -/
def vSee (s : State) (j va n : Nat) : State := vEach (fun s e pa k _ => hubLines s false e pa k) s j va n
/-- A word is mapped for job `j`, and the L9 may write it on the job's behalf (R295, R350). -/
def vWritable (s : State) (j va : Nat) : Bool := match translateHub s j va with
  | some (pa, e) => !hubWriteBad s pa e && hubServed s true e pa 8
  | none => false
/-- Zero `n` bytes of job `j`. -/
def vClear (s : State) (j va n : Nat) : State := vEach (fun s e pa k _ => hubClear s e pa k) s j va n
/-- Write a number of `n` bytes unless it is zero; the place has been cleared. -/
def vPut (s : State) (j va n x : Nat) : State := if x = 0 then s else vWrite s j va n x

/-- Word `i` of a bead record (R313). -/
def beadWord (s : State) (j va i : Nat) : Nat := vRead s j (va + 8 * i) 8
/-- Write word `i` of a bead record. -/
def setBeadWord (s : State) (j va i x : Nat) : State := vWrite s j (va + 8 * i) 8 x
/-- STATE of a bead record. -/
def beadState (s : State) (j va : Nat) : Nat := bitsOf (beadWord s j va 1) 60 4
/-- Write STATE. -/
def setBeadState (s : State) (j va st : Nat) : State :=
  setBeadWord s j va 1 (putBits (beadWord s j va 1) 60 4 st)
/-- WOP of a bead record. -/
def beadWop (s : State) (j va : Nat) : Nat := bitsOf (beadWord s j va 5) 0 3
/-- Write WOP. -/
def setBeadWop (s : State) (j va op : Nat) : State := setBeadWord s j va 5 (putBits (beadWord s j va 5) 0 3 op)
/-- QUEUE of a bead record. -/
def beadQueue (s : State) (j va : Nat) : Nat := bitsOf (beadWord s j va 1) 32 13
/-- SAVE of a bead record. -/
def beadSave (s : State) (j va : Nat) : Nat := beadWord s j va 2

/-- Key of a channel of a job. -/
def chanKey (j ch : Nat) : Nat := j * 4096 + ch
/-- The virtual address of a channel's entry (R380). -/
def chanVa (s : State) (j ch : Nat) : Nat := (s.job j).chtab.toNat / 2 ^ 16 * 2 ^ 16 + 64 * ch

/-! ### Queues (R327 to R329) -/

/-- A queue descriptor. -/
def queue (s : State) (q : Nat) : Queue := s.hub.queues.get q Queue.reset
/-- Change a queue descriptor. -/
def modQueue (s : State) (q : Nat) (f : Queue → Queue) : State :=
  s.modHub fun h => { h with queues := h.queues.set q (f (queue s q)) }
/-- EN of a queue. -/
def Queue.en (q : Queue) : Bool := q.word24.getLsbD 59
/-- JOB of a queue. -/
def Queue.job (q : Queue) : Nat := (q.word24.extractLsb' 32 16).toNat
/-- RANK of a queue. -/
def Queue.rank (q : Queue) : Nat := (q.word24.extractLsb' 60 4).toNat

/-- A bead joins the tail of its queue (R317). -/
def enqueue (s : State) (q j va : Nat) : State :=
  let d := queue s q
  let s1 := setBeadWord s j va 6 0
  if d.head = 0 then modQueue s1 q fun d => { d with head := BitVec.ofNat 64 va, tail := BitVec.ofNat 64 va }
  else modQueue (setBeadWord s1 j d.tail.toNat 6 va) q fun d => { d with tail := BitVec.ofNat 64 va }

/-- A scheduling round that is due begins: every LEFT takes ALLOT (R328). -/
def startRound (s : State) : State :=
  if s.hub.timebase.toNat < s.hub.roundAt then s
  else s.modHub fun h => { h with
    roundAt := (h.timebase.toNat / Config.roundNs + 1) * Config.roundNs
    queues := List.map (fun (p : Nat × Queue) => (p.1, { p.2 with left := p.2.allot })) h.queues }
/-- A bead's context cycles are charged to its queue, in the round of the moment (R328). -/
def charge (s : State) (q n : Nat) : State :=
  modQueue (startRound s) q fun d => { d with left := BitVec.ofNat 32 (d.left.toNat - n) }

/-- The bead's energy share goes to its launch's energy word by one atom step (R375); the share is a free value (log 11). -/
def addEnergy (s : State) (b : Bead) : State :=
  let share := (Config.energyShare s.free).toNat
  let s1 := { s with free := s.free + 1 }
  match s1.hub.launches.get? b.launch with
  | none => s1
  | some l =>
    if l.ccnt = 0 then s1 else vAtomStep s1 l.job (l.ccnt + 8) 8 fun x => (x + share) % 2 ^ 64

/-! ### Trap codes and the trap record (R336, R340) -/

/-- The number of a trap code (R336). -/
def TrapCode.num : TrapCode → Nat
  | .illenc => 1 | .illsched => 2 | .xlate => 3 | .perm => 4 | .align => 5 | .arith => 6 | .abandon => 7
  | .hmprobe => 8 | .hmfull => 9 | .hmwrite => 10 | .priv => 11 | .soft => 12 | .watch => 13 | .brk => 14
  | .cancel => 15 | .mchk => 16

/-- A trap cause with nothing but a code, a slot and an address. -/
def Cause.plain (code : TrapCode) (slot : Option Slot) (pc cc addr : Nat) : Cause :=
  { code := code, slot := slot, pc := pc, cc := cc, addr := addr, load := none, aflags := 0, row := 0, log := 0, deferred := false,
    line := none }

/-- FFLAGS order of the SLOT field; 15 is none (R340). -/
def slotCode : Option Slot → Nat
  | some k => k.index
  | none => 15

/-- The 64 bytes of a trap record (R340). -/
def trapRecord (x : Cause) (resume launch index : Nat) : Nat :=
  x.pc % 2 ^ 64 + resume % 2 ^ 64 * 2 ^ 64 +
  (x.cc % 2 ^ 32 + x.aflags.toNat * 2 ^ 47 + slotCode x.slot * 2 ^ 52 + x.code.num * 2 ^ 56) * 2 ^ 128 +
  x.addr % 2 ^ 64 * 2 ^ 192 +
  (match x.load with
   | some l => l.pc % 2 ^ 64 * 2 ^ 256 + (x.row % 2 ^ 16 + l.code.num * 2 ^ 52 + l.slot.index * 2 ^ 60) * 2 ^ 320
   | none => x.row % 2 ^ 16 * 2 ^ 320) +
  (index % 2 ^ 32 + launch % 2 ^ 32 * 2 ^ 32) * 2 ^ 384 + x.log % 2 ^ 64 * 2 ^ 448

/-! ### The bead of a context, and its pending tile registers (R49, R166, R242) -/

/-- Job of the bead in context `c`. -/
def jobOf (s : State) (c : Nat) : Nat := match (s.ctx c).run with
  | some b => b.job
  | none => 0
/-- The bead in context `c` is a supervisor. -/
def supOf (s : State) (c : Nat) : Bool := match (s.ctx c).run with
  | some b => b.sup
  | none => false
/-- Life of the bead in context `c`. -/
def lifeOf (s : State) (c : Nat) : Nat := match (s.ctx c).run with
  | some b => b.life
  | none => 0

/-- The tile register that a withheld tile store, `append`, `tcmp` or `chsend` names (R242). -/
def storeTiles : Act → List Nat
  | .tileStore t _ => t.tiles
  | .append t .. => t.tiles
  | .chsend _ _ _ t => t.tiles
  | _ => []
/-- The tile register whose bytes an MX tile write has not formed (R166). -/
def unformedTile : Act → List Nat
  | .mxWrite tl false _ => [tl]
  | _ => []
/-- The released entries of the bead that runs in context `c`, in whichever slot it released them (R197). -/
def ownQueue (s : State) (c : Nat) : List Entry := s.ctxs.flatMap fun (_, x) => x.storeQ.filter fun e => e.life == lifeOf s c
/-- The released entries of a context: those of its slot (R196), and those that its bead has left in another slot. -/
def slotQueue (s : State) (c : Nat) : List Entry :=
  (s.ctx c).storeQ ++ (s.ctxs.filter fun (d, _) => d != c).flatMap fun (_, x) => x.storeQ.filter fun e => e.life == lifeOf s c

/-- A tile register is pending (R49). -/
def isPending (s : State) (c n : Nat) : Bool :=
  s.transfers.any (fun t => t.life == lifeOf s c && t.tiles.contains n) ||
  (ownQueue s c).any (fun e => (storeTiles e.act).contains n || (unformedTile e.act).contains n) ||
  (s.ctx c).withheld.any (fun e => (unformedTile e.act).contains n)

/-! ### Freezes and drift records (R48, R368 to R370) -/

/-- Byte 21 of a freeze's record (R369). -/
def FreezeCause.num : FreezeCause → Nat
  | .lateData => 1 | .registerMiss => 2 | .pendingTile => 3 | .lostMerge => 4 | .awaitedHallmark => 5
  | .recordOrPhase => 6 | .otherPhase => 7 | .preempted => 0

/-- The 32 bytes of a drift record (R369). -/
def driftImage (s : State) (c pc cc value kind cause k : Nat) : Nat :=
  pc % 2 ^ 64 + cc % 2 ^ 64 * 2 ^ 64 + value % 2 ^ 32 * 2 ^ 128 + kind * 2 ^ 160 + cause * 2 ^ 168 +
  (slotNo c * 128 + coreNo (coreOf c)) * 2 ^ 176 + agentOf s c * 2 ^ 184 + k % 2 ^ 64 * 2 ^ 192

/-- Where bytes of the drift ring stand, unless writing them would fault (R368): the checks of R227, and a line that its home does not serve or
whose data is bad (R223, R273). -/
def ringPlace (s : State) (c : Nat) (b : Bead) (va n : Nat) : Option (Nat × W64) :=
  match checkRange s (coreOf c) b.job b.sup .store va n with
  | .inl _ => none
  | .inr f =>
    let pa := framePa f va
    let e := frameLeaf f va
    if (atomFault s (agentOf s c) pa e).isSome then none else some (pa, e)

/-- Append a record to the drift ring of context `c`'s job; a write that would fault is lost and logged (R368). -/
def driftRecord (s : State) (c : Nat) (b : Bead) (pc cc value kind cause : Nat) : State :=
  let ring := (s.job b.job).mkring.toNat
  let base := ring / 4096 * 4096
  let n := 2 ^ (bitsOf ring 8 4 + 4)
  if base = 0 then s
  else
    let lost := logFault s (logAt s c { kind := 0x0D, first := base, second := pc })
    match ringPlace s c b base 8 with
    | none => lost
    | some (w, e) =>
      let (k, s1) := cpAtomOld s (agentOf s c) w e 8 (fun x => (x + 1) % 2 ^ 64)
      let va := base + 32 + 32 * (k % n)
      match ringPlace s c b va 32 with
      | none => lost
      | some (pa, g) => cpAtom s1 (agentOf s c) pa g 32 (fun _ => driftImage s c pc cc value kind cause k)

/-- Core cycles of a stretch of nanoseconds at the operating point (R401). -/
def coreCycles (s : State) (ns : Nat) : Nat := ns * s.mgmt.point / 10

/-- A freeze of a context ends after `n` core cycles (R370, R373): `tally` counts them, and a record is written if trace was armed when it
began, where `record` lets one be. -/
def thaw (tally : State → Nat → Nat → State) (record : Bool) (s : State) (c : Nat) : State :=
  let x := s.ctx c
  match x.freeze, x.run with
  | some (why, start, armed), some b =>
    let n := coreCycles s (s.hub.timebase.toNat - start)
    let s1 := tally (s.modCtx c fun x => { x with freeze := none }) b.life n
    if armed && record then driftRecord s1 c b x.pc x.arch.cc (sat (2 ^ 32 - 1) n) 2 why.num else s1
  | _, _ => s
/-- A freeze ends and the context goes on (R370, R373): it is counted at the context cycle at which it ends. -/
def endFreeze (s : State) (c : Nat) : State := thaw (fun s life n => countFrom s life (s.ctx c).arch.cc evFrozen n) true s c
/-- A trap ends the freeze of its context, which is counted at the cycle where it stands (R373). -/
def trapFreeze (s : State) (c : Nat) : State := thaw (fun s _ n => count s c evFrozen n) true s c
/-- A preemption ends the freeze of its context, and writes no record (R370). -/
def leaveFreeze (s : State) (c : Nat) : State := thaw (fun s _ n => count s c evFrozen n) false s c

/-! ### Control registers as they are held (R4) -/

/-- The bits of a control register that are not reserved (R4, R111, R113, R125, R240, R285, R304, R306, R339, R362, R365, R367, R380). -/
def controlBits (n : Nat) : W64 := match n with
  | 0x001 => 0x1F
  | 0x002 => 0x1F07
  | 0x003 => 3
  | 0x004 => 0xFF03
  | 0x006 => 1
  | 0x008 => 0xFFFFFFFFFFFFFF80
  | 0x00A => 0xFFFFFFFFFFFFFFF8
  | 0x040 => 0xFFFFFF
  | 0x041 => 0xFFFF
  | 0x080 => 0xFFFFFFFFFFFF0000
  | 0x081 => 0xFFFFFFFFFFFFFFC0
  | 0x082 => 0xFFFFFFFF00000001
  | 0x085 => 0xFFFFFFFFFFFFFFF8
  | 0x086 => 0xFFFFFFFFFFFFFF00
  | 0x087 => 0xFFFFFFFF
  | 0x088 => 0xFFFFFFFFFFFFFFF8
  | 0x089 => 0xFFFFFFFFFFFF0FFF
  | n => if 0x048 ≤ n ∧ n ≤ 0x04F then 0xFF else if 0x050 ≤ n ∧ n ≤ 0x057 then 0xFFFFFFFFFFFF else BitVec.allOnes 64
/-- FMODE after a write: a code that is no mode leaves RM unchanged (R126). -/
def writeFmode (old v : W64) : W64 :=
  let rm := v.extractLsb' 0 3
  (v &&& 0x1F00) ||| (if rm = 0 || decide (5 ≤ rm.toNat) then old &&& 7 else rm.zeroExtend 64)

/-! ### Save area (R341) -/

/-- The port code of a landing's destination, for the write-timing buffer's image (R341). -/
def Dest.code : Dest → Nat
  | .s n => n.toNat
  | .v n => 0x40 + n.toNat
  | .p n => 0x80 + n.toNat
  | .iq => 0xB0 | .fq => 0xB1 | .aq => 0xB2 | .bq => 0xB3 | .xq => 0xB4
  | .creg _ => 0xE3
  | .flagsOnly => 0xE0

/-- The destination of a port code in a write-timing buffer's image (R341); a control register's number stands elsewhere. -/
def Dest.ofCode (old : Dest) (n : Nat) : Dest :=
  if n < 0x40 then .s (BitVec.ofNat 6 n)
  else if n < 0x80 then .v (BitVec.ofNat 6 n)
  else if n < 0x90 then .p (BitVec.ofNat 4 n)
  else match n with
    | 0xB0 => .iq
    | 0xB1 => .fq
    | 0xB2 => .aq
    | 0xB3 => .bq
    | 0xB4 => .xq
    | _ => old

/-- Marks of a tile register in its image (log 13): defined, abandoned, pending, and the abandon record's slot and code. -/
def tileMarks (pending : Bool) (t : TileReg) : Nat :=
  (if t.defined then 1 else 0) + (if pending then 4 else 0) + (match t.abandoned with
    | some r => 2 + r.slot.index * 16 + (r.code.num - 1) * 256
    | none => 0)
/-- The 48 bytes of a tile register's image (R341). -/
def tileImage (pending : Bool) (t : TileReg) : Nat :=
  t.image.toNat + t.base.toNat * 2 ^ 128 + tileMarks pending t * 2 ^ 192 + (match t.abandoned with
    | some r => r.pc % 2 ^ 64 * 2 ^ 256 + r.addr % 2 ^ 64 * 2 ^ 320
    | none => 0)
/-- The slot of an index. -/
def slotAt (n : Nat) : Slot := ([.s, .va, .vb, .x, .mx, .ld, .st, .tm, .sy] : List Slot).getD n .s
/-- The trap code of a number. -/
def trapCodeAt (n : Nat) : TrapCode :=
  ([.illenc, .illsched, .xlate, .perm, .align, .arith, .abandon, .hmprobe, .hmfull, .hmwrite, .priv, .soft, .watch, .brk, .cancel,
    .mchk] : List TrapCode).getD (n - 1) .xlate
/-- The tile register of an image. -/
def tileOfImage (x : Nat) : TileReg :=
  let m := bitsOf x 192 64
  { defined := m % 2 == 1, image := BitVec.ofNat 128 x, base := BitVec.ofNat 64 (x / 2 ^ 128)
    abandoned := if bitsOf m 1 1 = 1 then
        some { pc := bitsOf x 256 64, slot := slotAt (bitsOf m 4 4), code := trapCodeAt (bitsOf m 8 4 + 1), addr := bitsOf x 320 64 }
      else none }

/-- The 16 bytes of a loop-stack entry. -/
def loopImage (l : LoopEntry) : Nat := l.start % 2 ^ 64 + l.remaining % 2 ^ 64 * 2 ^ 64
/-- The pending transfer target; bundles lie on multiples of 64, so that bit 0 says that one is pending (log 13). -/
def targetImage : Option Nat → Nat
  | some t => t % 2 ^ 64 + 1
  | none => 0
/-- The 160 bytes of an entry of the write-timing buffer at context cycle `cc` (R341). -/
def landingImage (cc : Nat) (l : Landing) : Nat :=
  l.value.toNat + l.dest.code * 2 ^ 1024 + 2 ^ 1032 + (l.due - cc) % 2 ^ 32 * 2 ^ 1056

/-- The numbers of an image with their offsets and lengths (R341).  Where R341 lists fields without offsets, they follow
one another in the order listed (log 13); s0 and p0 stand with what reading them gives (R32). -/
def imageFields (pending : Nat → Bool) (a : Arch) : List (Nat × Nat × Nat) :=
  [(0, 8, a.cc)] ++
  (a.loops.zipIdx.map fun (l, i) => (8 + 16 * i, 16, loopImage l)) ++
  [(72, 8, targetImage a.target),
   (80, 8, a.fflags.toNat), (88, 8, a.fmode.toNat), (96, 8, a.cctl.toNat), (104, 8, a.xpctl.toNat),
   (112, 8, a.rqctl.toNat), (120, 8, a.rqseed.toNat), (128, 8, a.rqaddr.toNat), (136, 8, a.rqpos.toNat),
   (144, 8, a.tcbase.toNat), (152, 8, a.iq.toNat), (160, 8, a.fq.toNat)] ++
  (a.s.toList.zipIdx.map fun (x, i) => (0x200 + 8 * i, 8, if i = 0 then 0 else x.toNat)) ++
  (a.p.toList.zipIdx.map fun (x, i) => (0x400 + 16 * i, 16, if i = 0 then 2 ^ 128 - 1 else x.toNat)) ++
  [(0x500, 128, a.aq.toNat), (0x580, 128, a.bq.toNat), (0x600, 128, a.xq.toNat)] ++
  (a.tiles.toList.zipIdx.map fun (t, i) => (0x680 + 48 * i, 48, tileImage (pending i) t)) ++
  (a.pattern.toList.zipIdx.map fun (x, i) => (0x1000 + 32 * i, 32, x.toNat)) ++
  (a.v.toList.zipIdx.map fun (x, i) => (0x1800 + 128 * i, 128, x.toNat)) ++
  ((a.wtb.take 192).zipIdx.map fun (l, i) => (0x3800 + 160 * i, 160, landingImage a.cc l))

/-- Write an image (R341). -/
def writeImage (s : State) (j va : Nat) (pending : Nat → Bool) (a : Arch) : State :=
  (imageFields pending a).foldl (fun s (off, n, x) => vPut s j (va + off) n x) (vClear s j va 0xC000)

/-- A number at an offset of a bead's save area; bytes that cannot be read are what the L9 keeps of them. -/
def savedNumber (s : State) (b : Bead) (off n kept : Nat) : Nat := vReadOr s b.job (b.save + off) n kept
/-- Read the image at offset `base` of a save area, but for the registers of R50 (R341); reserved bits of a control register are zero
whatever software wrote there (R4, R338).  What the layout gives no place stays as `k` has it (log 13). -/
def readImage (s : State) (b : Bead) (base : Nat) (k : Arch) : Arch :=
  let w (off n kept : Nat) : Nat := savedNumber s b (base + off) n kept
  let word (off : Nat) (kept : W64) : W64 := BitVec.ofNat 64 (w off 8 kept.toNat)
  let creg (off n : Nat) (kept : W64) : W64 := word off kept &&& controlBits n
  let latch (off : Nat) (kept : VReg) : VReg := BitVec.ofNat 1024 (w off 128 kept.toNat)
  let cc := w 0 8 k.cc
  let target := w 72 8 (targetImage k.target)
  { k with
    cc := cc
    loops := (List.range 4).filterMap fun i =>
      let x := w (8 + 16 * i) 16 (match k.loops[i]? with
        | some l => loopImage l
        | none => 0)
      if x / 2 ^ 64 = 0 then none else some { start := x % 2 ^ 64, remaining := x / 2 ^ 64 }
    target := if target % 2 = 1 then some (target - 1) else none
    fflags := creg 80 0x001 k.fflags, fmode := writeFmode k.fmode (word 88 k.fmode), cctl := creg 96 0x003 k.cctl
    xpctl := creg 104 0x004 k.xpctl, rqctl := creg 112 0x006 k.rqctl, rqseed := word 120 k.rqseed
    rqaddr := creg 128 0x008 k.rqaddr, rqpos := word 136 k.rqpos, tcbase := creg 144 0x00A k.tcbase, iq := word 152 k.iq, fq := word 160 k.fq
    aq := latch 0x500 k.aq, bq := latch 0x580 k.bq, xq := latch 0x600 k.xq
    tiles := Vector.ofFn fun i => tileOfImage (w (0x680 + 48 * i.val) 48 (tileImage false k.tiles[i]))
    pattern := Vector.ofFn fun i => BitVec.ofNat 256 (w (0x1000 + 32 * i.val) 32 (k.pattern[i]).toNat)
    wtb := k.wtb.zipIdx.map fun (l, i) =>
      if 192 ≤ i then l
      else
        let x := w (0x3800 + 160 * i) 160 (landingImage k.cc l)
        { l with
          value := BitVec.ofNat 1024 x, dest := Dest.ofCode l.dest (bitsOf x 1024 8), due := cc + bitsOf x 1056 32 } }

/-- The counter registers and the stall cycles owed, in order (R341). -/
def counterWords (x : Ctx) : List Nat :=
  [x.pmctl.toNat, x.pmlock.toNat] ++ x.pmsel.toList.map (·.toNat) ++ x.pmcnt.toList.map (·.toNat) ++ [x.owed.getD 0]
/-- Write the counter registers and the stall cycles owed (R341). -/
def writeCounters (s : State) (j va : Nat) (x : Ctx) : State :=
  ((counterWords x).zipIdx).foldl (fun s (w, i) => vPut s j (va + 0x40 + 8 * i) 8 w) (vClear s j (va + 0x40) 960)

/-- The context owns a half of its core's array (R161). -/
def ownsLo (a : MxArray) (n : Nat) : Bool := a.lo == some (n == 1)
/-- The context owns the upper half. -/
def ownsHi (a : MxArray) (n : Nat) : Bool := a.hi == some (n == 1)
/-- The context owns some half. -/
def ownsArray (s : State) (c : Nat) : Bool :=
  let a := (s.core (coreOf c)).arr
  ownsLo a (slotNo c) || ownsHi a (slotNo c)

/-- Bank `b` lies in a half that the context owns (R161, R162). -/
def ownsBank (a : MxArray) (n b : Nat) : Bool := if b < 4 then ownsLo a n else ownsHi a n
/-- Accumulator row `r` lies in a half that the context owns. -/
def ownsRow (a : MxArray) (n r : Nat) : Bool := if r < 128 then ownsLo a n else r < 256 && ownsHi a n

/-- Offset of the current image (R341). -/
def currentImage : Nat := 0x400
/-- Offset of the shadow image (R341). -/
def shadowImage : Nat := 0xC400
/-- Offset of the withhold buffer (R341). -/
def withholdImage : Nat := 0x18400
/-- Offset of the array state (R341). -/
def arrayImage : Nat := 0x24400

/-- A block of at most 1024 bytes of a save area whose bytes the layout does not describe is written: they are free values (R341; log
13). -/
def putFree (s : State) (j va n : Nat) : State :=
  vWrite { s with free := s.free + 1 } j va n ((Config.savedBlock s.free).toNat % 2 ^ (8 * n))
/-- Undescribed bytes, in blocks of 1024. -/
def putFreeBlocks (s : State) (j va n : Nat) : State :=
  (List.range (n / 1024)).foldl (fun s i => putFree s j (va + 1024 * i) 1024) s
/-- Write the withhold buffer: 192 bytes for each entry, oldest first (R341). -/
def writeWithheld (s : State) (j va : Nat) (l : List Entry) : State :=
  (List.range l.length).foldl (fun s i => putFree s j (va + 192 * i) 192) (vClear s j va 0xC000)
/-- Write the accumulator rows of a table that context number `n` owns (R341). -/
def writeRows (s : State) (j va n : Nat) (a : MxArray) (t : Table AccRow) : State :=
  (List.range 256).foldl (fun s r =>
    if ownsRow a n r then vWrite s j (va + 2048 * r) 2048 (t.get r AccRow.clear).elems.toNat else s) s
/-- A bank's staging store: of each row the operand codes and then the exponents (R157, R341; log 13). -/
def writeStaging (s : State) (j va : Nat) (b : Bank) : State :=
  b.rows.zipIdx.foldl (fun s (r, i) =>
    vPut (vPut s j (va + 1536 * i) 1024 r.codes.toNat) j (va + 1536 * i + 1024) 512 r.scales.toNat) (vClear s j va 98304)
/-- The integers and the exponents of a bank (R157, R341), which it holds once it is valid: 9 bits an integer, row after row, and 16 bits an
exponent; what a bank does not hold is written as free values (log 13). -/
def writeFormed (s : State) (j va : Nat) (b : Bank) : State :=
  let s1 := putFreeBlocks s j va 37888
  if b.desc.st != .valid then s1
  else
    let f := formBank b
    let s2 := vWrite s1 j va 36864 (unfields 9 (f.ints.flatten.map (encodeInt 9)))
    if b.desc.isInt == some true then s2 else vWrite s2 j (va + 36864) 1024 (unfields 16 (f.exps.map (encodeInt 16)))
/-- Write the parts of the array that context number `n` owns (R341). -/
def writeArray (s : State) (j va n : Nat) (a : MxArray) : State :=
  let s1 := putFreeBlocks s j va 4096
  let s2 := (List.range 8).foldl (fun s b =>
    if ownsBank a n b then
      let at_ := va + 0x1000 + 0x21400 * b
      let x := if h : b < 8 then a.banks[b] else Bank.reset
      writeStaging (writeFormed s j at_ x) j (at_ + 37888) x
    else s) s1
  putFreeBlocks (writeRows (writeRows s2 j (va + 0x10B000) n a a.acc) j (va + 0x18B000) n a a.accShadow) j (va + 0x20B000) 49152

/-- Key of a save area among the saved beads. -/
def saveKey (j save : Nat) : Nat := j * 2 ^ 64 + save

/-- The digit state with nothing open (R157). -/
def noDigits : Vector (Option DigitSeq) 4 := Vector.replicate 4 none
/-- Element `n` of a pair held per context. -/
def pairGet {α : Type} (v : Vector α 2) (n : Nat) : α := if n = 0 then v[0] else v[1]
/-- Set element `n` of a pair held per context. -/
def pairSet {α : Type} (v : Vector α 2) (n : Nat) (x : α) : Vector α 2 := if n = 0 then v.set 0 x else v.set 1 x

/-- The halves that context number `n` owns are emptied and become unowned, and its row buffer and digit state return to
their reset state (R164, R165). -/
def releaseHalves (a : MxArray) (n : Nat) : MxArray :=
  { banks := Vector.ofFn fun i => if ownsBank a n i then Bank.reset else a.banks[i]
    acc := a.acc.filter fun (r, _) => !ownsRow a n r
    accShadow := a.accShadow.filter fun (r, _) => !ownsRow a n r
    lo := if ownsLo a n then none else a.lo
    hi := if ownsHi a n then none else a.hi
    snapLo := if ownsLo a n then none else a.snapLo
    snapHi := if ownsHi a n then none else a.snapHi
    rowBuf := pairSet a.rowBuf n RowBuf.reset
    digits := pairSet a.digits n noDigits
    snapRowBuf := pairSet a.snapRowBuf n RowBuf.reset
    snapDigits := pairSet a.snapDigits n noDigits
    snapBanks := Vector.ofFn fun i => if ownsBank a n i then BankDesc.reset else a.snapBanks[i] }

/-- Saved halves of context number `m` come back into an array where they are unowned (R164); the row buffer and the digit state of the
bead become those of context number `n`, which is `m` wherever a half is owned (R316; log 151). -/
def restoreHalves (cur sv : MxArray) (m n : Nat) : MxArray :=
  { banks := Vector.ofFn fun i => if ownsBank sv m i then sv.banks[i] else cur.banks[i]
    acc := sv.acc.foldl (fun t (r, x) => if ownsRow sv m r then t.set r x else t) cur.acc
    accShadow := sv.accShadow.foldl (fun t (r, x) => if ownsRow sv m r then t.set r x else t) cur.accShadow
    lo := if ownsLo sv m then sv.lo else cur.lo
    hi := if ownsHi sv m then sv.hi else cur.hi
    snapLo := if ownsLo sv m then sv.snapLo else cur.snapLo
    snapHi := if ownsHi sv m then sv.snapHi else cur.snapHi
    rowBuf := pairSet cur.rowBuf n (pairGet sv.rowBuf m)
    digits := pairSet cur.digits n (pairGet sv.digits m)
    snapRowBuf := pairSet cur.snapRowBuf n (pairGet sv.snapRowBuf m)
    snapDigits := pairSet cur.snapDigits n (pairGet sv.snapDigits m)
    snapBanks := Vector.ofFn fun i => if ownsBank sv m i then sv.snapBanks[i] else cur.snapBanks[i] }

/-- The halves that the saved array names are unowned on a core (R164, R316). -/
def halvesFree (cur sv : MxArray) (n : Nat) : Bool :=
  (!ownsLo sv n || cur.lo == none) && (!ownsHi sv n || cur.hi == none)

/-- Withheld invalidations of context number `n` take effect on the banks that it owns (R163, R174). -/
def applyMbinv (a : MxArray) (n : Nat) : List Entry → MxArray
  | [] => a
  | e :: r => match e.act with
    | .mbinv b => applyMbinv { a with
        banks := Vector.ofFn fun i => if i.val = b && ownsBank a n b then Bank.reset else a.banks[i] } n r
    | _ => applyMbinv a n r

/-- The snapshot of a half goes: its owner's last checkpoint, or that of a context which has taken the half since, no longer covers it
(R163). -/
def dropSnap (a : MxArray) (lower : Bool) : MxArray :=
  let a1 : MxArray := if lower then { a with snapLo := none } else { a with snapHi := none }
  { a1 with
    accShadow := a1.accShadow.filter fun (r, _) => decide (r < 128) != lower
    snapBanks := Vector.ofFn fun i => if decide (i.val < 4) == lower then BankDesc.reset else a1.snapBanks[i] }
/-- Context number `n` keeps no snapshot of a half that it does not own. -/
def forgetSnaps (a : MxArray) (n : Nat) : MxArray :=
  let a1 := if a.snapLo == some (n == 1) && !ownsLo a n then dropSnap a true else a
  if a1.snapHi == some (n == 1) && !ownsHi a1 n then dropSnap a1 false else a1
/-- The snapshot of the array state that context number `n` owns (R163, steps 2 and 3). -/
def snapArray (a0 : MxArray) (n : Nat) : MxArray :=
  let a := forgetSnaps a0 n
  { a with
    accShadow := (a.accShadow.filter fun (r, _) => !ownsRow a n r) |> fun t =>
      a.acc.foldl (fun t (r, x) => if ownsRow a n r then t.set r x else t) t
    snapLo := if ownsLo a n then some (n == 1) else a.snapLo
    snapHi := if ownsHi a n then some (n == 1) else a.snapHi
    snapRowBuf := pairSet a.snapRowBuf n (pairGet a.rowBuf n)
    snapDigits := pairSet a.snapDigits n (pairGet a.digits n)
    snapBanks := Vector.ofFn fun i => if ownsBank a n i then (a.banks[i]).desc else a.snapBanks[i] }

/-- A trap restores the array state from the snapshot; a bank keeps the rows below its restored fill count (R163).  A half that its context
has taken since the checkpoint was empty there, and is empty again (log 46). -/
def unsnapArray (a : MxArray) (n : Nat) : MxArray :=
  { a with
    acc := (a.acc.filter fun (r, _) => !ownsRow a n r) |> fun t =>
      a.accShadow.foldl (fun t (r, x) => if ownsRow a n r then t.set r x else t) t
    rowBuf := pairSet a.rowBuf n (pairGet a.snapRowBuf n)
    digits := pairSet a.digits n (pairGet a.snapDigits n)
    banks := Vector.ofFn fun i =>
      if ownsBank a n i then { desc := a.snapBanks[i], rows := (a.banks[i]).rows.take (a.snapBanks[i]).fill }
      else a.banks[i] }

/-- Change the array of context `c`'s core. -/
def modArray (s : State) (c : Nat) (f : MxArray → MxArray) : State :=
  s.modCore (coreOf c) fun k => { k with arr := f k.arr }

/-- All registers whose images lazy restore fetches at their first read: port codes of s1 to s63, v0 to v63 and p1 to p15
(R50, R310). -/
def allRegisters : List Nat :=
  (List.range 63).map (· + 1) ++ (List.range 64).map (· + 0x40) ++ (List.range 15).map (· + 0x81)

/-- Offset and length of a register's image within an image (R341). -/
def registerImage (code : Nat) : Nat × Nat :=
  if code < 0x40 then (0x200 + 8 * code, 8)
  else if code < 0x80 then (0x1800 + 128 * (code - 0x40), 128)
  else (0x400 + 16 * (code - 0x80), 16)

/-- Set a register by port code. -/
def setRegister (a : Arch) (code x : Nat) : Arch :=
  if h : code < 64 then { a with s := a.s.set code (BitVec.ofNat 64 x) }
  else if h : code - 64 < 64 then { a with v := a.v.set (code - 64) (BitVec.ofNat 1024 x) }
  else if h : code - 128 < 16 then { a with p := a.p.set (code - 128) (BitVec.ofNat 128 x) }
  else a

/-- A register's image can be translated and read for the fetch (R223, R273, R342). -/
def canFetch (s : State) (b : Bead) (code : Nat) : Bool :=
  let (off, n) := registerImage code
  match translateHub s b.job (b.save + currentImage + off) with
  | some (pa, e) => hubServed s false e pa n && (linesOf pa n).all fun l => !s.homes.dataErr.contains l
  | none => false

/-- Fetch one register from the current image (R50, R310). -/
def fetchRegister (s : State) (c code : Nat) : State :=
  match (s.ctx c).run with
  | none => s
  | some b =>
    if (s.ctx c).unfetched.contains code then
      let (off, n) := registerImage code
      let x := vRead s b.job (b.save + currentImage + off) n
      (vSee s b.job (b.save + currentImage + off) n).modCtx c fun k => { k with arch := setRegister k.arch code x, unfetched := k.unfetched.filter (· != code) }
    else s

/-- Fetch every register that has not been fetched yet: a save writes the images of all of them. -/
def fetchAll (s : State) (c : Nat) : State := (s.ctx c).unfetched.foldl (fun s r => fetchRegister s c r) s

/-! ### Leaving a context (R310, R317) -/

/-- The registers of a context slot return to their idle values; its store queue stays (R197), and so do the reads into `_` that have
not taken place (R207). -/
def vacate (x : Ctx) : Ctx :=
  { Ctx.reset with
    storeQ := x.storeQ, reads := x.reads.filter fun r => r.uid.isNone, issued := x.issued, released := x.released, hostAddr := x.hostAddr, flush := x.flush,
    slotJob := x.slotJob }

/-- The context's state is written to the bead's save area and the slot is emptied (R310 step 3, R341); a freeze ends there (R370,
R373).  What the layout does not describe is kept beside the save area as well (log 13), and so is the bead's row buffer where it owns
no half (R165; log 151). -/
def saveBead (s : State) (c : Nat) (b : Bead) : State :=
  let s0 := fetchAll (leaveFreeze s c) c
  let x := s0.ctx c
  let n := slotNo c
  let arr := (s0.core (coreOf c)).arr
  let owned := ownsArray s0 c
  let pending := isPending s0 c
  let s1 := writeImage s0 b.job (b.save + currentImage) pending x.arch
  let s2 := writeImage s1 b.job (b.save + shadowImage) pending x.shadow
  let sw := writeWithheld (writeCounters s2 b.job b.save x) b.job (b.save + withholdImage) x.withheld
  let s3 := if owned then writeArray sw b.job (b.save + arrayImage) n arr else sw
  let sv : Saved :=
    { arch := x.arch, shadow := x.shadow, ckpt := x.ckpt, withheld := x.withheld, issued := x.issued, owed := x.owed,
      pendTraps := x.pendTraps, pmctl := x.pmctl, pmlock := x.pmlock, pmsel := x.pmsel, pmcnt := x.pmcnt, ckptUid := x.ckptUid,
      addr := b.addr, life := b.life, ctx := c, array := some arr, stopSkip := x.stopSkip }
  let s4 := s3.modHub fun h => { h with saved := h.saved.set (saveKey b.job b.save) sv }
  let s5 := modArray s4 c fun a => forgetSnaps (releaseHalves a n) n
  let w := beadWord s5 b.job b.addr 1
  let w1 := putBits (putBits w 58 1 (if owned then 1 else 0)) 57 1 (if owned then n else bitsOf w 57 1)
  let s6 := setBeadWord s5 b.job b.addr 1 w1
  let s7 := charge (addEnergy s6 b) b.queue x.spent
  s7.modCtx c vacate

/-- Write the PC and STATE of a bead that leaves its context. -/
def writeBack (s : State) (b : Bead) (pc st : Nat) : State :=
  setBeadState (setBeadWord s b.job b.addr 0 pc) b.job b.addr st

/-! ### Checkpoint (R332) -/

/-- Entries that a checkpoint moves to the store queue: all but the withheld invalidations (R196, R332). -/
def releasable (l : List Entry) : List Entry := l.filter fun e => match e.act with
  | .mbinv _ => false
  | _ => true

/-- The withheld entries in queue order with their release numbers. -/
def number (n : Nat) : List Entry → List Entry
  | [] => []
  | e :: r => { e with released := n } :: number (n + 1) r

/-- Step 1 of a checkpoint: the withheld invalidations of the context apply (R163, R332). -/
def invalidated (s : State) (c : Nat) : State := modArray s c fun a => applyMbinv a (slotNo c) (s.ctx c).withheld
/-- The checkpoint of context `c` at the bundle at `pc` (R332 steps 1 to 3): withheld invalidations apply, the shadow set is
copied with every register that lazy restore has still to fetch (R50), and the other withheld entries move to the store queue. -/
def checkpoint (s : State) (c pc : Nat) : State :=
  let x := s.ctx c
  let s1 := modArray (invalidated s c) c fun a => snapArray a (slotNo c)
  let out := releasable x.withheld
  let s2 := s1.modCtx c fun x => { x with
    ckpt := pc, ckptUid := s.uid, withheld := [],
    storeQ := x.storeQ ++ number x.released out, released := x.released + out.length,
    arch := { x.arch with wtb := x.arch.wtb.map fun l => { l with deadline := false } } }
  s2.modCtx c fun x => { x with shadow := ((fetchAll s2 c).ctx c).arch }

/-! ### Handlers and cancels -/

/-- Queue a cancel (R324). -/
def pushCancel (s : State) (t : CancelTarget) : State := s.modHub fun h => { h with cancels := h.cancels ++ [t] }
/-- Queue a launch or a handler launch (R319, R402). -/
def pushStart (s : State) (t : Start) : State := s.modHub fun h => { h with starts := h.starts ++ [t] }

/-- The launch of the handler instance whose record stands at an address (R402).  An instance that has issued `done` may be taken
again before its own launch completes, so the launches of completing beads are passed over (R197). -/
def handlerLaunch (s : State) (j va : Nat) : Option (Nat × Launch) := s.hub.launches.find? fun (k, l) =>
  l.beadJob == j && l.beads == va && !(s.hub.completing.any fun x => x.launch == k) && match l.kind with
    | .locket _ _ | .trap _ _ => true
    | _ => false
/-- The launch in which a bead counts: its handler launch, or the one that LAUNCH names. -/
def launchOf (s : State) (j va lid : Nat) : Nat := match handlerLaunch s j va with
  | some (k, _) => k
  | none => lid
/-- The bead is a handler started by a trap (R339). -/
def isTrapHandler (s : State) (j va : Nat) : Bool := match handlerLaunch s j va with
  | some (_, l) => match l.kind with
    | .trap _ _ => true
    | _ => false
  | none => false

/-- The template that a trap of a bead starts: TRAPH of its job, or SUPH for a supervisor (R338, R392). -/
def trapTemplate (s : State) (b : Bead) : Nat :=
  if b.sup then s.mgmt.suph.toNat / 64 * 64 else (s.job b.job).traph.toNat / 64 * 64

/-- Start the handler of a trap, or log the trap and cancel the trapped bead's launch, or a supervisor bead alone (R338 step 4,
R339, R392).  `launch` is the launch id that the handler runs with; 0 gives it one of its own (R291). -/
def startHandler (s0 : State) (c : Nat) (b : Bead) (x : Cause) (launch : Nat) : State :=
  let t := trapTemplate s0 b
  let s := if t = 0 then s0 else vSee s0 b.job t 64
  if t = 0 || !(queue s (beadQueue s b.job t)).en || isTrapHandler s b.job b.addr then
    pushCancel (logFault s (logAt s c
      { kind := 0x0A, first := b.addr, second := x.pc, detail := x.code.num, job := b.job, vf := (s.job b.job).vf }))
      (if b.launch = 0 || b.sup then .unit b.job b.addr else .launch (launchOf s b.job b.addr b.launch))
  else pushStart s (.handler b.job t (.trap b.addr b.save) none b.sup launch)

/-! ### Taking a trap (R338) -/

/-- Data of some entry of the shadow's landing part has not arrived (R310 step 2, R333). -/
def shadowWaits (s : State) (c : Nat) : Bool := (s.ctx c).shadow.wtb.any (·.waiting)

/-- Restore the shadow set and discard every withheld entry (R338 step 2). -/
def restoreShadow (s : State) (c : Nat) : State :=
  let s1 := modArray s c fun a => unsnapArray a (slotNo c)
  s1.modCtx c fun x => { x with
    arch := x.shadow, pc := x.ckpt, owed := some 0, withheld := [], unfetched := [], freeze := none, granted := false,
    reads := x.reads.filter fun r => match r.uid with
      | some u => x.shadow.wtb.any (·.uid == u)
      | none => true }

/-- Deliver a trap (R338): the bead goes back to its checkpoint with STATE 3 and WOP 0, its trap record is written, and a
handler starts. -/
def deliverTrap (s : State) (c : Nat) (b : Bead) (x : Cause) : State :=
  let s1 := restoreShadow (trapFreeze (countLanded s c) c) c
  let resume := (s1.ctx c).pc
  let s2 := s1.modCtx c fun k => { k with
    -- deferred hallmark traps outlive the report of another (R291, R337; log 14)
    pendTraps := k.pendTraps.filter fun y => y.deferred && y != x, preempt := none }
  let s3 := saveBead s2 c b
  let s4 := vWrite s3 b.job b.save 64 (trapRecord x resume b.launch b.index)
  let s5 := setBeadWop (writeBack s4 b resume 3) b.job b.addr 0
  startHandler s5 c b x 0

/-- A context that is preempted, or that a trap takes from its bead, is frozen until the data that it waits for has arrived (R48, R310 step
2). -/
def waitFrozen (s : State) (c : Nat) : State := s.modCtx c fun x =>
  { x with freeze := x.freeze.or (some (.preempted, s.hub.timebase.toNat, false)) }
/-- Take a trap in context `c` (R338): at once when the data of every landing-part entry of the shadow has arrived, and
otherwise once it has (R310 step 2); until then the context issues nothing. -/
def takeTrap (s : State) (c : Nat) (x : Cause) : State :=
  match (s.ctx c).run with
  | none => s
  | some b =>
    if shadowWaits s c then (waitFrozen s c).modCtx c fun k => { k with pendTraps := k.pendTraps ++ [x] }
    else deliverTrap s c b x

/-- Ranks of traps that fall due at one context cycle (R337). -/
def Cause.rank (x : Cause) : Nat := match x.code, x.deferred with
  | .mchk, _ => 0
  | .soft, _ => 1
  | .arith, _ => 2
  | .xlate, true => 3
  | .hmprobe, true => 4
  | .hmfull, true => 5
  | _, _ => 6

/-- The trap that is reported: the first of the lowest rank (R337). -/
def chooseTrap : List Cause → Option Cause
  | [] => none
  | x :: r => match chooseTrap r with
    | none => some x
    | some y => if y.rank < x.rank then some y else some x

/-! ### Returning from a trap (R357, R338) -/

/-- A bead that has trapped, or that stopped, becomes ready and joins the tail of its queue (R338, R372). -/
def makeReady (s : State) (j va : Nat) : State :=
  let s1 := setBeadWop (setBeadState s j va 1) j va 0
  enqueue s1 (beadQueue s1 j va) j va

/-- The three conditions on the bead that an `eret` names (R357). -/
def eretOk (s : State) (j : Nat) (sup : Bool) (va : Nat) : Bool :=
  beadState s j va == 3 && beadWop s j va == 0 &&
  bitsOf (vRead s j (beadSave s j va + 16) 8) 56 8 != 0 &&
  (sup || bitsOf (beadWord s j va 1) 16 16 == j)

/-- `eret` of context `c` performs: the bead at `va` resumes, or the attempt enters the fault log (R357, R393). -/
def returnFromTrap (s0 : State) (c j : Nat) (sup : Bool) (va pc : Nat) : State :=
  let s := vSee (vSee s0 j va 64) j (beadSave s0 j va) 64
  if eretOk s j sup va then makeReady s j va
  else logFault s (logAt s c (ofJob s j { kind := 0x0C, first := va, second := pc, detail := 0x41 }))

end Sys2Proof.Machine
end

