-- ==== Sys2Proof/Machine/Special.lean ====
section
/-! DEFINITION. Correctly rounded 2^a, log2 a, tanh a and the sigmoid (spec 05, R106), each from an interval of about 240 bits
around the exact value. -/
namespace Sys2Proof.Machine

/-- Bits of the fixed-point numbers of this file. -/
def fxBits : Nat := Config.seriesBits
/-- 1.0 in fixed point. -/
def fxOne : Nat := 2 ^ fxBits
/-- Bound of the accumulated error of a result, in last places. -/
def fxSlack : Nat := 2 ^ 20

/-- Terms 1/(k 2^k) for k from `k` on. -/
def ln2Go : Nat → Nat → Nat
  | 0, _ => 0
  | n + 1, k => fxOne / (k * 2 ^ k) + ln2Go n (k + 1)
/-- ln 2 in fixed point. -/
def ln2 : Nat := ln2Go 300 1

/-- Terms t^k/k! from the term `x` of number `k` on. -/
def expGo (t : Nat) : Nat → Nat → Nat → Nat
  | 0, _, _ => 0
  | n + 1, k, x => x + expGo t n (k + 1) (x * t / fxOne / (k + 1))
/-- 2 to the power `y`, for a fixed-point `y` from 0 to 1. -/
def pow2Fx (y : Nat) : Nat := expGo (y * ln2 / fxOne) 80 0 fxOne

/-- Terms z^(2k+1)/(2k+1), with `z2` the square of z. -/
def atanhGo (z2 : Nat) : Nat → Nat → Nat → Nat
  | 0, _, _ => 0
  | n + 1, k, x => x / (2 * k + 1) + atanhGo z2 n (k + 1) (x * z2 / fxOne)
/-- log2 of a fixed-point `g` from 1 to 2. -/
def log2Fx (g : Nat) : Nat :=
  let z := (g - fxOne) * fxOne / (g + fxOne)
  2 * atanhGo (z * z / fxOne) 100 0 z * fxOne / ln2

/-- Round a value that lies strictly between `lo` and `hi` times 2 to the `x` (R106). -/
def roundBetween (f : FFmt) (md : Rm) (neg : Bool) (lo hi : Nat) (x : Int) (key : Nat) : Nat × Flags :=
  let a := roundF f md neg lo x true
  let b := roundF f md neg (hi - 1) x true
  if a = b then a else if Config.roundsUp key then b else a

/-- Round a value within the slack of `v` times 2 to the `x`. -/
def roundNear (f : FFmt) (md : Rm) (neg : Bool) (v : Nat) (x : Int) (key : Nat) : Nat × Flags :=
  roundBetween f md neg (v - fxSlack) (v + fxSlack) x key

/-- A value just below 1. -/
def belowOne (f : FFmt) (md : Rm) (neg : Bool) (key : Nat) : Nat × Flags :=
  roundBetween f md neg (2 ^ 128 - 2 ^ 40) (2 ^ 128) (-128) key

/-- `m` times 2 to the `x` as a fixed-point number; exact for the operands of this file. -/
def toFx (m : Nat) (x : Int) : Nat := (m * 2 ^ (x + fxBits).toNat)

/-- Names an operand for a free rounding: function, mode, format and encoding. -/
def roundKey (fn : Nat) (f : FFmt) (md : Rm) (a : Nat) : Nat :=
  (((fn * 4 + (match md with | .rne => 0 | .rtz => 1 | .rdn => 2 | .rup => 3)) * 16 + f.e) * 32 + f.p) * 2 ^ 32 + a

/-- 2^a (R106). -/
def exp2F (f : FFmt) (md : Rm) (a : Nat) : Nat × Flags :=
  match decodeF f a with
  | .nan s => nanF f s
  | .inf n => if n then zeroF f false else infF f false
  | .fin n m x =>
    if m = 0 then (f.one, Flags.none)
    else if 12 ≤ x + Nat.log2 m then
      (if n then roundF f md false (2 ^ 64) (-4096) true else roundF f md false (2 ^ 64) 4096 true)
    else
      let t : Int := if n then -(toFx m x : Int) else toFx m x
      let k : Int := t / fxOne
      let y := (t - k * fxOne).toNat
      if y = 0 then roundF f md false 1 k false
      else roundNear f md false (pow2Fx y) (k - fxBits) (roundKey 0 f md a)

/-- log2 a (R106). -/
def log2F (f : FFmt) (md : Rm) (a : Nat) : Nat × Flags :=
  match decodeF f a with
  | .nan s => nanF f s
  | .inf n => if n then nanF f true else infF f false
  | .fin n m x =>
    if m = 0 then poleF f true
    else if n then nanF f true
    else
      let k : Int := x + Nat.log2 m
      let g := toFx m (-(Nat.log2 m : Int))
      if g = fxOne then (if k = 0 then zeroF f false else roundF f md (decide (k < 0)) k.natAbs 0 false)
      else
        let v : Int := k * fxOne + log2Fx g
        roundNear f md (decide (v < 0)) v.natAbs (-fxBits) (roundKey 1 f md a)

/-- e^-t for `t = m` times 2 to the `x`, below 2^11 and not 0: mantissa in fixed point from 1 to 2, and exponent. -/
def expNeg (m : Nat) (x : Int) : Nat × Int :=
  let y := toFx m x * fxOne / ln2
  let k := y / fxOne
  (pow2Fx (fxOne - y % fxOne), -(k : Int) - 1)

/-- tanh a (R106). -/
def tanhF (f : FFmt) (md : Rm) (a : Nat) : Nat × Flags :=
  match decodeF f a with
  | .nan s => nanF f s
  | .inf n => (f.signed n f.one, Flags.none)
  | .fin n m x =>
    let top := x + Nat.log2 m
    if m = 0 then zeroF f n
    else if 6 ≤ top then belowOne f md n (roundKey 2 f md a)
    else if top < -20 then
      let big := m * 2 ^ 64
      roundBetween f md n (big - big / 2 ^ 38 - 1) big (x - 64) (roundKey 2 f md a)
    else
      let (q, k) := expNeg m (x + 1)
      let e := q / 2 ^ k.natAbs
      roundNear f md n ((fxOne - e) * fxOne / (fxOne + e)) (-fxBits) (roundKey 2 f md a)

/-- 1/(1 + e^-a) (R106). -/
def sigmF (f : FFmt) (md : Rm) (a : Nat) : Nat × Flags :=
  match decodeF f a with
  | .nan s => nanF f s
  | .inf n => if n then zeroF f false else (f.one, Flags.none)
  | .fin n m x =>
    if m = 0 then (f.one - 2 ^ f.p, Flags.none)
    else if 11 ≤ x + Nat.log2 m then
      (if n then roundF f md false (2 ^ 64) (-4096) true else belowOne f md false (roundKey 3 f md a))
    else
      let (q, k) := expNeg m x
      let e := q / 2 ^ k.natAbs
      if n then roundNear f md false (q * fxOne / (fxOne + e)) (k - fxBits) (roundKey 3 f md a)
      else if 100 < k.natAbs then belowOne f md false (roundKey 3 f md a)
      else roundNear f md false (fxOne * fxOne / (fxOne + e)) (-fxBits) (roundKey 3 f md a)

end Sys2Proof.Machine
end

