-- ==== Sys2Proof/Machine/Operands.lean ====
section
/-! DEFINITION. Reading ports and latches, what an operation does at issue, landing results, and the issue of a bundle
(spec 03, R23 to R58; 20, R332; 04, R87 to R90). -/
namespace Sys2Proof.Machine

/-! ### Reading ports (R30 to R38) -/

/-- A scalar register; s0 reads zero (R32). -/
def sReg (a : Arch) (n : BitVec 6) : W64 := if n = 0 then 0 else a.s[n.toNat]'(by have := n.isLt; omega)
/-- A vector register. -/
def vReg (a : Arch) (n : BitVec 6) : VReg := a.v[n.toNat]'(by have := n.isLt; omega)
/-- A predicate register; p0 reads all ones (R32). -/
def pReg (a : Arch) (n : BitVec 4) : Pred :=
  if n = 0 then BitVec.allOnes 128 else a.p[n.toNat]'(by have := n.isLt; omega)
/-- A tile register. -/
def tReg (a : Arch) (n : BitVec 5) : TileReg := a.tiles[n.toNat]'(by have := n.isLt; omega)
/-- The value of a constant port (R30). -/
def constVal (k : BitVec 5) : Int := (k.toNat : Int) - 16

/-- A scalar operand: a register, bits [63:0] of a latch, a constant or the slot's immediate (R33, R34, R38). -/
def readScalar (a : Arch) (imm : W64) : Port → W64
  | .s n => sReg a n
  | .v n => (vReg a n).extractLsb' 0 64
  | .p n => (pReg a n).extractLsb' 0 64
  | .iq => a.iq
  | .fq => a.fq
  | .aq => a.aq.extractLsb' 0 64
  | .bq => a.bq.extractLsb' 0 64
  | .xq => a.xq.extractLsb' 0 64
  | .const k => BitVec.ofInt 64 (constVal k)
  | .imm => imm
  | .tl _ | .rq | .none => 0

/-- A vector operand that is a register or a latch. -/
def readVector (a : Arch) : Port → VReg
  | .v n => vReg a n
  | .aq => a.aq
  | .bq => a.bq
  | .xq => a.xq
  | .iq => a.iq.zeroExtend 1024
  | .fq => a.fq.zeroExtend 1024
  | .s n => (sReg a n).zeroExtend 1024
  | .p n => (pReg a n).zeroExtend 1024
  | _ => 0

/-- The enable of a scalar operation (R72). -/
def enabledS (a : Arch) (pred : BitVec 4) (neg : Bool) : Bool := (pReg a pred).getLsbD 0 != neg

/-- The register, predicate or latch that a source reads, by port code; s0, p0 and the other ports read none. -/
def readCodes (q : Port) : List Nat := match q with
  | .s n => if n = 0 then [] else [n.toNat]
  | .p n => if n = 0 then [] else [0x80 + n.toNat]
  | .v n => [0x40 + n.toNat]
  | .iq => [0xB0]
  | .fq => [0xB1]
  | .aq => [0xB2]
  | .bq => [0xB3]
  | .xq => [0xB4]
  | _ => []
/-- What an operation of sources `l` under predicate `p` reads (R15). -/
def reading (p : BitVec 4) (l : List Port) : List Nat := readCodes (.p p) ++ l.flatMap readCodes

/-- Where a destination port lands; s0, p0 and `_` discard (R32, R35). -/
def destOf : Port → Option Dest
  | .s n => if n = 0 then none else some (.s n)
  | .v n => some (.v n)
  | .p n => if n = 0 then none else some (.p n)
  | _ => none

/-! ### Operations -/

/-- A result that an operation sends to the write-timing buffer: destination, latency, value, the bits it writes. -/
structure Result where
  dest : Dest
  lat : Nat
  value : BitVec 1024
  mask : BitVec 1024 := BitVec.allOnes 1024
  flags : Flags := 0

/-- What an operation does when its bundle issues. -/
structure Op where
  slot : Slot
  /-- Port codes of the registers and latches it reads (R50, R52). -/
  reads : List Nat := []
  /-- Traps of its own (R58): code, address, and the load's record and row of an ABANDON. -/
  traps : List Cause := []
  /-- The bundle freezes before issue (R48, R49). -/
  waits : Option FreezeCause := none
  /-- Results for the result part of the write-timing buffer (R43). -/
  lands : List Result := []
  /-- Landing-part entries: destination and arrival distance (R45). -/
  loads : List (Dest × Nat) := []
  /-- Lane groups it takes (R55). -/
  groups : Nat := 0
  /-- It names rq (R36). -/
  rq : Bool := false
  /-- Entries it adds to the withhold buffer (R334). -/
  entries : Nat := 0
  /-- The target of a taken transfer (R87). -/
  jump : Option Nat := none
  /-- It is an enabled `loop` (R89). -/
  loops : Bool := false
  /-- It is `yield`, `wait` or `done` (R346). -/
  leaves : Bool := false
  /-- It must stand in a checkpoint bundle (R250). -/
  needsCkpt : Bool := false
  /-- Everything else it does at issue. -/
  act : State → State := id
  /-- What happens once its bundle has issued. -/
  leave : State → State := id

/-- How an operation acts for context `c` in a state. -/
abbrev OpFn := Nat → State → Op

/-- A trap of an operation in the bundle at the context's pc. -/
def causeAt (s : State) (c : Nat) (k : Slot) (code : TrapCode) (addr : Nat) : Cause :=
  Cause.plain code (some k) (s.ctx c).pc (s.ctx c).arch.cc addr
/-- A trap of an operation when a condition holds. -/
def trapIf (b : Bool) (s : State) (c : Nat) (k : Slot) (code : TrapCode) (addr : Nat := 0) : List Cause :=
  if b then [causeAt s c k code addr] else []

/-- A result for a port, unless the port discards it (R32, R35). -/
def landPort (q : Port) (lat : Nat) (v : BitVec 1024) (m : BitVec 1024 := BitVec.allOnes 1024) : List Result :=
  match destOf q with
  | some d => [{ dest := d, lat := lat, value := v, mask := m }]
  | none => []
/-- A result for a latch. -/
def landLatch (d : Dest) (lat : Nat) (v : BitVec 1024) (m : BitVec 1024 := BitVec.allOnes 1024) : Result :=
  { dest := d, lat := lat, value := v, mask := m }
/-- Flags that are ORed into FFLAGS at the landing cycle (R19, R54). -/
def landFlags (lat : Nat) (f : Flags) : List Result :=
  if f = 0 then [] else [{ dest := .flagsOnly, lat := lat, value := 0, mask := 0, flags := f }]

/-! ### Landing (R41, R43) -/

/-- Merge the bits under a mask. -/
def mergeBits {n : Nat} (old new mask : BitVec n) : BitVec n := (old &&& ~~~mask) ||| (new &&& mask)

/-- Write a scalar register. -/
def setSReg (a : Arch) (n : BitVec 6) (x : W64) : Arch :=
  { a with s := a.s.set n.toNat x (by have := n.isLt; omega) }
/-- Write a vector register. -/
def setVReg (a : Arch) (n : BitVec 6) (x : VReg) : Arch :=
  { a with v := a.v.set n.toNat x (by have := n.isLt; omega) }
/-- Write a predicate register. -/
def setPReg (a : Arch) (n : BitVec 4) (x : Pred) : Arch :=
  { a with p := a.p.set n.toNat x (by have := n.isLt; omega) }
/-- Write a tile register. -/
def setTReg (a : Arch) (n : BitVec 5) (x : TileReg) : Arch :=
  { a with tiles := a.tiles.set n.toNat x (by have := n.isLt; omega) }

/-- The scalar value of a landing merged into an old one. -/
def merge64 (old : W64) (l : Landing) : W64 := mergeBits old (l.value.extractLsb' 0 64) (l.mask.extractLsb' 0 64)

/-- An entry's value lands in a register, predicate or latch.  Control registers land in events of their own, and s0 and
p0 are never destinations (R32). -/
def landValue (a : Arch) (l : Landing) : Arch :=
  match l.dest with
  | .s n => setSReg a n (merge64 (sReg a n) l)
  | .v n => setVReg a n (mergeBits (vReg a n) l.value l.mask)
  | .p n => setPReg a n (mergeBits (pReg a n) (l.value.extractLsb' 0 128) (l.mask.extractLsb' 0 128))
  | .iq => { a with iq := merge64 a.iq l }
  | .fq => { a with fq := merge64 a.fq l }
  | .aq => { a with aq := mergeBits a.aq l.value l.mask }
  | .bq => { a with bq := mergeBits a.bq l.value l.mask }
  | .xq => { a with xq := mergeBits a.xq l.value l.mask }
  | .creg _ | .flagsOnly => a

/-- The XPDATA write (R111): a quarter of the entry takes the value, and {ENTRY, QTR} advances. -/
def writeXpdata (r : Arch) (v : W64) : Arch :=
  let e := (r.xpctl.extractLsb' 8 6).toNat
  let q := (r.xpctl.extractLsb' 14 2).toNat
  let next := (4 * e + q + 1) % 256
  { r with
    pattern := r.pattern.set e
      (mergeBits (r.pattern[e]'(by have := (r.xpctl.extractLsb' 8 6).isLt; omega))
        (v.zeroExtend 256 <<< (64 * q)) ((0xFFFFFFFFFFFFFFFF : BitVec 256) <<< (64 * q)))
      (by have := (r.xpctl.extractLsb' 8 6).isLt; omega)
    xpctl := (r.xpctl &&& 0xFFFFFFFFFFFF00FF) ||| BitVec.ofNat 64 (next / 4 * 256 + next % 4 * 2 ^ 14) }

/-- A register of the shadow set after a write (R111, R113, R125, R126, R240, R362). -/
def writeArchRegister (r : Arch) (n : Nat) (v : W64) : Arch :=
  match n with
  | 0x001 => { r with fflags := v &&& controlBits n }
  | 0x002 => { r with fmode := writeFmode r.fmode v }
  | 0x003 => { r with cctl := v &&& controlBits n }
  | 0x004 => { r with xpctl := v &&& controlBits n }
  | 0x005 => writeXpdata r v
  | 0x006 => { r with rqctl := v &&& controlBits n }
  | 0x007 => { r with rqseed := v }
  | 0x008 => { r with rqaddr := v &&& controlBits n }
  | 0x009 => { r with rqpos := v }
  | 0x00A => { r with tcbase := v &&& controlBits n }
  | _ => r

/-- The value that a landing gives a control register: `mark` sets one bit of CCTL alone (R351). -/
def cregValue (r : Arch) (n : Nat) (l : Landing) : W64 := if n = 0x003 then merge64 r.cctl l else l.value.extractLsb' 0 64

/-- One entry lands: its value in its destination, its flags in FFLAGS (R41, R54). -/
def landArch (a : Arch) (l : Landing) : Arch :=
  landValue { a with fflags := a.fflags ||| l.flags.zeroExtend 64 } l

/-! ### Issue -/

/-- The header of a bundle as its issue uses it (R21). -/
structure Header where
  early : Bool := false
  lend : Bool := false
  ckpt : Bool := false
  deriving DecidableEq, Repr

/-- Destination and landing cycle of what a bundle writes, in slot order. -/
def writesOf (cc : Nat) (ops : List Op) : List (Dest × Nat) :=
  ops.flatMap fun o => (o.lands.map fun r => (r.dest, cc + r.lat)) ++ o.loads.map fun (d, n) => (d, cc + n)

/-- A write that FFLAGS or a control register takes collides with nothing (R53, R54).  R54 exempts FFLAGS, and R53 does not say whether its
registers are those of the register files alone: the control registers are taken as none of them, so that a `mark` and a `setc` of CCTL that
land together do so in slot order (log 178, DESIGN CHOICE). -/
def collides : Dest → Bool
  | .flagsOnly | .creg _ => false
  | _ => true

/-- Two writes of one register, predicate or latch at one context cycle (R53). -/
def collision (old : List (Dest × Nat)) : List (Dest × Nat) → Bool
  | [] => false
  | w :: r => (collides w.1 && old.contains w) || collision (w :: old) r

/-- The conditions that judge a whole bundle (R36, R45, R52, R53, R55, R88 to R90, R334, R346). -/
def badBundle (x : Ctx) (h : Header) (ops : List Op) : Bool :=
  let a := x.arch
  let delay := a.target.isSome
  let taken := ops.any (·.jump.isSome)
  let writes := writesOf a.cc ops
  let entries := (ops.map (·.entries)).sum
  let loads := (ops.map (·.loads.length)).sum
  (delay && taken) || (delay && h.lend) || (h.lend && taken) ||
  (h.lend && (a.loops.isEmpty || ops.any (·.loops))) ||
  (ops.any (·.leaves) && (!h.ckpt || !a.wtb.isEmpty || entries != 0 || !writes.isEmpty)) ||
  256 < (if h.ckpt then 0 else x.withheld.length) + entries ||
  64 < (a.wtb.filter (·.load)).length + loads ||
  collision (a.wtb.map fun l => (l.dest, l.due)) writes ||
  6 < (ops.map (·.groups)).sum ||
  1 < (ops.filter (·.rq)).length ||
  (a.cctl.getLsbD 0 && !h.early &&
    a.wtb.any fun l => ops.any fun o => o.reads.contains l.dest.code)

/-- Writes that meet another of the same register and cycle, an older one or one of the same bundle (R53). -/
def meetsWrite (a : Arch) (writes : List (Dest × Nat)) (w : Dest × Nat) : Bool :=
  collides w.1 && (a.wtb.any (fun l => l.dest == w.1 && l.due == w.2) || decide (1 < (writes.filter (· == w)).length))

/-- The field of the bundle at the lowest bits among those that break such a condition (R58; log 15): the header, which names no slot,
or the first slot that takes part. -/
def bundleField (x : Ctx) (h : Header) (ops : List Op) : Option Slot :=
  let a := x.arch
  let delay := a.target.isSome
  let writes := writesOf a.cc ops
  let crowded := 256 < (if h.ckpt then 0 else x.withheld.length) + (ops.map (·.entries)).sum
  let full := 64 < (a.wtb.filter (·.load)).length + (ops.map (·.loads.length)).sum
  let wide := 6 < (ops.map (·.groups)).sum
  let twice := 1 < (ops.filter (·.rq)).length
  if h.lend && (delay || a.loops.isEmpty || ops.any fun o => o.jump.isSome || o.loops) then none
  else (ops.find? fun o =>
    (delay && o.jump.isSome) || o.leaves || (decide crowded && o.entries != 0) || (decide full && !o.loads.isEmpty) ||
    (writesOf a.cc [o]).any (meetsWrite a writes) || (decide wide && o.groups != 0) || (decide twice && o.rq) ||
    (a.cctl.getLsbD 0 && !h.early && a.wtb.any fun l => o.reads.contains l.dest.code)).map (·.slot)

/-- Class of an issue trap (R58). -/
def TrapCode.class : TrapCode → Nat
  | .illenc => 0
  | .illsched => 1
  | .priv => 2
  | _ => 3

/-- Place of an issue trap among those of its class: the header, then the slots in the order of bundle bits (R58). -/
def Cause.place (x : Cause) : Nat := match x.slot with
  | some k => k.index + 1
  | none => 0

/-- The trap that an issuing bundle reports (R58). -/
def chooseIssue : List Cause → Option Cause
  | [] => none
  | x :: r => match chooseIssue r with
    | none => some x
    | some y => if y.code.class < x.code.class || (y.code.class == x.code.class && y.place < x.place) then some y
      else some x

/-- An LD, ST or TM operation in the drain window of a `phase` (R250). -/
def inDrain (x : Ctx) (o : Op) : Bool := (o.slot == .ld || o.slot == .st || o.slot == .tm) && match x.phaseWin with
  | some (a, b) => decide (a < x.arch.cc) && decide (x.arch.cc < b)
  | none => false

/-- The trap that a bundle raises at issue, if any (R58). -/
def issueTrap (c : Nat) (h : Header) (ops : List Op) (s : State) : Option Cause :=
  let x := s.ctx c
  chooseIssue (ops.flatMap (fun o => o.traps ++ trapIf ((o.needsCkpt && !h.ckpt) || inDrain x o) s c o.slot .illsched) ++
    (if badBundle x h ops then [Cause.plain .illsched (bundleField x h ops) x.pc x.arch.cc 0] else []))

/-- The write-timing entry of a result (R43). -/
def landingOf (s : State) (c : Nat) (k : Slot) (r : Result) : Landing :=
  let x := s.ctx c
  { uid := 0, due := x.arch.cc + r.lat, dest := r.dest, value := r.value, mask := r.mask, flags := r.flags,
    enables := trapEnables x.arch, pc := x.pc, slot := k, load := false, waiting := false, deadline := false,
    faulty := none, lines := 0 }

/-- An operation's results enter the write-timing buffer, and the rest of its effect happens. -/
def applyOp (c : Nat) (s : State) (o : Op) : State :=
  o.act (s.modArch c fun a => { a with wtb := a.wtb ++ o.lands.map (landingOf s c o.slot) })

/-- Events of the issued operations (R305, R373). -/
def slotEvent : Slot → Option Nat
  | .va | .vb => some evVector
  | .mx => some evMatrix
  | .ld => some evLoad
  | .st => some evStore
  | _ => none

/-- The loop rule of an L bit (R90): the loop stack, and the start of the next pass. -/
def endLoop : List LoopEntry → List LoopEntry × Option Nat
  | [] => ([], none)
  | e :: r => if 1 < e.remaining then ({ e with remaining := e.remaining - 1 } :: r, some e.start) else (r, none)

/-- The next bundle and the pending target once a bundle has issued (R23, R87, R90). -/
def advance (h : Header) (jump : Option Nat) (pc : Nat) (a : Arch) : Nat × Arch :=
  let (loops, again) := if h.lend then endLoop a.loops else (a.loops, none)
  let next := match a.target with
    | some t => t
    | none => match again with
      | some t => t
      | none => pc + 64
  (next % 2 ^ 64, { a with cc := a.cc + 1, loops := loops, target := if a.target.isSome then none else jump })

/-- The context cycle of an issued bundle ends: counters count (R305), the pc moves, cc advances (R40). -/
def finishBundle (c : Nat) (h : Header) (ops : List Op) (s : State) : State :=
  let s1 := countDeferred (count (count s c evBundle 1) c evCycle 1) c
  let s2 := ops.foldl (fun s o => match slotEvent o.slot with
    | some e => count s c e 1
    | none => s) s1
  let jump := firstSome (ops.map (·.jump))
  s2.modCtx c fun x =>
    let (pc, a) := advance h jump x.pc x.arch
    { x with
      pc := pc, arch := a, owed := none, granted := false, ready := 0, spent := x.spent + 1
      stopSkip := x.stopSkip.filter fun k => k.1 != x.pc }

/-! ### Freezes (R48) -/

/-- A bundle that freezes before issue (R48).  Only one that lost the merge stays ready (R59). -/
def freezeNow (s : State) (c : Nat) (why : FreezeCause) : State :=
  s.modCtx c fun x => { x with
    granted := false
    ready := if why == .lostMerge then x.ready else 0
    freeze := match x.freeze with
      | some f => some f
      | none => some (why, s.hub.timebase.toNat, x.arch.cctl.getLsbD 1) }

/-- The state that the slots of a bundle meet: in a checkpoint bundle the withheld invalidations have applied (R332). -/
def metState (c : Nat) (h : Header) (s : State) : State := if h.ckpt then invalidated s c else s

/-! ### Page walks (R264 to R266) -/

/-- The TLB entry of a leaf. -/
def tlbEntryOf (j va : Nat) (e : W64) : TlbEntry :=
  let n := Pte.bytes e / 2 ^ 16
  { job := j, vpage := va / 2 ^ 16 / n * n, pages := n, entry := e }
/-- Add a translation to a TLB of `n` entries; the oldest makes room, for R266 does not say which one does (log 132). -/
def tlbAdd (n : Nat) (t : TlbEntry) (l : List TlbEntry) : List TlbEntry :=
  let m := l ++ [t]
  m.drop (m.length - n)
/-- A core's TLB takes a translation. -/
def keepCore (s : State) (k : Nat) (t : TlbEntry) : State := s.modCore k fun x => { x with tlb := tlbAdd Config.coreTlbMax t x.tlb }
/-- A die's last-level TLB takes a translation. -/
def keepDie (s : State) (d : Nat) (t : TlbEntry) : State :=
  { s with dieTlb := s.dieTlb.set d (tlbAdd Config.dieTlbMax t (s.dieTlb.get d [])) }
/-- The translation of an address for the bead in a context comes into its core's TLB (R266): from the die's TLB, or by a walk, whose
entries the die's walker reads at the coherent point, and which both TLBs keep.  A walk that raises XLATE leaves nothing. -/
def pageWalk (s : State) (c va : Nat) : State := match (s.ctx c).run with
  | none => s
  | some b =>
    let k := coreOf c
    if (tlbFind (s.core k).tlb b.job va).isSome then s
    else match tlbFind (s.dieTlb.get (dieOf k) []) b.job va with
      | some e => keepCore s k (tlbEntryOf b.job va e)
      | none =>
        let s1 := (walkLines s b.job va).foldl (walkerRead (agentOf s c)) s
        match walk s b.job va with
        | some e => keepDie (keepCore s1 k (tlbEntryOf b.job va e)) (dieOf k) (tlbEntryOf b.job va e)
        | none => s1
/-- The translations of `n` bytes at a virtual address come into the core's TLB (R266). -/
def walkRange (s : State) (c va n : Nat) : State := (granules va n).foldl (fun s (_, a, _) => pageWalk s c a) s
/-- A trap of an access at an address: the walk that finds out what its translation is, or that it has none, has read its entries (R265,
R266). -/
def walkMissed (s : State) (c : Nat) (x : Cause) : State :=
  if x.code == .xlate || (x.addr != 0 && [TrapCode.perm, .hmwrite, .mchk, .soft].contains x.code) then pageWalk s c x.addr else s

/-- The fault-log entry of a line whose tag, or whose data, holds an uncorrectable error (R223, R273, R393). -/
def lineError (s : State) (code : TrapCode) (line pc : Nat) : LogEntry :=
  if code == .soft then { kind := 0x02, first := line * 128, second := pc }
  else { kind := 0x04, first := line * 128, second := pc, detail := (lineTag s line).toNat }
/-- A read at issue that meets a bad line enters the fault log when its trap is reported, which names the entry (R223, R273, R340,
R393). -/
def logIssue (s : State) (c : Nat) (x : Cause) : State :=
  match x.line with
  | some line => logFault s (logAt s c (lineError s x.code line x.pc))
  | none => s
/-- The trap that a bundle reports, with the number of the fault-log entry that it is about to get (R340, R393). -/
def numbered (s : State) (x : Cause) : Cause := if x.line.isSome then { x with log := s.mgmt.flogN } else x
/-- A bundle takes its trap: a freeze of the context ends first (R370, R373). -/
def bundleTrap (s : State) (c : Nat) (x : Cause) : State :=
  let s0 := trapFreeze s c
  takeTrap (logIssue (walkMissed s0 c x) c x) c (numbered (walkMissed s0 c x) x)

/-- A bundle of operations issues at the context's pc (R23, R58, R332): it freezes, traps with no effect, or acts. -/
def issueBundle (c : Nat) (h : Header) (fs : List OpFn) (s : State) : State :=
  let ops := fs.map fun f => f c (metState c h s)
  match firstSome (ops.map (·.waits)) with
  | some why => freezeNow s c why
  | none =>
    let s0 := endFreeze s c
    match issueTrap c h ops (metState c h s) with
    | some x => bundleTrap s c x
    | none =>
      let s1 := if h.ckpt then checkpoint s0 c (s.ctx c).pc else s0
      let ops1 := fs.map fun f => f c s1
      let s2 := finishBundle c h ops1 (ops1.foldl (applyOp c) s1)
      ops1.foldl (fun s o => o.leave s) s2

/-- The operation of a slot whose encoding its entry refuses: ILLENC (R5). -/
def illegalOp (k : Slot) : OpFn := fun c s => { slot := k, traps := [causeAt s c k .illenc 0] }

/-- The header of the bundle that holds an operation alone: a checkpoint for the operations that stand only in one (R250,
R346), else zero. -/
def loneHeader : Instr → Header
  | .yield _ | .wait _ | .done _ | .phase _ => { ckpt := true }
  | _ => {}
/-- The meaning of a slot operation: the context `cur` issues the bundle that holds it alone. -/
def issueAlone (i : Instr) (k : Slot) (f : OpFn) (s : State) : Host.Outcome State Fault Refusal :=
  match (s.ctx s.cur).run with
  | none => .fault .idleContext
  | some _ => .next (issueBundle s.cur (loneHeader i) [if wellFormed i then f else illegalOp k] s)

end Sys2Proof.Machine
end

