-- ==== Sys2Proof/Machine/Window.lean ====
section
/-! DEFINITION. Reading the management window (spec 24, R392, R393, R400; 15, R259; 17, R286; 22, R371; 23, R386). -/
namespace Sys2Proof.Machine

/-! ### The drained view of a stopped bead (R372) -/

/-- An entry takes its place among others by its landing cycle. -/
def insertDue (l : Landing) : List Landing → List Landing
  | [] => [l]
  | x :: r => if l.due ≤ x.due then l :: x :: r else x :: insertDue l r
/-- Saved entries of the write-timing buffer in the order of their landing cycles. -/
def byDue (l : List Landing) : List Landing := l.foldr insertDue []
/-- A saved entry is applied to the register that it lands in. -/
def drainOne (a : Arch) (l : Landing) : Arch := match l.dest with
  | .creg n => writeArchRegister a n.toNat (cregValue a n.toNat l)
  | _ => landArch a l
/-- The drained view of a saved bead: its registers with every saved entry of the write-timing buffer applied (R372).  The save area keeps
the entries. -/
def drainedView (v : Saved) : Arch := { (byDue v.arch.wtb).foldl drainOne v.arch with wtb := [] }
/-- The registers in which the saved entries of a bead land, with the landing cycles that stand beside them (R372). -/
def drainedCycles (v : Saved) : List (Dest × Nat) := (byDue v.arch.wtb).map fun l => (l.dest, l.due)
/-- The beads in a debug stop, with the keys of their save areas. -/
def stoppedBeads (s : State) : List (Nat × Saved) := s.hub.saved.filter fun (k, v) =>
  beadState s (k / 2 ^ 64) v.addr == 3 && beadWop s (k / 2 ^ 64) v.addr == 3
/-- The 64 KiB of the window that show a stopped bead (log 75): its drained view as an image of R341; then, from 0xC000 on, the address of its
bead record, its job and the number of its saved entries, and from 0xC040 on 16 bytes for each entry, its port and its landing cycle. -/
def viewImage (key : Nat) (v : Saved) : Nat :=
  ((imageFields (fun _ => false) (drainedView v)).map fun (off, n, x) => x % 2 ^ (8 * n) * 2 ^ (8 * off)).sum +
  (v.addr + key / 2 ^ 64 * 2 ^ 64 + v.arch.wtb.length * 2 ^ 128) * 2 ^ (8 * 0xC000) +
  ((drainedCycles v).zipIdx.map fun ((d, cc), i) => (d.code + cc % 2 ^ 64 * 2 ^ 64) * 2 ^ (8 * (0xC040 + 16 * i))).sum
/-- Word `w` of the part of the window that shows stopped beads, at 0x180_0000 (log 75). -/
def viewWord (s : State) (w : Nat) : Nat := match (stoppedBeads s)[w / 8192]? with
  | some (k, v) => bitsOf (viewImage k v) (64 * (w % 8192)) 64
  | none => 0

/-- The 8-byte word at offset `8 w` of the management window (R392); offsets that hold nothing read zero. -/
def mgmtWord (s : State) (w : Nat) : Nat :=
  if 0x1800000 ≤ 8 * w ∧ 8 * w < 0x2000000 then viewWord s ((8 * w - 0x1800000) / 8) else registerWord s w

/-- One byte of the management window. -/
def mgmtByte (s : State) (o : Nat) : Byte := BitVec.ofNat 8 (byteOf (mgmtWord s (o / 8)) (o % 8))
/-- `n` bytes of the management window, the first lowest. -/
def mgmtRead (s : State) (o n : Nat) : Nat := bytesToNat ((List.range n).map fun i => mgmtByte s (o + i))

end Sys2Proof.Machine
end

