-- ==== Sys2Proof/Machine/Access.lean ====
section
/-! DEFINITION. What loads, stores, atomics and tile operations share: withheld entries, checks at issue, debug watches,
tile registers and their regions, and reads (spec 11, R196; 12, R207; 14, R226 to R228, R237 to R242; 16, R277;
22, R371, R372). -/
namespace Sys2Proof.Machine

/-- The distance of an arrival code (R26). -/
def arrivalD (v : BitVec 8) : Nat := if v.toNat < 128 then v.toNat else 128 + 8 * (v.toNat - 128)

/-- The translations of the pages that an entry or a transfer pins come into the core's TLB (R227, R266). -/
def walkPins (s : State) (c : Nat) (pins : List (Nat × Nat × Nat)) : State := pins.foldl (fun s (_, va, n) => walkRange s c va n) s
/-- An operation places an entry in the withhold buffer (R204, R206). -/
def withhold (s : State) (c : Nat) (k : Slot) (a : Act) (pins : List (Nat × Nat × Nat) := []) : State :=
  match (s.ctx c).run with
  | none => s
  | some b => (walkPins s c pins).modCtx c fun x => { x with
      withheld := x.withheld ++ [{
        seq := x.issued, released := 0, job := b.job, sup := b.sup, bead := b.addr, life := b.life, launch := b.launch,
        pc := x.pc, slot := k, act := a, pins := pins }]
      issued := x.issued + 1 }

/-! ### Debug comparators (R371, R372) -/

/-- Comparator `i` of core `k`: address word and control word. -/
def comparator (s : State) (k i : Nat) : Nat := (s.mgmt.comparators.get (8 * k + i) 0).toNat
/-- KIND of a comparator. -/
def cmpKind (x : Nat) : Nat := bitsOf x 70 2
/-- JOB of a comparator. -/
def cmpJob (x : Nat) : Nat := bitsOf x 112 16
/-- Address of a comparator. -/
def cmpAddr (x : Nat) : Nat := x % 2 ^ 64
/-- LEN of a comparator. -/
def cmpLen (x : Nat) : Nat := bitsOf x 72 40
/-- ACC of a comparator. -/
def cmpAcc (x : Nat) : Nat := bitsOf x 68 2

/-- The KIND 01 comparators of a context's core at the bundle at its pc, by their numbers in the module (R372). -/
def stopsAt (s : State) (c : Nat) : List Nat :=
  ((List.range 8).filter fun i =>
    let x := comparator s (coreOf c) i
    cmpKind x == 1 && cmpJob x == jobOf s c && cmpAddr x == (s.ctx c).pc).map (8 * coreOf c + ·)
/-- The comparators that have stopped the bead of a context at the bundle at its pc since it last issued it (R372). -/
def skipped (x : Ctx) : List Nat := Table.get x.stopSkip x.pc []
/-- A data watch covers an access of `n` bytes at `va`; a watch of LEN 0 covers nothing (R372). -/
def watches (s : State) (c : Nat) (rd wr : Bool) (va n : Nat) : Bool :=
  (List.range 8).any fun i =>
    let x := comparator s (coreOf c) i
    cmpKind x == 3 && cmpJob x == jobOf s c &&
    ((rd && cmpAcc x % 2 == 1) || (wr && cmpAcc x / 2 == 1)) &&
    cmpLen x != 0 && n != 0 && decide (va < cmpAddr x + cmpLen x) && decide (cmpAddr x < va + n)

/-! ### Checks at issue (R227) -/

/-- How an access uses its bytes, with the direction that a data watch sees. -/
inductive Use where
  | load | store | atomic
  deriving DecidableEq, Repr

/-- The checks of R227 on one range: what fails first, or the frames.  An atomic needs the W right alone (R265). -/
def checkUse (s : State) (c : Nat) (u : Use) (align va n : Nat) : Sum (TrapCode × Nat) Frames :=
  if va % align != 0 then .inl (.align, va)
  else
    let k := coreOf c
    let j := jobOf s c
    let sup := supOf s c
    match u with
    | .load => checkRange s k j sup .load va n
    | .store => checkRange s k j sup .store va n
    | .atomic => checkRange s k j sup .store va n

/-- Order of the failures of one access (R227). -/
def failRank : TrapCode → Nat
  | .align => 0
  | .xlate | .mchk | .soft => 1
  | .perm => 2
  | _ => 3

/-- The failure that an access of several ranges reports: the first of the lowest rank (R227). -/
def firstFail : List (TrapCode × Nat) → Option (TrapCode × Nat)
  | [] => none
  | x :: r => match firstFail r with
    | none => some x
    | some y => if failRank y.1 < failRank x.1 then some y else some x

/-- The failures among several checks. -/
def failsOf (l : List (Sum (TrapCode × Nat) Frames)) : List (TrapCode × Nat) := l.filterMap fun x => match x with
  | .inl e => some e
  | .inr _ => none
/-- The frames of several checks. -/
def framesOf (l : List (Sum (TrapCode × Nat) Frames)) : List Frames := l.map fun x => match x with
  | .inl _ => []
  | .inr f => f

/-- The trap of a check that fails at an address; where a walk has met a bad line, its fault-log entry is the next one (R223, R227,
R273). -/
def failCause (s : State) (c : Nat) (k : Slot) (code : TrapCode) (a : Nat) : Cause :=
  if code = .mchk ∨ code = .soft then
    { causeAt s c k code a with log := s.mgmt.flogN, line := (walkFault s (jobOf s c) a).map (·.2) }
  else causeAt s c k code a
/-- The trap of an access whose ranges have been checked: the first failure, or WATCH (R227, R372). -/
def accessTraps (s : State) (c : Nat) (k : Slot) (u : Use) (l : List (Nat × Nat))
    (checks : List (Sum (TrapCode × Nat) Frames)) : List Cause :=
  match firstFail (failsOf checks) with
  | some (code, a) => [failCause s c k code a]
  | none => match l.find? fun (va, n) => watches s c (u != .store) (u != .load) va n with
    | some (va, _) => [causeAt s c k .watch va]
    | none => []

/-- Every byte of a range lies in the issuing core's own window (R44). -/
def ownRange (s : State) (c va n : Nat) : Bool :=
  match translateRange s (coreOf c) (jobOf s c) va n with
  | .inl _ => false
  | .inr f => f.all fun (_, p, _) => isOwnWindow s (coreOf c) (p * 2 ^ 16)

/-- The arrival distance is too small for the addresses (R44): below 10, and not all in the own window. -/
def tooNear (s : State) (c d : Nat) (l : List (Nat × Nat)) : Bool :=
  decide (d < 10) && !l.all fun (va, n) => ownRange s c va n

/-- The physical address lies on another module, for whose memory a job without the fabric right may start no tile
transfer (R379). -/
def needsFabric (s : State) (c pa : Nat) : Bool := paAgent pa / 4 != s.pos && !(s.job (jobOf s c)).fab

/-! ### Tile registers (R237, R238) -/

/-- ROWS. -/
def TileReg.rows (t : TileReg) : Nat := (t.image.extractLsb' 0 16).toNat
/-- COLS. -/
def TileReg.cols (t : TileReg) : Nat := (t.image.extractLsb' 16 16).toNat
/-- PITCH. -/
def TileReg.pitch (t : TileReg) : Nat := (t.image.extractLsb' 32 24).toNat
/-- FORMAT. -/
def TileReg.fmt (t : TileReg) : ETy := (ETy.ofCode (t.image.extractLsb' 56 4)).getD .i8
/-- SG. -/
def TileReg.sg (t : TileReg) : Nat := (t.image.extractLsb' 60 3).toNat
/-- CNT. -/
def TileReg.cnt (t : TileReg) : Bool := t.image.getLsbD 63
/-- CIDX. -/
def TileReg.cidx (t : TileReg) : Nat := (t.image.extractLsb' 64 8).toNat
/-- SCALE. -/
def TileReg.scale (t : TileReg) : Nat := (t.image.extractLsb' 72 24).toNat
/-- SROFF. -/
def TileReg.sroff (t : TileReg) : Nat := (t.image.extractLsb' 96 6).toNat
/-- SCOFF. -/
def TileReg.scoff (t : TileReg) : Nat := (t.image.extractLsb' 102 6).toNat
/-- Element size in bits of a stored element (R237). -/
def storedBits : ETy → Nat
  | .ta6 => 6
  | t => t.bits
/-- Element size b of a tile (R237). -/
def TileReg.bits (t : TileReg) : Nat := storedBits t.fmt
/-- Bytes of a row: rb (R237). -/
def TileReg.rb (t : TileReg) : Nat := (t.cols * t.bits + 7) / 8
/-- Bytes from the first byte of row 0 to the last of the last row. -/
def TileReg.span (t : TileReg) : Nat := (t.rows - 1) * t.pitch + t.rb
/-- Columns of the block grid: NBC (R238). -/
def TileReg.nbc (t : TileReg) : Nat := (t.scoff + t.cols + 2 ^ t.sg - 1) / 2 ^ t.sg
/-- Rows of the block grid (R238). -/
def TileReg.nbr (t : TileReg) : Nat := (t.sroff + t.rows + 2 ^ (6 - t.sg) - 1) / 2 ^ (6 - t.sg)
/-- Bytes of the scale array. -/
def TileReg.scaleBytes (t : TileReg) : Nat := if t.sg = 7 then 0 else t.nbr * t.nbc
/-- Index in the scale array of the scale of element (r, j) (R238). -/
def TileReg.scaleIndex (t : TileReg) (r j : Nat) : Nat :=
  (t.sroff + r) / 2 ^ (6 - t.sg) * t.nbc + (t.scoff + j) / 2 ^ t.sg

/-- The physical address of a byte at offset `o` from the region base. -/
def TileRef.pa (t : TileRef) (o : Nat) : Nat := plainPa t.frames (t.reg.base.toNat + o)
/-- The bit of the region at which element (r, j) begins (R237). -/
def TileRef.elemAt (t : TileRef) (r j : Nat) : Nat := r * t.reg.pitch * 8 + j * t.reg.bits
/-- The physical bit address of a bit of the region. -/
def TileRef.bitPa (t : TileRef) (b : Nat) : Nat := t.pa (b / 8) * 8 + b % 8
/-- Bits of element (r, j) that lie in the 64 KiB granule in which it begins. -/
def TileRef.firstBits (t : TileRef) (r j : Nat) : Nat :=
  Nat.min t.reg.bits (2 ^ 19 - (8 * t.reg.base.toNat + t.elemAt r j) % 2 ^ 19)
/-- Read element (r, j). -/
def TileRef.elem (t : TileRef) (s : State) (r j : Nat) : Nat :=
  let o := t.elemAt r j
  let k := t.firstBits r j
  Memory.readBits s.mem (t.bitPa o) k + Memory.readBits s.mem (t.bitPa (o + k)) (t.reg.bits - k) * 2 ^ k
/-- Write element (r, j). -/
def TileRef.setElem (t : TileRef) (m : List Host.Cell) (r j v : Nat) : List Host.Cell :=
  let o := t.elemAt r j
  let k := t.firstBits r j
  Memory.writeBits (Memory.writeBits m (t.bitPa o) k v) (t.bitPa (o + k)) (t.reg.bits - k) (v / 2 ^ k)
/-- Read `n` bytes from offset `o` of a row. -/
def TileRef.rowBytes (t : TileRef) (s : State) (r o n : Nat) : List Byte :=
  (List.range n).map fun i => Memory.get s.mem (t.pa (r * t.reg.pitch + o + i))
/-- The lines of the first `n` bytes of a row. -/
def TileRef.rowLines (t : TileRef) (r n : Nat) : List Nat := ((List.range n).map fun i => t.pa (r * t.reg.pitch + i) / 128).eraseDups
/-- Stored bytes as bit ranges. -/
def byteBits (l : List (Nat × Byte)) : List (Nat × Nat) := l.map fun (a, _) => (8 * a, 8)
/-- Write bytes at offset `o` of a row. -/
def TileRef.setRow (t : TileRef) (s : State) (r o : Nat) (l : List Byte) : State :=
  let bytes := l.zipIdx.map fun (b, i) => (t.pa (r * t.reg.pitch + o + i), b)
  unpad { s with mem := Memory.writeCells s.mem bytes } (byteBits bytes)
/-- The scale byte of element (r, j). -/
def TileRef.scaleOf (t : TileRef) (s : State) (r j : Nat) : Byte :=
  Memory.get s.mem (t.pa (t.reg.scale + t.reg.scaleIndex r j))

/-- The physical ranges of a run of virtual bytes, cut at 64 KiB. -/
def runRanges (f : List (Nat × Nat)) (va n : Nat) : List (Nat × Nat) :=
  if n = 0 then []
  else
    let g := va / 2 ^ 16
    (List.range ((va + n - 1) / 2 ^ 16 - g + 1)).map fun i =>
      let lo := Nat.max va ((g + i) * 2 ^ 16)
      let hi := Nat.min (va + n) ((g + i + 1) * 2 ^ 16)
      (plainPa f lo, hi - lo)

/-- The physical byte ranges of a tile's rows. -/
def TileRef.rowRanges (t : TileRef) : List (Nat × Nat) :=
  (List.range t.reg.rows).flatMap fun r => runRanges t.frames (t.reg.base.toNat + r * t.reg.pitch) t.reg.rb
/-- The physical byte ranges of a tile's rows and of its scale array. -/
def TileRef.ranges (t : TileRef) : List (Nat × Nat) :=
  t.rowRanges ++ runRanges t.frames (t.reg.base.toNat + t.reg.scale) t.reg.scaleBytes

/-- Two lists of ranges share bytes. -/
def rangesMeet (l m : List (Nat × Nat)) : Bool :=
  l.any fun (a, n) => m.any fun (b, k) => decide (a < b + k) && decide (b < a + n)

/-- Two tiles share bytes; the scale array of a tile counts as part of it, which R245 does not say (log 152, DESIGN CHOICE).  A tile whose
region cannot be translated shares none. -/
def TileRef.meets (t u : TileRef) : Bool := !t.frames.isEmpty && !u.frames.isEmpty && rangesMeet t.ranges u.ranges

/-- The frames of a tile's region and scale array, or what is wrong with them: XLATE, or PERM where they leave the issuing
core's window or overlap its L1 part (R239, R240). -/
def regionFrames (s : State) (c : Nat) (t : TileReg) : Sum (TrapCode × Nat) (List (Nat × Nat)) :=
  let k := coreOf c
  let bad (pa : Nat) (_ : W64) := !isOwnWindow s k pa || inL1Part s pa
  let get (va n : Nat) : Sum (TrapCode × Nat) (List (Nat × Nat)) :=
    match translateRange s k (jobOf s c) va n with
    | .inl a => .inl (walkCode s k (jobOf s c) a, a)
    | .inr f => match firstBad va bad f with
      | some a => .inl (.perm, a)
      | none => .inr f.plain
  match get t.base.toNat t.span with
  | .inl e => .inl e
  | .inr f => match get (t.base.toNat + t.scale) t.scaleBytes with
    | .inl e => .inl e
    | .inr g => .inr (f ++ g)

/-! ### Pending and awaited registers (R49, R166, R242, R277) -/

/-- The tile register that a hallmark mutation writes (R277). -/
def writtenTile : Act → Option TileRef
  | .hmput names _ _ _ => some names
  | .hmnode names _ _ => some names
  | .hmswap values _ _ _ => some values
  | _ => none
/-- A withheld tile store names the register (R242). -/
def namedByWithheld (s : State) (c n : Nat) : Bool := (s.ctx c).withheld.any fun e => (storeTiles e.act).contains n
/-- The entry makes a register awaited. -/
def awaits (n : Nat) (e : Entry) : Bool := match writtenTile e.act with
  | some t => t.tl == n
  | none => false

/-- Roles in which an operation names a tile register. -/
inductive Role where
  /-- Any use that raises ABANDON on an abandoned register (R136). -/
  | use
  /-- Destination of a tile load, which clears an abandon mark (R136). -/
  | load
  /-- Operand of a hallmark mutation (R277). -/
  | mutation
  /-- Source of `mpush`, which may be abandoned (R136). -/
  | push
  /-- Destination of `tdef` (R239). -/
  | define
  deriving DecidableEq, Repr

/-- What naming a tile register does: traps of its own, a freeze, and the register with its frames. -/
structure Named where
  traps : List Cause
  waits : Option FreezeCause
  ref : TileRef

/-- The tile register that a port names. -/
def tileNo : Port → BitVec 5
  | .tl n => n
  | _ => 0

/-- The trap that an abandoned register raises (R183). -/
def abandonTrap (s : State) (c : Nat) (k : Slot) (r : AbandonRec) : Cause :=
  { causeAt s c k .abandon r.addr with load := some r }

/-- Some entry of a list will write bytes of the given ranges as a hallmark mutation (R277). -/
def willWrite (l : List (Nat × Nat)) (q : List Entry) : Bool := q.any fun e => match writtenTile e.act with
  | some t => rangesMeet l t.ranges
  | none => false

/-- An operation of slot `k` names a tile register (R15, R49, R136, R237, R240, R242, R277); `on` is its enable. -/
def nameTile (s : State) (c : Nat) (k : Slot) (on : Bool) (q : Port) (role : Role) : Named :=
  let n := (tileNo q).toNat
  let t := tReg (s.ctx c).arch (tileNo q)
  let other := role != .mutation
  let region := if t.defined && role != .define then regionFrames s c t else .inr []
  let ref : TileRef := { tl := n, reg := t, frames := match region with
    | .inr f => f
    | .inl _ => [] }
  let reach := if on && other && role != .define then ref.ranges else []
  let held := namedByWithheld s c n ||
    (other && ((s.ctx c).withheld.any (awaits n) || willWrite reach (s.ctx c).withheld))
  let waits :=
    if isPending s c n then some .pendingTile
    else if other && ((ownQueue s c).any (awaits n) || willWrite reach (slotQueue s c)) then some .awaitedHallmark
    else none
  let traps :=
    if (role != .define && !t.defined) || held then [causeAt s c k .illsched 0]
    else if !on then []
    else match t.abandoned, role == .use || role == .mutation with
      | some r, true => [abandonTrap s c k r]
      | _, _ => match region with
        | .inl (code, a) => [failCause s c k code a]
        | .inr _ => []
  { traps := traps, waits := waits, ref := ref }

/-- A `phase` of the other context of the core is moving the split (R250). -/
def phaseHolds (s : State) (c : Nat) : Bool := match (s.core (coreOf c)).phase with
  | some (_, o, _) => o != c
  | none => false

/-- A transfer writes some of the given bytes in pieces that it has not performed (R228). -/
def Transfer.writes (t : Transfer) (l : List (Nat × Nat)) : Bool :=
  (t.pieces.any fun p =>
    rangesMeet l (p.moves.map fun m => (m.dst / 8, (m.dst + m.n - 1) / 8 + 1 - m.dst / 8)) ||
    (match p.expand with
     | some (_, d) => rangesMeet l (d.map fun a => (a, 1))
     | none => false)) ||
  (match t.kind with
   | .convert dst _ _ => rangesMeet l dst.ranges
   | .chrecv _ _ dst => rangesMeet l dst.ranges
   | _ => false)

/-- Bytes `n` at physical address `pa`, one by one. -/
def byteRange (pa n : Nat) : List Nat := (List.range n).map (pa + ·)

/-- The row area of a queue that an `append` not yet handed may write: its rows are known only once TAIL has advanced (R228,
R244; log 131). -/
def appendArea (e : Entry) : List (Nat × Nat) := match e.act with
  | .append _ _ _ pitch limit frames va => runRanges frames (va + 128) (limit * pitch)
  | _ => []
/-- The freeze of an access that reads bytes which a transfer will write, or which a released mutation will write (R228,
R277). -/
def bytesWait (s : State) (c : Nat) (l : List (Nat × Nat)) : Option FreezeCause :=
  let mine := s.transfers.filter (fun t => t.ctx == some c || t.life == lifeOf s c) ++ (slotQueue s c).filterMap fun e => match e.act with
    | .tileStore t _ => some t
    | _ => none
  if mine.any (·.writes l) || (slotQueue s c).any (fun e => rangesMeet l (appendArea e)) then some .pendingTile
  else if willWrite l (slotQueue s c) then some .awaitedHallmark
  else none

/-- A tile operation reaches bytes that a released mutation will write (R277). -/
def reachWaits (s : State) (c : Nat) (l : List (Nat × Nat)) : Option FreezeCause :=
  if willWrite l (slotQueue s c) then some .awaitedHallmark else none
/-- An access reaches bytes that a withheld mutation will write (R277). -/
def bytesAwaited (s : State) (c : Nat) (l : List (Nat × Nat)) : Bool := willWrite l (s.ctx c).withheld

/-- The first freeze of several. -/
def orWait (a b : Option FreezeCause) : Option FreezeCause := match a with
  | some x => some x
  | none => b

/-! ### Reads (R196, R207, R228) -/

/-- The byte that an entry's store holds for an address: the last one written (R231). -/
def lastByte (pa : Nat) : List (Nat × Byte) → Option Byte
  | [] => none
  | (a, b) :: r => match lastByte pa r with
    | some x => some x
    | none => if a = pa then some b else none

/-- The byte of an entry, and whether it has been formed (R139, R196). -/
def Entry.byte (e : Entry) (pa : Nat) : Option Byte := match e.act with
  | .store l _ => lastByte pa l
  | .mxWrite _ _ l => lastByte pa l
  | _ => none

/-- The newest byte for an address among entries of a context that were issued before a read (R196). -/
def newest (before pa : Nat) : List Entry → Option Byte
  | [] => none
  | e :: r => match newest before pa r with
    | some b => some b
    | none => if e.seq < before then e.byte pa else none
/-- The context's own byte for an address (R196). -/
def ownByte (x : Ctx) (before pa : Nat) : Option Byte := newest before pa (x.storeQ ++ x.withheld)
/-- A read meets bytes of an MX tile write that are not formed (R139). -/
def meetsUnformed (x : Ctx) (before : Nat) (l : List Seg) : Bool :=
  (x.storeQ ++ x.withheld).any fun e => decide (e.seq < before) && match e.act with
    | .mxWrite _ false b => b.any fun (a, _) => l.any fun g => decide (g.pa ≤ a) && decide (a < g.pa + g.n)
    | _ => false

/-- A segment cut at line boundaries. -/
def Seg.lines (g : Seg) : List Seg :=
  if g.n = 0 then []
  else
    let f := g.pa / 128
    (List.range ((g.pa + g.n - 1) / 128 - f + 1)).map fun i =>
      let lo := Nat.max g.pa ((f + i) * 128)
      let hi := Nat.min (g.pa + g.n) ((f + i + 1) * 128)
      { g with pa := lo, va := g.va + (lo - g.pa), n := hi - lo, bit := g.bit + 8 * (lo - g.pa) }

/-- The bytes of a number, with the own bytes on top. -/
def overlay (own : List (Option Byte)) (base : Nat) : Nat :=
  bytesToNat (List.zipWith (fun o b => o.getD b) own (natToBytes own.length base))

/-- Bytes of an L1 line as a number. -/
def l1Bytes (x : L1Line) (pa n : Nat) : Nat := (x.data.extractLsb' (8 * (pa % 128)) (8 * n)).toNat
/-- A byte mask of a line covers `n` bytes at `pa`. -/
def covers (m : BitVec 128) (pa n : Nat) : Bool := (List.range n).all fun i => m.getLsbD (pa % 128 + i)
/-- The bytes at `pa` that a context's entries do not supply are covered by a byte mask of the line. -/
def coversRest (m : BitVec 128) (pa : Nat) (own : List (Option Byte)) : Bool :=
  own.zipIdx.all fun (o, i) => o.isSome || m.getLsbD (pa % 128 + i)
/-- L1 bytes under a mask over bytes of the coherent point. -/
def underMask (m : BitVec 128) (x : L1Line) (pa n base : Nat) : Nat :=
  overlay ((List.range n).map fun i =>
    if m.getLsbD (pa % 128 + i) then some (lineByte x.data (pa % 128 + i)) else none) base

/-- Bytes within one line, read for core `k` and a bead life past the context's own entries, which supply `own` (R196, R228): the
value, whether the L2 served the line, the state. -/
def readLine (s : State) (k life : Nat) (hint : BitVec 2) (own : List (Option Byte)) (g : Seg) : Nat × Bool × State :=
  let line := g.pa / 128
  match region s g.pa, paAgent g.pa / 4 == s.pos with
  | .mgmt off, true => (mgmtRead s off g.n, false, s)
  | _, _ =>
    if !cacheable s g.pa g.pte then
      (s.readMem g.pa g.n, false, homeAccess s (agentOfCore s k) line true [])
    else
      match l1Line s k line, hint == 1 with
      | some l, h =>
        if coversRest l.valid g.pa own then (l1Bytes l g.pa g.n, false, s)
        else if h then
          let s1 := readThrough s k line g.pte
          (underMask l.valid l g.pa g.n (s1.readMem g.pa g.n), true, s1)
        else
          let s1 := fillLine s k line g.pte hint
          (match l1Line s1 k line with
            | some x => l1Bytes x g.pa g.n
            | none => s1.readMem g.pa g.n, true, countLater s1 life evFill 1)
      | none, true =>
        let s1 := readThrough s k line g.pte
        (s1.readMem g.pa g.n, true, s1)
      | none, false =>
        let s1 := fillLine s k line g.pte hint
        match l1Line s1 k line with
        | some x => (l1Bytes x g.pa g.n, true, countLater s1 life evFill 1)
        | none => (s1.readMem g.pa g.n, true, s1)

/-- A read takes its bytes, segment by segment (R196, R228): the value, the lines that the L2 served, the state. -/
def readSegs (c life before : Nat) (hint : BitVec 2) : List Seg → Nat × List Nat × State → Nat × List Nat × State
  | [], r => r
  | g :: l, (v, lines, s) =>
    let own := (byteRange g.pa g.n).map (ownByte (s.ctx c) before)
    if own.all (·.isSome) then readSegs c life before hint l (v + overlay own 0 * 2 ^ g.bit, lines, s)
    else
      let (x, served, s1) := readLine s (coreOf c) life hint own g
      readSegs c life before hint l
        (v + overlay own x * 2 ^ g.bit, if served && !lines.contains (g.pa / 128) then lines ++ [g.pa / 128] else lines, s1)

/-- Segments of the frames of a range, cut at lines; their bits start at bit `bit`. -/
def segsOf (f : Frames) (va n bit : Nat) : List Seg :=
  (f.map fun (g, p, e) =>
    let lo := Nat.max va (g * 2 ^ 16)
    let hi := Nat.min (va + n) ((g + 1) * 2 ^ 16)
    ({ pa := p * 2 ^ 16 + lo % 2 ^ 16, va := lo, n := hi - lo, bit := bit + 8 * (lo - va), pte := e } : Seg)).flatMap Seg.lines
/-- The physical ranges of segments. -/
def segRanges (l : List Seg) : List (Nat × Nat) := l.map fun g => (g.pa, g.n)

/-- A released entry holds back the reads that follow its release (R200, R207, R208). -/
def Entry.holdsReads (e : Entry) : Bool := match e.act with
  | .atomic .. => true
  | .cacq .. => true
  | .ctry .. => true
  | _ => false
/-- An entry of the bead that runs in a context, which the bead has left in another slot, holds back what the bead reads since it has resumed
(R200). -/
def heldElsewhere (s : State) (c : Nat) : Bool := (s.ctx c).run.isSome && s.ctxs.any fun (d, x) =>
  d != c && x.storeQ.any fun e => e.holdsReads && e.life == lifeOf s c
/-- Some entry released before number `n` still holds back the reads of a bead life in a context. -/
def readsHeld (s : State) (c life n : Nat) : Bool :=
  (s.ctx c).storeQ.any (fun e => e.holdsReads && decide (e.released < n)) || (life == lifeOf s c && heldElsewhere s c)

/-- A segment's bytes come from below the L1: not all from the context's entries and valid bytes of the L1 (R196, R228). -/
def fromBelow (s : State) (c before : Nat) (g : Seg) : Bool :=
  let own := (byteRange g.pa g.n).map (ownByte (s.ctx c) before)
  !own.all (·.isSome) && (!cacheable s g.pa g.pte || match l1Line s (coreOf c) (g.pa / 128) with
    | some l => !coversRest l.valid g.pa own
    | none => true)
/-- What a read meets below the L1: MCHK at a line that its home does not serve, or SOFT at data kept with an uncorrectable error (R223,
R273). -/
def segFault (s : State) (c before : Nat) (l : List Seg) : Option (TrapCode × Seg) :=
  let below := l.filter (fromBelow s c before)
  match below.find? fun g => refused s (agentOf s c) g.pa g.pte false with
  | some g => some (.mchk, g)
  | none => (below.find? fun g => s.homes.dataErr.contains (g.pa / 128)).map fun g => (.soft, g)
/-- MCHK or SOFT of a read at issue; its fault-log entry is the next one (R223, R273). -/
def issueFaults (s : State) (c : Nat) (k : Slot) (l : List Seg) : List Cause := match segFault s c (s.ctx c).issued l with
  | some (code, g) => [{ causeAt s c k code g.va with log := s.mgmt.flogN, line := some (g.pa / 128) }]
  | none => []

/-- The entry has a host step to take (R206). -/
def hostStep (s : State) (e : Entry) : Bool := match e.act with
  | .store l _ => l.any fun (a, _) => isHost s a
  | .atomic _ pa .. => isHost s pa
  | _ => false
/-- Some entry released before number `n` is still queued. -/
def anyBefore (x : Ctx) (n : Nat) (p : Entry → Bool) : Bool := x.storeQ.any fun e => decide (e.released < n) && p e

/-- A read that an operation makes at issue must wait: earlier reads, an atomic or acquire, bytes not yet formed, the other context's
`phase`, a host step before a read of host memory, or bytes that a transfer or a mutation will write (R207, R209, R228, R239, R250,
R277). -/
def issueReadWaits (s : State) (c : Nat) (l : List Seg) : Option FreezeCause :=
  let x := s.ctx c
  if phaseHolds s c then some .otherPhase
  else if !x.reads.isEmpty || readsHeld s c (lifeOf s c) x.released || meetsUnformed x x.issued l ||
    (l.any (fun g => isHost s g.pa) && anyBefore x x.released (hostStep s)) then some .lateData
  else bytesWait s c (segRanges l)
/-- The translations of the bytes of a read come into the core's TLB (R266). -/
def walkSegs (s : State) (c : Nat) (l : List Seg) : State := l.foldl (fun s g => pageWalk s c g.va) s
/-- The translations of what a pending read reads come into the core's TLB at its issue (R266). -/
def walkRead (s : State) (c : Nat) : ReadWhat → State
  | .bytes l _ => walkSegs s c l
  | _ => s
/-- A read at issue (R228). -/
def issueRead (s : State) (c : Nat) (l : List Seg) : Nat × State :=
  let (v, _, s1) := readSegs c (lifeOf s c) (s.ctx c).issued 0 l (0, [], walkSegs s c l)
  (v, s1)

/-- The lines of elements `j` to `j + n - 1` of row `r` of a tile that lie in it, and of their scales. -/
def TileRef.elemLines (t : TileRef) (r j n : Nat) : List Nat :=
  ((List.range n).flatMap fun k =>
    if r < t.reg.rows ∧ j + k < t.reg.cols then
      let b := t.elemAt r (j + k)
      [t.pa (b / 8) / 128, t.pa ((b + t.reg.bits - 1) / 8) / 128] ++
        (if t.reg.sg = 7 then [] else [t.pa (t.reg.scale + t.reg.scaleIndex r (j + k)) / 128])
    else []).eraseDups
/-- SOFT of an operation that reads lines of a tile in the scratchpad at issue (R273, R336). -/
def tileFaults (s : State) (c : Nat) (k : Slot) (t : TileRef) (l : List Nat) : List Cause :=
  if s.homes.dataErr.isEmpty then []
  else match l.find? s.homes.dataErr.contains with
    | some line => [{ causeAt s c k .soft t.reg.base.toNat with log := s.mgmt.flogN, line := some line }]
    | none => []
/-- An operation that reads lines at issue finds their correctable errors (R273). -/
def seeLines (s : State) (l : List Nat) : State := if s.homes.latent.isEmpty then s else l.foldl findErrors s

/-! ### Landing-part entries (R45, R207) -/

/-- The entries of a load or atomic wait for data, and its read is issued (R45, R207). -/
def startRead (c : Nat) (k : Slot) (d : Nat) (dests : List (Dest × BitVec 1024)) (what : ReadWhat) (s0 : State) : State :=
  let s := walkRead s0 c what
  let x := s.ctx c
  let read (u : Option Nat) : Read :=
    { uid := u, what := what, issuedBefore := x.issued, releasedBefore := x.released, due := x.arch.cc + d, pc := x.pc,
      slot := k, life := lifeOf s c, job := jobOf s c }
  match dests with
  | [] => s.modCtx c fun x => { x with reads := x.reads ++ [read none] }
  | (dst, m) :: _ =>
    let (u, s1) := s.fresh
    let l : Landing :=
      { uid := u, due := x.arch.cc + d, dest := dst, value := 0, mask := m, flags := 0, enables := trapEnables x.arch,
        pc := x.pc, slot := k, load := true, waiting := true, deadline := false, faulty := none, lines := 0 }
    s1.modCtx c fun x => { x with
      reads := x.reads ++ [read (some u)], arch := { x.arch with wtb := x.arch.wtb ++ [l] } }

/-- Landing-part entries of a withheld operation, bound by the release deadline (R208): their names and the state. -/
def startWithheld (c : Nat) (k : Slot) (d : Nat) : List Dest → State → List Nat × State
  | [], s => ([], s)
  | dst :: r, s =>
    let x := s.ctx c
    let (u, s1) := s.fresh
    let l : Landing :=
      { uid := u, due := x.arch.cc + d, dest := dst, value := 0, mask := BitVec.allOnes 1024, flags := 0,
        enables := trapEnables x.arch, pc := x.pc, slot := k, load := true, waiting := true, deadline := true,
        faulty := none, lines := 0 }
    let s2 := s1.modArch c fun a => { a with wtb := a.wtb ++ [l] }
    let (us, s3) := startWithheld c k d r s2
    (u :: us, s3)

/-- The data of a landing-part entry arrives (R46): in the write-timing buffer, in the shadow's copy and in a saved
bead's. -/
def fillEntry (u : Nat) (f : Landing → Landing) (l : List Landing) : List Landing :=
  l.map fun e => if e.load && e.waiting && e.uid == u then f e else e
/-- The data of an entry arrives in a set of shadowed state. -/
def fillArch (u : Nat) (f : Landing → Landing) (a : Arch) : Arch := { a with wtb := fillEntry u f a.wtb }
/-- The data of an entry arrives in a context. -/
def fillCtx (u : Nat) (f : Landing → Landing) (x : Ctx) : Ctx :=
  { x with arch := fillArch u f x.arch, shadow := fillArch u f x.shadow }
/-- The data of an entry arrives in a saved bead. -/
def fillSaved (u : Nat) (f : Landing → Landing) (x : Saved) : Saved :=
  { x with arch := fillArch u f x.arch, shadow := fillArch u f x.shadow }
/-- The data of entry `u` arrives wherever the entry is held (R46, R208, R333). -/
def deliver (s : State) (u : Nat) (f : Landing → Landing) : State :=
  let s1 := { s with ctxs := List.map (fun (p : Nat × Ctx) => (p.1, fillCtx u f p.2)) s.ctxs }
  s1.modHub fun h => { h with saved := List.map (fun (p : Nat × Saved) => (p.1, fillSaved u f p.2)) h.saved }
/-- The data of an entry arrives as a plain value. -/
def deliverValue (s : State) (u v : Nat) : State :=
  deliver s u fun l => { l with value := BitVec.ofNat 1024 v, waiting := false }

end Sys2Proof.Machine
end

