-- ==== Sys2Proof/Machine/Scalar.lean ====
section
/-! DEFINITION. Scalar integer, floating-point and predicate operations, moves and transfers of control (spec 04). -/
namespace Sys2Proof.Machine

/-! ### Shared operand reading and landing (R70 to R74) -/

/-- Bits of an integer operation's size (R25, R70). -/
def sizeBits (z : BitVec 2) : Nat := 8 * 2 ^ z.toNat
/-- The immediate of an integer S operation (R34). -/
def immInt (a : SArgs) : W64 := a.imm.signExtend 64
/-- A source value of an integer S operation (R70). -/
def srcS (r : Arch) (a : SArgs) (q : Port) : W64 := readScalar r (immInt a) q
/-- Bits [N-1:0] of a source (R70). -/
def srcN (r : Arch) (a : SArgs) (q : Port) : Nat := (srcS r a q).toNat % 2 ^ sizeBits a.size

/-- What an S operation reads: its predicate and its sources (R15). -/
def readsS (a : SArgs) (l : List Port) : List Nat := reading a.pred l

/-- A scalar result lands in its destination and in a latch, unless the operation is disabled (R72, R73). -/
def scalarResult (r : Arch) (a : SArgs) (lat : Nat) (latch : Dest) (v : Nat) (fl : Flags) : List Result :=
  if enabledS r a.pred a.neg then
    landPort a.dst lat (BitVec.ofNat 1024 v) ++ [landLatch latch lat (BitVec.ofNat 1024 v)] ++ landFlags lat fl
  else []

/-- A result of an integer operation of size N (R70, R75). -/
def intOp (a : SArgs) (srcs : List Port) (v : Arch → Nat) : OpFn := fun c s =>
  let r := (s.ctx c).arch
  { slot := .s, reads := readsS a srcs
    lands := scalarResult r a 1 .iq (v r % 2 ^ sizeBits a.size) 0 }

/-- An integer operation of two sources (R75). -/
def intOp2 (a : SArgs) (f : Nat → Nat → Nat → Nat) : OpFn :=
  intOp a [a.a, a.b] fun r => f (sizeBits a.size) (srcN r a a.a) (srcN r a a.b)
/-- An integer operation of one source (R75). -/
def intOp1 (a : SArgs) (f : Nat → Nat → Nat) : OpFn := intOp a [a.a] fun r => f (sizeBits a.size) (srcN r a a.a)

/-! ### Integer functions (R75 to R77) -/

/-- Signed value of an N-bit number. -/
def sgn (n x : Nat) : Int := sextNat n x
/-- N-bit encoding of an integer. -/
def enc (n : Nat) (v : Int) : Nat := (v % 2 ^ n).toNat

/-- Rotate left within N bits (R76). -/
def rolN (n x k : Nat) : Nat := (x * 2 ^ k % 2 ^ n) + x / 2 ^ (n - k)
/-- Arithmetic shift right (R76). -/
def sarN (n x k : Nat) : Nat := enc n (sgn n x / 2 ^ k)
/-- Leading zero bits (R77). -/
def clzN (n x : Nat) : Nat := if x = 0 then n else n - 1 - Nat.log2 x
/-- Trailing zero bits, looking at `fuel` bits. -/
def ctzN : Nat → Nat → Nat
  | 0, _ => 0
  | n + 1, x => if x % 2 = 1 then 0 else 1 + ctzN n (x / 2)
/-- One bits. -/
def popcN : Nat → Nat → Nat
  | 0, _ => 0
  | n + 1, x => x % 2 + popcN n (x / 2)
/-- The bytes in reverse order, `n` of them. -/
def bswapN : Nat → Nat → Nat
  | 0, _ => 0
  | n + 1, x => x % 256 * 256 ^ n + bswapN n (x / 256)
/-- Position of a field operand: bits [5:0] (R77). -/
def fieldPos (b : W64) : Nat := b.toNat % 64
/-- Length of a field operand: bits [14:8], at most N (R77). -/
def fieldLen (n : Nat) (b : W64) : Nat := min (b.toNat / 256 % 128) n
/-- The extracted field (R77). -/
def bextN (n x : Nat) (b : W64) : Nat := x / 2 ^ fieldPos b % 2 ^ fieldLen n b
/-- The inserted field (R77). -/
def binsN (n old x : Nat) (b : W64) : Nat :=
  let p := fieldPos b
  let l := min (fieldLen n b) (n - p)
  old - old / 2 ^ p % 2 ^ l * 2 ^ p + x % 2 ^ l * 2 ^ p

/-! ### Compares (R78, R81) -/

/-- The value a compare writes: 128 copies in a predicate, a number in a scalar (R78). -/
def truthOf (d : Port) (t : Bool) : Nat := if t then (if d.isP then 2 ^ 128 - 1 else 1) else 0
/-- A compare's result: in iq its bits [63:0] (R73, R78). -/
def compareResult (r : Arch) (a : SArgs) (t : Bool) (fl : Flags) : List Result :=
  if enabledS r a.pred a.neg then
    let v := truthOf a.dst t
    landPort a.dst 1 (BitVec.ofNat 1024 v) ++ [landLatch .iq 1 (BitVec.ofNat 1024 (v % 2 ^ 64))] ++ landFlags 1 fl
  else []
/-- An integer compare. -/
def cmpOp (a : SArgs) (f : Nat → Nat → Nat → Bool) : OpFn := fun c s =>
  let r := (s.ctx c).arch
  { slot := .s, reads := readsS a [a.a, a.b]
    lands := compareResult r a (f (sizeBits a.size) (srcN r a a.a) (srcN r a a.b)) 0 }

/-! ### Floating point (R71, R80) -/

/-- The format of a floating-point S operation (R25). -/
def fmtS (z : BitVec 2) : FFmt := match z.toNat with
  | 0 => .bf16
  | 1 => .f16
  | _ => .f32

/-- An immediate read in format `f`, whose size code is `code`: a binary32 pattern converted exactly; a value that the
format does not hold is free (R34; log 16).  A NaN reads as the default NaN of bf16 or f16 (log 134). -/
def immFloat (f : FFmt) (code : Nat) (imm : BitVec 23) : Nat :=
  let x := imm.toNat * 2 ^ 9
  if f = .f32 then x
  else match decodeF .f32 x with
    | .nan _ => f.nan
    | v =>
      let (y, fl) := packF f .rne v
      if fl = 0 then y else (Config.inexactImmediate code imm).toNat % 2 ^ f.width

/-- A source of a floating-point S operation, read in format `f` (R33, R34, R71). -/
def floatSource (r : Arch) (a : SArgs) (f : FFmt) (code : Nat) (q : Port) : Nat :=
  match q with
  | .const k => (packF f .rne (ofInt (constVal k))).1
  | .imm => immFloat f code a.imm
  | q => (readScalar r 0 q).toNat % 2 ^ f.width
/-- A source in the operation's format. -/
def srcF (r : Arch) (a : SArgs) (q : Port) : Nat := floatSource r a (fmtS a.size) a.size.toNat q
/-- A decoded source. -/
def valF (r : Arch) (a : SArgs) (q : Port) : FVal := decodeF (fmtS a.size) (srcF r a q)

/-- A floating-point result of latency 4 in fq (R73, R80). -/
def floatOp (a : SArgs) (srcs : List Port) (v : Arch → Nat × Flags) : OpFn := fun c s =>
  let r := (s.ctx c).arch
  { slot := .s, reads := readsS a srcs, lands := scalarResult r a 4 .fq (v r).1 (v r).2 }
/-- A special function: latency 14, no latch (R39, R84). -/
def specialOp (a : SArgs) (srcs : List Port) (v : Arch → Nat × Flags) : OpFn := fun c s =>
  let r := (s.ctx c).arch
  { slot := .s, reads := readsS a srcs
    lands := if enabledS r a.pred a.neg then landPort a.dst 14 (BitVec.ofNat 1024 (v r).1) ++ landFlags 14 (v r).2
      else [] }
/-- A floating-point compare (R81). -/
def fcmpOp (a : SArgs) (k : FCond) : OpFn := fun c s =>
  let r := (s.ctx c).arch
  let (t, fl) := cmpF (fmtS a.size) k (srcF r a a.a) (srcF r a a.b)
  { slot := .s, reads := readsS a [a.a, a.b], lands := compareResult r a t fl }

/-! ### Predicates (R85) -/

/-- A predicate operand. -/
def srcP (r : Arch) : Port → Pred
  | .p n => pReg r n
  | _ => 0
/-- A predicate result: 128 bits in its destination, bits [63:0] in iq (R73). -/
def predOp (a : SArgs) (srcs : List Port) (v : Arch → BitVec 128) : OpFn := fun c s =>
  let r := (s.ctx c).arch
  { slot := .s, reads := readsS a srcs
    lands := if enabledS r a.pred a.neg then
        landPort a.dst 1 ((v r).zeroExtend 1024) ++ [landLatch .iq 1 (((v r).extractLsb' 0 64).zeroExtend 1024)]
      else [] }
/-- A test of a predicate. -/
def predTest (a : SArgs) (f : Pred → Bool) : OpFn := fun c s =>
  let r := (s.ctx c).arch
  { slot := .s, reads := readsS a [a.a], lands := compareResult r a (f (srcP r a.a)) 0 }

/-! ### Transfers of control (R86 to R89) -/

/-- The target of a transfer: pc + 64 imm23, or a register (R86). -/
def jumpTarget (r : Arch) (a : SArgs) (pc : Nat) : Nat := match a.a with
  | .imm => (((pc : Int) + 64 * a.imm.toInt) % 2 ^ 64).toNat
  | q => (readScalar r 0 q).toNat
/-- A transfer: ALIGN for a misaligned target, else the target is pending (R86, R87). -/
def transferOp (a : SArgs) (link : Bool) : OpFn := fun c s =>
  let x := s.ctx c
  let r := x.arch
  let t := jumpTarget r a x.pc
  let on := enabledS r a.pred a.neg
  { slot := .s, reads := readsS a [a.a]
    traps := trapIf (on && t % 64 != 0) s c .s .align t
    jump := if on then some t else none
    lands := if link then scalarResult r a 1 .iq ((x.pc + 128) % 2 ^ 64) 0 else [] }

/-- What an enabled `loop` does to the loop stack, innermost entry first (R89). -/
def loopStack (l : List LoopEntry) (start n : Nat) : List LoopEntry :=
  if n = 0 then l.drop 1 else { start := start, remaining := n } :: l

/-- `add` (R75). -/
def opAdd (a : SArgs) : OpFn := intOp2 a fun _ x y => x + y
/-- `add` (R75). -/
def execAdd (a : SArgs) (s : State) : Host.Outcome State Fault Refusal :=
  issueAlone (.add a) .s (opAdd a) s

/-- `sub` (R75). -/
def opSub (a : SArgs) : OpFn := intOp2 a fun n x y => x + (2 ^ n - y)
/-- `sub` (R75). -/
def execSub (a : SArgs) (s : State) : Host.Outcome State Fault Refusal :=
  issueAlone (.sub a) .s (opSub a) s

/-- `mul` (R75). -/
def opMul (a : SArgs) : OpFn := intOp2 a fun _ x y => x * y
/-- `mul` (R75). -/
def execMul (a : SArgs) (s : State) : Host.Outcome State Fault Refusal :=
  issueAlone (.mul a) .s (opMul a) s

/-- `mulh`: the high half of the signed product (R75). -/
def opMulh (a : SArgs) : OpFn := intOp2 a fun n x y => enc n (sgn n x * sgn n y / 2 ^ n)
/-- `mulh`: the high half of the signed product (R75). -/
def execMulh (a : SArgs) (s : State) : Host.Outcome State Fault Refusal :=
  issueAlone (.mulh a) .s (opMulh a) s

/-- `mulhn`: the high half of the natural product (R75). -/
def opMulhn (a : SArgs) : OpFn := intOp2 a fun n x y => x * y / 2 ^ n
/-- `mulhn`: the high half of the natural product (R75). -/
def execMulhn (a : SArgs) (s : State) : Host.Outcome State Fault Refusal :=
  issueAlone (.mulhn a) .s (opMulhn a) s

/-- `neg` (R75). -/
def opNeg (a : SArgs) : OpFn := intOp1 a fun n x => 2 ^ n - x
/-- `neg` (R75). -/
def execNeg (a : SArgs) (s : State) : Host.Outcome State Fault Refusal :=
  issueAlone (.neg a) .s (opNeg a) s

/-- `abs`: the most negative value maps to itself (R75). -/
def opAbs (a : SArgs) : OpFn := intOp1 a fun n x => (sgn n x).natAbs
/-- `abs`: the most negative value maps to itself (R75). -/
def execAbs (a : SArgs) (s : State) : Host.Outcome State Fault Refusal :=
  issueAlone (.abs a) .s (opAbs a) s

/-- `min`, signed (R75). -/
def opMin (a : SArgs) : OpFn := intOp2 a fun n x y => if sgn n x ≤ sgn n y then x else y
/-- `min`, signed (R75). -/
def execMin (a : SArgs) (s : State) : Host.Outcome State Fault Refusal :=
  issueAlone (.min a) .s (opMin a) s

/-- `max`, signed (R75). -/
def opMax (a : SArgs) : OpFn := intOp2 a fun n x y => if sgn n x ≤ sgn n y then y else x
/-- `max`, signed (R75). -/
def execMax (a : SArgs) (s : State) : Host.Outcome State Fault Refusal :=
  issueAlone (.max a) .s (opMax a) s

/-- `minn`, natural (R75). -/
def opMinn (a : SArgs) : OpFn := intOp2 a fun _ x y => if x ≤ y then x else y
/-- `minn`, natural (R75). -/
def execMinn (a : SArgs) (s : State) : Host.Outcome State Fault Refusal :=
  issueAlone (.minn a) .s (opMinn a) s

/-- `maxn`, natural (R75). -/
def opMaxn (a : SArgs) : OpFn := intOp2 a fun _ x y => if x ≤ y then y else x
/-- `maxn`, natural (R75). -/
def execMaxn (a : SArgs) (s : State) : Host.Outcome State Fault Refusal :=
  issueAlone (.maxn a) .s (opMaxn a) s

/-- `and` (R76). -/
def opAnd (a : SArgs) : OpFn := intOp2 a fun _ x y => x &&& y
/-- `and` (R76). -/
def execAnd (a : SArgs) (s : State) : Host.Outcome State Fault Refusal :=
  issueAlone (.and a) .s (opAnd a) s

/-- `or` (R76). -/
def opOr (a : SArgs) : OpFn := intOp2 a fun _ x y => x ||| y
/-- `or` (R76). -/
def execOr (a : SArgs) (s : State) : Host.Outcome State Fault Refusal :=
  issueAlone (.or a) .s (opOr a) s

/-- `xor` (R76). -/
def opXor (a : SArgs) : OpFn := intOp2 a fun _ x y => x ^^^ y
/-- `xor` (R76). -/
def execXor (a : SArgs) (s : State) : Host.Outcome State Fault Refusal :=
  issueAlone (.xor a) .s (opXor a) s

/-- `andn`: a AND NOT b (R76). -/
def opAndn (a : SArgs) : OpFn := intOp2 a fun n x y => x &&& (2 ^ n - 1 - y)
/-- `andn`: a AND NOT b (R76). -/
def execAndn (a : SArgs) (s : State) : Host.Outcome State Fault Refusal :=
  issueAlone (.andn a) .s (opAndn a) s

/-- `not` (R76). -/
def opNot (a : SArgs) : OpFn := intOp1 a fun n x => 2 ^ n - 1 - x
/-- `not` (R76). -/
def execNot (a : SArgs) (s : State) : Host.Outcome State Fault Refusal :=
  issueAlone (.not a) .s (opNot a) s

/-- `shl` (R76). -/
def opShl (a : SArgs) : OpFn := intOp2 a fun n x y => x * 2 ^ (y % n)
/-- `shl` (R76). -/
def execShl (a : SArgs) (s : State) : Host.Outcome State Fault Refusal :=
  issueAlone (.shl a) .s (opShl a) s

/-- `shr` (R76). -/
def opShr (a : SArgs) : OpFn := intOp2 a fun n x y => x / 2 ^ (y % n)
/-- `shr` (R76). -/
def execShr (a : SArgs) (s : State) : Host.Outcome State Fault Refusal :=
  issueAlone (.shr a) .s (opShr a) s

/-- `sar` (R76). -/
def opSar (a : SArgs) : OpFn := intOp2 a fun n x y => sarN n x (y % n)
/-- `sar` (R76). -/
def execSar (a : SArgs) (s : State) : Host.Outcome State Fault Refusal :=
  issueAlone (.sar a) .s (opSar a) s

/-- `rol` (R76). -/
def opRol (a : SArgs) : OpFn := intOp2 a fun n x y => rolN n x (y % n)
/-- `rol` (R76). -/
def execRol (a : SArgs) (s : State) : Host.Outcome State Fault Refusal :=
  issueAlone (.rol a) .s (opRol a) s

/-- `clz` (R77). -/
def opClz (a : SArgs) : OpFn := intOp1 a clzN
/-- `clz` (R77). -/
def execClz (a : SArgs) (s : State) : Host.Outcome State Fault Refusal :=
  issueAlone (.clz a) .s (opClz a) s

/-- `ctz` (R77). -/
def opCtz (a : SArgs) : OpFn := intOp1 a ctzN
/-- `ctz` (R77). -/
def execCtz (a : SArgs) (s : State) : Host.Outcome State Fault Refusal :=
  issueAlone (.ctz a) .s (opCtz a) s

/-- `popc` (R77). -/
def opPopc (a : SArgs) : OpFn := intOp1 a popcN
/-- `popc` (R77). -/
def execPopc (a : SArgs) (s : State) : Host.Outcome State Fault Refusal :=
  issueAlone (.popc a) .s (opPopc a) s

/-- `bext`: the field operand is read whole (R77). -/
def opBext (a : SArgs) : OpFn := intOp a [a.a, a.b] fun r => bextN (sizeBits a.size) (srcN r a a.a) (srcS r a a.b)
/-- `bext`: the field operand is read whole (R77). -/
def execBext (a : SArgs) (s : State) : Host.Outcome State Fault Refusal :=
  issueAlone (.bext a) .s (opBext a) s

/-- `bins`: reads its destination (R77, R72). -/
def opBins (a : SArgs) : OpFn := intOp a [a.a, a.b, a.dst] fun r =>
  binsN (sizeBits a.size) (srcN r a a.dst) (srcN r a a.a) (srcS r a a.b)
/-- `bins`: reads its destination (R77, R72). -/
def execBins (a : SArgs) (s : State) : Host.Outcome State Fault Refusal :=
  issueAlone (.bins a) .s (opBins a) s

/-- `bswap` (R77). -/
def opBswap (a : SArgs) : OpFn := intOp1 a fun n x => bswapN (n / 8) x
/-- `bswap` (R77). -/
def execBswap (a : SArgs) (s : State) : Host.Outcome State Fault Refusal :=
  issueAlone (.bswap a) .s (opBswap a) s

/-- `cmp.eq` (R78). -/
def opCmpEq (a : SArgs) : OpFn := cmpOp a fun _ x y => x == y
/-- `cmp.eq` (R78). -/
def execCmpEq (a : SArgs) (s : State) : Host.Outcome State Fault Refusal :=
  issueAlone (.cmpEq a) .s (opCmpEq a) s

/-- `cmp.ne` (R78). -/
def opCmpNe (a : SArgs) : OpFn := cmpOp a fun _ x y => x != y
/-- `cmp.ne` (R78). -/
def execCmpNe (a : SArgs) (s : State) : Host.Outcome State Fault Refusal :=
  issueAlone (.cmpNe a) .s (opCmpNe a) s

/-- `cmp.lt`, signed (R78). -/
def opCmpLt (a : SArgs) : OpFn := cmpOp a fun n x y => decide (sgn n x < sgn n y)
/-- `cmp.lt`, signed (R78). -/
def execCmpLt (a : SArgs) (s : State) : Host.Outcome State Fault Refusal :=
  issueAlone (.cmpLt a) .s (opCmpLt a) s

/-- `cmp.le`, signed (R78). -/
def opCmpLe (a : SArgs) : OpFn := cmpOp a fun n x y => decide (sgn n x ≤ sgn n y)
/-- `cmp.le`, signed (R78). -/
def execCmpLe (a : SArgs) (s : State) : Host.Outcome State Fault Refusal :=
  issueAlone (.cmpLe a) .s (opCmpLe a) s

/-- `cmp.ltn`, natural (R78). -/
def opCmpLtn (a : SArgs) : OpFn := cmpOp a fun _ x y => decide (x < y)
/-- `cmp.ltn`, natural (R78). -/
def execCmpLtn (a : SArgs) (s : State) : Host.Outcome State Fault Refusal :=
  issueAlone (.cmpLtn a) .s (opCmpLtn a) s

/-- `cmp.len`, natural (R78). -/
def opCmpLen (a : SArgs) : OpFn := cmpOp a fun _ x y => decide (x ≤ y)
/-- `cmp.len`, natural (R78). -/
def execCmpLen (a : SArgs) (s : State) : Host.Outcome State Fault Refusal :=
  issueAlone (.cmpLen a) .s (opCmpLen a) s

/-- `mov` (R79). -/
def opMov (a : SArgs) : OpFn := intOp1 a fun _ x => x
/-- `mov` (R79). -/
def execMov (a : SArgs) (s : State) : Host.Outcome State Fault Refusal :=
  issueAlone (.mov a) .s (opMov a) s

/-- `sel`: its predicate selects, and it is never disabled (R72, R79). -/
def opSel (a : SArgs) : OpFn := fun c s =>
  let r := (s.ctx c).arch
  let q := if enabledS r a.pred a.neg then a.a else a.b
  let v := BitVec.ofNat 1024 (srcN r a q)
  { slot := .s, reads := readsS a [a.a, a.b], lands := landPort a.dst 1 v ++ [landLatch .iq 1 v] }
/-- `sel`: its predicate selects, and it is never disabled (R72, R79). -/
def execSel (a : SArgs) (s : State) : Host.Outcome State Fault Refusal :=
  issueAlone (.sel a) .s (opSel a) s

/-- `li` (R79). -/
def opLi (a : SArgs) : OpFn := intOp1 a fun _ x => x
/-- `li` (R79). -/
def execLi (a : SArgs) (s : State) : Host.Outcome State Fault Refusal :=
  issueAlone (.li a) .s (opLi a) s

/-- `lih`: 16 bits of b at bit 16K of a (R79). -/
def opLih (a : SArgs) : OpFn := fun c s =>
  let r := (s.ctx c).arch
  { slot := .s, reads := readsS a [a.a, a.b]
    lands := scalarResult r a 1 .iq
      (putBits (srcS r a a.a).toNat (16 * a.size.toNat) 16 ((srcS r a a.b).toNat % 2 ^ 16)) 0 }
/-- `lih`: 16 bits of b at bit 16K of a (R79). -/
def execLih (a : SArgs) (s : State) : Host.Outcome State Fault Refusal :=
  issueAlone (.lih a) .s (opLih a) s

/-- `lea`: shifts 0, 2, 3 and 7; an immediate b takes shift 0 (R79; log 143). -/
def opLea (a : SArgs) : OpFn := fun c s =>
  let r := (s.ctx c).arch
  let k := if a.b = .imm then 0 else match a.size.toNat with
    | 0 => 0
    | 1 => 2
    | 2 => 3
    | _ => 7
  { slot := .s, reads := readsS a [a.a, a.b]
    lands := scalarResult r a 1 .iq (((srcS r a a.a).toNat + (srcS r a a.b).toNat * 2 ^ k) % 2 ^ 64) 0 }
/-- `lea`: shifts 0, 2, 3 and 7 (R79). -/
def execLea (a : SArgs) (s : State) : Host.Outcome State Fault Refusal :=
  issueAlone (.lea a) .s (opLea a) s

/-- `fadd` (R80). -/
def opFadd (a : SArgs) : OpFn := floatOp a [a.a, a.b] fun r => addF (fmtS a.size) (dynamicMode r) (valF r a a.a) (valF r a a.b)
/-- `fadd` (R80). -/
def execFadd (a : SArgs) (s : State) : Host.Outcome State Fault Refusal :=
  issueAlone (.fadd a) .s (opFadd a) s

/-- `fsub` (R80). -/
def opFsub (a : SArgs) : OpFn := floatOp a [a.a, a.b] fun r => addF (fmtS a.size) (dynamicMode r) (valF r a a.a) (valF r a a.b).negate
/-- `fsub` (R80). -/
def execFsub (a : SArgs) (s : State) : Host.Outcome State Fault Refusal :=
  issueAlone (.fsub a) .s (opFsub a) s

/-- `fmul` (R80). -/
def opFmul (a : SArgs) : OpFn := floatOp a [a.a, a.b] fun r => mulF (fmtS a.size) (dynamicMode r) (valF r a a.a) (valF r a a.b)
/-- `fmul` (R80). -/
def execFmul (a : SArgs) (s : State) : Host.Outcome State Fault Refusal :=
  issueAlone (.fmul a) .s (opFmul a) s

/-- `fma`: reads its destination (R80). -/
def opFma (a : SArgs) : OpFn := floatOp a [a.a, a.b, a.dst] fun r =>
  fmaF (fmtS a.size) (dynamicMode r) (valF r a a.dst) (valF r a a.a) (valF r a a.b)
/-- `fma`: reads its destination (R80). -/
def execFma (a : SArgs) (s : State) : Host.Outcome State Fault Refusal :=
  issueAlone (.fma a) .s (opFma a) s

/-- `fnma`: reads its destination (R80). -/
def opFnma (a : SArgs) : OpFn := floatOp a [a.a, a.b, a.dst] fun r =>
  fnmaF (fmtS a.size) (dynamicMode r) (valF r a a.dst) (valF r a a.a) (valF r a a.b)
/-- `fnma`: reads its destination (R80). -/
def execFnma (a : SArgs) (s : State) : Host.Outcome State Fault Refusal :=
  issueAlone (.fnma a) .s (opFnma a) s

/-- `fmin` (R80). -/
def opFmin (a : SArgs) : OpFn := floatOp a [a.a, a.b] fun r => minMaxF (fmtS a.size) false (srcF r a a.a) (srcF r a a.b)
/-- `fmin` (R80). -/
def execFmin (a : SArgs) (s : State) : Host.Outcome State Fault Refusal :=
  issueAlone (.fmin a) .s (opFmin a) s

/-- `fmax` (R80). -/
def opFmax (a : SArgs) : OpFn := floatOp a [a.a, a.b] fun r => minMaxF (fmtS a.size) true (srcF r a a.a) (srcF r a a.b)
/-- `fmax` (R80). -/
def execFmax (a : SArgs) (s : State) : Host.Outcome State Fault Refusal :=
  issueAlone (.fmax a) .s (opFmax a) s

/-- `fabs` (R80). -/
def opFabs (a : SArgs) : OpFn := floatOp a [a.a] fun r => (absF (fmtS a.size) (srcF r a a.a), 0)
/-- `fabs` (R80). -/
def execFabs (a : SArgs) (s : State) : Host.Outcome State Fault Refusal :=
  issueAlone (.fabs a) .s (opFabs a) s

/-- `fneg` (R80). -/
def opFneg (a : SArgs) : OpFn := floatOp a [a.a] fun r => (negF (fmtS a.size) (srcF r a a.a), 0)
/-- `fneg` (R80). -/
def execFneg (a : SArgs) (s : State) : Host.Outcome State Fault Refusal :=
  issueAlone (.fneg a) .s (opFneg a) s

/-- `fcmp.eq` (R81). -/
def opFcmpEq (a : SArgs) : OpFn := fcmpOp a .eq
/-- `fcmp.eq` (R81). -/
def execFcmpEq (a : SArgs) (s : State) : Host.Outcome State Fault Refusal :=
  issueAlone (.fcmpEq a) .s (opFcmpEq a) s

/-- `fcmp.ne` (R81). -/
def opFcmpNe (a : SArgs) : OpFn := fcmpOp a .ne
/-- `fcmp.ne` (R81). -/
def execFcmpNe (a : SArgs) (s : State) : Host.Outcome State Fault Refusal :=
  issueAlone (.fcmpNe a) .s (opFcmpNe a) s

/-- `fcmp.lt` (R81). -/
def opFcmpLt (a : SArgs) : OpFn := fcmpOp a .lt
/-- `fcmp.lt` (R81). -/
def execFcmpLt (a : SArgs) (s : State) : Host.Outcome State Fault Refusal :=
  issueAlone (.fcmpLt a) .s (opFcmpLt a) s

/-- `fcmp.le` (R81). -/
def opFcmpLe (a : SArgs) : OpFn := fcmpOp a .le
/-- `fcmp.le` (R81). -/
def execFcmpLe (a : SArgs) (s : State) : Host.Outcome State Fault Refusal :=
  issueAlone (.fcmpLe a) .s (opFcmpLe a) s

/-- `fcmp.un` (R81). -/
def opFcmpUn (a : SArgs) : OpFn := fcmpOp a .un
/-- `fcmp.un` (R81). -/
def execFcmpUn (a : SArgs) (s : State) : Host.Outcome State Fault Refusal :=
  issueAlone (.fcmpUn a) .s (opFcmpUn a) s

/-- `fcvt`: types and rounding in imm23 (R83).  Where U is an integer type, the immediate port as the source gives imm23 sign-extended, as
for an integer operation, which R34 and R83 do not settle (log 159, DESIGN CHOICE). -/
def opFcvt (a : SArgs) : OpFn := floatOp a [a.a] fun r =>
  match ETy.ofCode (a.imm.extractLsb' 0 4), ETy.ofCode (a.imm.extractLsb' 4 4) with
  | some t, some u =>
    let x := if u.isInt then (srcS r a a.a).toNat % 2 ^ u.bits
      else floatSource r a (ffmt u) (if u == .bf16 then 0 else 1) a.a
    convert t u (modeOf r (a.imm.extractLsb' 8 3)) x
  | _, _ => (0, 0)
/-- `fcvt`: types and rounding in imm23 (R83). -/
def execFcvt (a : SArgs) (s : State) : Host.Outcome State Fault Refusal :=
  issueAlone (.fcvt a) .s (opFcvt a) s

/-- `fclass` (R82). -/
def opFclass (a : SArgs) : OpFn := floatOp a [a.a] fun r => (classF (fmtS a.size) (srcF r a a.a), 0)
/-- `fclass` (R82). -/
def execFclass (a : SArgs) (s : State) : Host.Outcome State Fault Refusal :=
  issueAlone (.fclass a) .s (opFclass a) s

/-- `fdiv` (R84). -/
def opFdiv (a : SArgs) : OpFn := specialOp a [a.a, a.b] fun r => divF (fmtS a.size) (dynamicMode r) (valF r a a.a) (valF r a a.b)
/-- `fdiv` (R84). -/
def execFdiv (a : SArgs) (s : State) : Host.Outcome State Fault Refusal :=
  issueAlone (.fdiv a) .s (opFdiv a) s

/-- `fsqrt` (R84). -/
def opFsqrt (a : SArgs) : OpFn := specialOp a [a.a] fun r => sqrtF (fmtS a.size) (dynamicMode r) (valF r a a.a)
/-- `fsqrt` (R84). -/
def execFsqrt (a : SArgs) (s : State) : Host.Outcome State Fault Refusal :=
  issueAlone (.fsqrt a) .s (opFsqrt a) s

/-- `frsqrt` (R84). -/
def opFrsqrt (a : SArgs) : OpFn := specialOp a [a.a] fun r => rsqrtF (fmtS a.size) (dynamicMode r) (valF r a a.a)
/-- `frsqrt` (R84). -/
def execFrsqrt (a : SArgs) (s : State) : Host.Outcome State Fault Refusal :=
  issueAlone (.frsqrt a) .s (opFrsqrt a) s

/-- `pand` (R85). -/
def opPand (a : SArgs) : OpFn := predOp a [a.a, a.b] fun r => srcP r a.a &&& srcP r a.b
/-- `pand` (R85). -/
def execPand (a : SArgs) (s : State) : Host.Outcome State Fault Refusal :=
  issueAlone (.pand a) .s (opPand a) s

/-- `por` (R85). -/
def opPor (a : SArgs) : OpFn := predOp a [a.a, a.b] fun r => srcP r a.a ||| srcP r a.b
/-- `por` (R85). -/
def execPor (a : SArgs) (s : State) : Host.Outcome State Fault Refusal :=
  issueAlone (.por a) .s (opPor a) s

/-- `pxor` (R85). -/
def opPxor (a : SArgs) : OpFn := predOp a [a.a, a.b] fun r => srcP r a.a ^^^ srcP r a.b
/-- `pxor` (R85). -/
def execPxor (a : SArgs) (s : State) : Host.Outcome State Fault Refusal :=
  issueAlone (.pxor a) .s (opPxor a) s

/-- `pandn` (R85). -/
def opPandn (a : SArgs) : OpFn := predOp a [a.a, a.b] fun r => srcP r a.a &&& ~~~(srcP r a.b)
/-- `pandn` (R85). -/
def execPandn (a : SArgs) (s : State) : Host.Outcome State Fault Refusal :=
  issueAlone (.pandn a) .s (opPandn a) s

/-- `pmov` between predicates (R85). -/
def opPmov (a : SArgs) : OpFn := predOp a [a.a] fun r => srcP r a.a
/-- `pmov` between predicates (R85). -/
def execPmov (a : SArgs) (s : State) : Host.Outcome State Fault Refusal :=
  issueAlone (.pmov a) .s (opPmov a) s

/-- `pmov.lo`: the low half to or from a scalar (R85). -/
def opPmovLo (a : SArgs) : OpFn := predOp a [a.a] fun r =>
  if a.dst.isP then (readScalar r 0 a.a).zeroExtend 128 else ((srcP r a.a).extractLsb' 0 64).zeroExtend 128
/-- `pmov.lo`: the low half to or from a scalar (R85). -/
def execPmovLo (a : SArgs) (s : State) : Host.Outcome State Fault Refusal :=
  issueAlone (.pmovLo a) .s (opPmovLo a) s

/-- `pmov.hi`: the high half to or from a scalar; into a predicate it reads its destination (R85, R72). -/
def opPmovHi (a : SArgs) : OpFn := 
  predOp a (a.a :: if a.dst.isP then [a.dst] else []) fun r =>
    if a.dst.isP then readScalar r 0 a.a ++ (srcP r a.dst).extractLsb' 0 64
    else ((srcP r a.a).extractLsb' 64 64).zeroExtend 128
/-- `pmov.hi`: the high half to or from a scalar; into a predicate it reads its destination (R85, R72). -/
def execPmovHi (a : SArgs) (s : State) : Host.Outcome State Fault Refusal :=
  issueAlone (.pmovHi a) .s (opPmovHi a) s

/-- `pany` (R85). -/
def opPany (a : SArgs) : OpFn := predTest a fun p => p != 0
/-- `pany` (R85). -/
def execPany (a : SArgs) (s : State) : Host.Outcome State Fault Refusal :=
  issueAlone (.pany a) .s (opPany a) s

/-- `pall` (R85). -/
def opPall (a : SArgs) : OpFn := predTest a fun p => p == BitVec.allOnes 128
/-- `pall` (R85). -/
def execPall (a : SArgs) (s : State) : Host.Outcome State Fault Refusal :=
  issueAlone (.pall a) .s (opPall a) s

/-- `br` (R86). -/
def opBr (a : SArgs) : OpFn := transferOp a false
/-- `br` (R86). -/
def execBr (a : SArgs) (s : State) : Host.Outcome State Fault Refusal :=
  issueAlone (.br a) .s (opBr a) s

/-- `jmp` (R86). -/
def opJmp (a : SArgs) : OpFn := transferOp a false
/-- `jmp` (R86). -/
def execJmp (a : SArgs) (s : State) : Host.Outcome State Fault Refusal :=
  issueAlone (.jmp a) .s (opJmp a) s

/-- `call`: the link is pc + 128 (R86). -/
def opCall (a : SArgs) : OpFn := transferOp a true
/-- `call`: the link is pc + 128 (R86). -/
def execCall (a : SArgs) (s : State) : Host.Outcome State Fault Refusal :=
  issueAlone (.call a) .s (opCall a) s

/-- `ret` (R86). -/
def opRet (a : SArgs) : OpFn := transferOp a false
/-- `ret` (R86). -/
def execRet (a : SArgs) (s : State) : Host.Outcome State Fault Refusal :=
  issueAlone (.ret a) .s (opRet a) s

/-- `loop`: acts at issue; a fifth loop raises ILLSCHED (R89). -/
def opLoop (a : SArgs) : OpFn := fun c s =>
  let x := s.ctx c
  let n := srcN x.arch a a.a
  let on := enabledS x.arch a.pred a.neg
  { slot := .s, reads := readsS a [a.a], loops := on
    traps := trapIf (on && n != 0 && x.arch.loops.length == 4) s c .s .illsched
    act := fun s => if on then s.modArch c fun r => { r with loops := loopStack r.loops (x.pc + 64) n } else s }
/-- `loop`: acts at issue; a fifth loop raises ILLSCHED (R89). -/
def execLoop (a : SArgs) (s : State) : Host.Outcome State Fault Refusal :=
  issueAlone (.loop a) .s (opLoop a) s

end Sys2Proof.Machine
end

