-- ==== Sys2Proof/Machine/Control.lean ====
section
/-! DEFINITION. The control registers: the map, access by class, `getc` and `setc` (spec 04, R91; 21, R360 to R365; 06, R111, R113,
R125, R126; 14, R240; 17, R285; 18, R304 to R308; 22, R367, R375; 23, R380). -/
namespace Sys2Proof.Machine

/-! ### Reading (R360 to R364) -/

/-- The job whose J registers a bead reaches (R361). -/
def controlJob (s : State) (c : Nat) : Nat := match (s.ctx c).run with
  | some b => if b.sup then (s.ctx c).jobsel.toNat else b.job
  | none => 0

/-- CORELOC (R363). -/
def coreLoc (s : State) (c : Nat) : Nat := slotNo c + 2 * coreNo (coreOf c) + 256 * agentOf s c
/-- JOBID (R363). -/
def jobId (s : State) (c : Nat) : Nat := match (s.ctx c).run with
  | some b => b.job % 65536 + (s.job b.job).vf % 64 * 2 ^ 16 + (if b.sup then 2 ^ 22 else 0)
  | none => 0
/-- LENERGY (R375): the launch's energy word and the bead's unwritten share, a free value (log 11). -/
def launchEnergy (s : State) (c : Nat) : W64 := match (s.ctx c).run with
  | none => 0
  | some b =>
    let word := match s.hub.launches.get? b.launch with
      | some l => if l.ccnt = 0 then 0 else vRead s l.job (l.ccnt + 8) 8
      | none => 0
    BitVec.ofNat 64 word + Config.energyShare s.free

/-- Counter `i` as the bead reads it (R304, R308). -/
def readCounter (s : State) (c : Nat) (i : Fin 8) : W64 :=
  let x := s.ctx c
  if isFabric (x.pmsel[i]).toNat && !(s.job (jobOf s c)).fab then 0 else x.pmcnt[i]

/-- A register number of a block of eight. -/
def block8 (n base : Nat) : Fin 8 := ⟨(n - base) % 8, Nat.mod_lt _ (by decide)⟩

/-- A J register of a job (R360, R361); the salts read zero for a bead that is not a supervisor. -/
def readJobRegister (j : Job) (sup : Bool) (n : Nat) : W64 :=
  match n with
  | 0x080 => j.ptroot
  | 0x081 => j.traph
  | 0x082 => j.hmctl
  | 0x083 => if sup then j.hmsalt0 else 0
  | 0x084 => if sup then j.hmsalt1 else 0
  | 0x085 => j.hmwcnt
  | 0x086 => j.mkring
  | 0x087 => j.mkthr
  | 0x088 => j.jcnt
  | 0x089 => j.chtab
  | _ => 0

/-- The value of control register `n` for context `c` (R360).  XPDATA is write only (R111). -/
def readControl (s : State) (c n : Nat) : W64 :=
  let x := s.ctx c
  let r := x.arch
  match n with
  | 0x001 => r.fflags
  | 0x002 => r.fmode
  | 0x003 => r.cctl
  | 0x004 => r.xpctl
  | 0x006 => r.rqctl
  | 0x007 => r.rqseed
  | 0x008 => r.rqaddr
  | 0x009 => r.rqpos
  | 0x00A => r.tcbase
  | 0x010 => s.hub.timebase
  | 0x011 => BitVec.ofNat 64 (coreLoc s c)
  | 0x012 => match x.run with
    | some b => BitVec.ofNat 64 b.addr
    | none => 0
  | 0x013 => BitVec.ofNat 64 (jobId s c)
  | 0x014 => BitVec.ofNat 64 r.cc
  | 0x040 => x.pmctl
  | 0x041 => x.pmlock
  | 0x058 => launchEnergy s c
  | 0x0F0 => x.jobsel.zeroExtend 64
  | n =>
    if 0x048 ≤ n ∧ n ≤ 0x04F then x.pmsel[block8 n 0x048]
    else if 0x050 ≤ n ∧ n ≤ 0x057 then readCounter s c (block8 n 0x050)
    else readJobRegister (s.job (controlJob s c)) (supOf s c) n

/-! ### Privilege (R361) -/

/-- A register of class J. -/
def isJobRegister (n : Nat) : Bool := decide (0x080 ≤ n) && decide (n ≤ 0x089)
/-- A register whose every field is RO. -/
def isReadOnly (n : Nat) : Bool := (decide (0x010 ≤ n) && decide (n ≤ 0x014)) || n == 0x058
/-- `getc` raises PRIV. -/
def getcPriv (s : State) (c n : Nat) : Bool := n == 0x0F0 && !supOf s c
/-- `setc` raises PRIV. -/
def setcPriv (s : State) (c n : Nat) : Bool := isReadOnly n || ((isJobRegister n || n == 0x0F0) && !supOf s c)

/-! ### Writing at the landing cycle (R91) -/

/-- PMCTL after a write: OVF is W1C (R304). -/
def writePmctl (old v : W64) : W64 := (v &&& 0xFF00FF) ||| (old &&& 0xFF00 &&& ~~~v)

/-- A J register of a job after a write (R285, R339, R365, R367, R380). -/
def writeJobRegister (j : Job) (n : Nat) (v : W64) : Job :=
  match n with
  | 0x080 => { j with ptroot := v &&& controlBits n }
  | 0x081 => { j with traph := v &&& controlBits n }
  | 0x082 => { j with hmctl := v &&& controlBits n }
  | 0x083 => { j with hmsalt0 := v }
  | 0x084 => { j with hmsalt1 := v }
  | 0x085 => { j with hmwcnt := v &&& controlBits n }
  | 0x086 => { j with mkring := v &&& controlBits n }
  | 0x087 => { j with mkthr := v &&& controlBits n }
  | 0x088 => { j with jcnt := v &&& controlBits n }
  | 0x089 => { j with chtab := v &&& controlBits n }
  | _ => j

/-- The job number that a `setc` of a J register carries with its value. -/
def cregJob (l : Landing) : Nat := (l.value.extractLsb' 64 16).toNat
/-- A control register takes its value (R91, R304, R306, R308, R361). -/
def landControl (s : State) (c n : Nat) (l : Landing) : State :=
  let v := cregValue (s.ctx c).arch n l
  if n < 0x010 then s.modArch c fun r => writeArchRegister r n v
  else if n = 0x040 then s.modCtx c fun x => { x with pmctl := writePmctl x.pmctl v }
  else if n = 0x041 then s.modCtx c fun x => { x with pmlock := v &&& controlBits n }
  else if n = 0x0F0 then s.modCtx c fun x => { x with jobsel := v.extractLsb' 0 16 }
  else if 0x048 ≤ n ∧ n ≤ 0x04F then
    s.modCtx c fun x => { x with pmsel := x.pmsel.set (block8 n 0x048) (v &&& controlBits n) }
  else if 0x050 ≤ n ∧ n ≤ 0x057 then
    if isFabric ((s.ctx c).pmsel[block8 n 0x050]).toNat && !(s.job (jobOf s c)).fab then s
    else s.modCtx c fun x => { x with pmcnt := x.pmcnt.set (block8 n 0x050) (v &&& controlBits n) }
  else if isJobRegister n then s.modJob (cregJob l) fun j => writeJobRegister j n v
  else s

/-- The control register that an entry lands in. -/
def cregOf (l : Landing) : Option Nat := match l.dest with
  | .creg n => some n.toNat
  | _ => none
/-- The entry lands now in a control register of a set. -/
def cregDue (cc : Nat) (p : Nat → Bool) (l : Landing) : Bool := decide (l.due ≤ cc) && match cregOf l with
  | some n => p n
  | none => false
/-- Some control register of a set is due. -/
def cregWaits (x : Ctx) (p : Nat → Bool) : Bool := x.arch.wtb.any (cregDue x.arch.cc p)

/-- Late data is due: until it arrives the context is frozen, and nothing lands in it (R46, R48). -/
def lateDue (a : Arch) : Bool := a.wtb.any fun l => decide (l.due ≤ a.cc) && l.waiting && !l.deadline

/-- The due entries of a set of control registers land, in the order in which they were issued. -/
def landCregs (s : State) (c : Nat) (p : Nat → Bool) : State :=
  let x := s.ctx c
  if x.run.isNone || lateDue x.arch then s
  else
    let now := x.arch.wtb.filter (cregDue x.arch.cc p)
    let s1 := s.modArch c fun r => { r with wtb := r.wtb.filter fun l => !cregDue r.cc p l }
    now.foldl (fun s l => match cregOf l with
      | some n => landControl s c n l
      | none => s) s1

/-- XPDATA. -/
def isXpdata (n : Nat) : Bool := n == 0x005
/-- A register that drives rq (R113). -/
def isRqRegister (n : Nat) : Bool := decide (0x006 ≤ n) && decide (n ≤ 0x009)
/-- Every other register. -/
def isPlainRegister (n : Nat) : Bool := !isXpdata n && !isRqRegister n

/-- CONTROL_REGISTER_WRITE (R91): due writes of control registers land, after a due XPDATA write (R111). -/
def execControlRegisterWrite (c : Nat) (s : State) : Host.Outcome State Fault Refusal :=
  .next (if cregWaits (s.ctx c) isXpdata then s else landCregs s c isPlainRegister)
/-- XPDATA_WRITE (R111). -/
def execXpdataWrite (c : Nat) (s : State) : Host.Outcome State Fault Refusal :=
  .next (landCregs s c isXpdata)
/-- RQ_REGISTER_WRITE (R114): the queue holds nothing that the four registers do not determine, so a write discards what
was fetched ahead by landing. -/
def execRqRegisterWrite (c : Nat) (s : State) : Host.Outcome State Fault Refusal :=
  .next (landCregs s c isRqRegister)

/-! ### `getc` and `setc` (R91) -/

/-- The register number of a `getc` or `setc`. -/
def cregNo (a : SArgs) : Nat := (a.imm.extractLsb' 0 12).toNat

/-- `getc` (R91, R361).  Whether a control register with a write or flags still to land is one of the registers that R52 guards, R52 does
not say: the scoreboard never stops a `getc` (log 179, DESIGN CHOICE). -/
def opGetc (a : SArgs) : OpFn := fun c s =>
  let r := (s.ctx c).arch
  let n := cregNo a
  { slot := .s, reads := readsS a [], traps := trapIf (getcPriv s c n) s c .s .priv
    lands := scalarResult r a 1 .iq (readControl s c n).toNat 0
    act := fun s => if n = 0x058 && enabledS r a.pred a.neg then { s with free := s.free + 1 } else s }
/-- `getc` (R91, R361). -/
def execGetc (a : SArgs) (s : State) : Host.Outcome State Fault Refusal := issueAlone (.getc a) .s (opGetc a) s

/-- `setc` (R91, R361). -/
def opSetc (a : SArgs) : OpFn := fun c s =>
  let r := (s.ctx c).arch
  let n := cregNo a
  let v := (srcS r a a.a).toNat + controlJob s c * 2 ^ 64
  { slot := .s, reads := readsS a [a.a], traps := trapIf (setcPriv s c n) s c .s .priv
    lands := if enabledS r a.pred a.neg then [landLatch (.creg (a.imm.extractLsb' 0 12)) 1 (BitVec.ofNat 1024 v)] else [] }
/-- `setc` (R91, R361). -/
def execSetc (a : SArgs) (s : State) : Host.Outcome State Fault Refusal := issueAlone (.setc a) .s (opSetc a) s

end Sys2Proof.Machine
end

