-- ==== Sys2Proof/Machine/Sha.lean ====
section
/-! DEFINITION. SHA-512 (FIPS 180-4), which the random generator and the hallmark names use (spec 05, R113; 17, R284). -/
namespace Sys2Proof.Machine.Sha

/-- The first eighty primes, whose roots give the constants. -/
def primes : List Nat :=
  [2, 3, 5, 7, 11, 13, 17, 19, 23, 29, 31, 37, 41, 43, 47, 53, 59, 61, 67, 71] ++
  [73, 79, 83, 89, 97, 101, 103, 107, 109, 113, 127, 131, 137, 139, 149, 151, 157, 163, 167, 173] ++
  [179, 181, 191, 193, 197, 199, 211, 223, 227, 229, 233, 239, 241, 251, 257, 263, 269, 271, 277, 281] ++
  [283, 293, 307, 311, 313, 317, 331, 337, 347, 349, 353, 359, 367, 373, 379, 383, 389, 397, 401, 409]

/-- The integer cube root, one bit at a time from bit `i - 1` down. -/
def icbrtGo (n : Nat) : Nat → Nat → Nat
  | 0, r => r
  | i + 1, r => let t := r + 2 ^ i; icbrtGo n i (if t * t * t ≤ n then t else r)

/-- The round constants: 64 fraction bits of the cube roots of the primes. -/
def roundConstants : List (BitVec 64) := primes.map fun p => BitVec.ofNat 64 (icbrtGo (p * 2 ^ 192) 68 0)
/-- The initial state: 64 fraction bits of the square roots of the first eight primes. -/
def initial : List (BitVec 64) := (primes.take 8).map fun p => BitVec.ofNat 64 (isqrt (p * 2 ^ 128))

/-- Rotate right. -/
def rotr (x : BitVec 64) (n : Nat) : BitVec 64 := x.rotateRight n
/-- The function on e, f, g. -/
def ch (e f g : BitVec 64) : BitVec 64 := (e &&& f) ^^^ (~~~e &&& g)
/-- The function on a, b, c. -/
def maj (a b c : BitVec 64) : BitVec 64 := (a &&& b) ^^^ (a &&& c) ^^^ (b &&& c)
/-- Upper-case sigma 0. -/
def bigSigma0 (x : BitVec 64) : BitVec 64 := rotr x 28 ^^^ rotr x 34 ^^^ rotr x 39
/-- Upper-case sigma 1. -/
def bigSigma1 (x : BitVec 64) : BitVec 64 := rotr x 14 ^^^ rotr x 18 ^^^ rotr x 41
/-- Lower-case sigma 0. -/
def sigma0 (x : BitVec 64) : BitVec 64 := rotr x 1 ^^^ rotr x 8 ^^^ (x >>> 7)
/-- Lower-case sigma 1. -/
def sigma1 (x : BitVec 64) : BitVec 64 := rotr x 19 ^^^ rotr x 61 ^^^ (x >>> 6)

/-- One word of the schedule from the sixteen before it, the latest first. -/
def nextWord : List (BitVec 64) → BitVec 64
  | w => sigma1 (w.getD 1 0) + w.getD 6 0 + sigma0 (w.getD 14 0) + w.getD 15 0
/-- The schedule, `n` words more, kept latest first. -/
def schedule : Nat → List (BitVec 64) → List (BitVec 64)
  | 0, w => w
  | n + 1, w => schedule n (nextWord w :: w)

/-- One round on the eight working words. -/
def round (st : List (BitVec 64)) (k w : BitVec 64) : List (BitVec 64) :=
  match st with
  | [a, b, c, d, e, f, g, h] =>
    let t1 := h + bigSigma1 e + ch e f g + k + w
    let t2 := bigSigma0 a + maj a b c
    [t1 + t2, a, b, c, d + t1, e, f, g]
  | st => st

/-- Compress one block of sixteen words. -/
def compress (h : List (BitVec 64)) (block : List (BitVec 64)) : List (BitVec 64) :=
  let w := (schedule 64 block.reverse).reverse
  let out := (roundConstants.zip w).foldl (fun st (k, x) => round st k x) h
  List.zipWith (· + ·) h out

/-- A number read from `n` bytes, the first highest. -/
def bigEndian : List Byte → Nat
  | l => l.foldl (fun x b => x * 256 + b.toNat) 0
/-- The words of a list of bytes. -/
def words : Nat → List Byte → List (BitVec 64)
  | 0, _ => []
  | n + 1, l => BitVec.ofNat 64 (bigEndian (l.take 8)) :: words n (l.drop 8)

/-- Compress `n` blocks. -/
def blocks : Nat → List (BitVec 64) → List Byte → List (BitVec 64)
  | 0, h, _ => h
  | n + 1, h, l => blocks n (compress h (words 16 (l.take 128))) (l.drop 128)

/-- The digest, 64 bytes in their standard order. -/
def digest (m : List Byte) : List Byte :=
  let n := (m.length + 17 + 127) / 128
  let padded := m ++ [0x80] ++ List.replicate (128 * n - m.length - 17) 0 ++ (natToBytes 16 (8 * m.length)).reverse
  (blocks n initial padded).flatMap fun w => (natToBytes 8 w.toNat).reverse

end Sys2Proof.Machine.Sha
end

