-- ==== Sys2Proof/Machine/Vector.lean ====
section
/-! DEFINITION. The vector slots: lanes, sources, lane-wise operations, reductions, lane moves and signatures (spec 05, R92 to
R109, R113, R114; 10, R179). -/
namespace Sys2Proof.Machine

/-! ### Random bits (R113) -/

/-- The vector that the generator gives for a seed and a position (R113). -/
def randomLine (k x : W64) : VReg :=
  let m := natToBytes 8 k.toNat ++ natToBytes 8 x.toNat
  BitVec.ofNat 1024 (bytesToNat (Sha.digest (m ++ [0]) ++ Sha.digest (m ++ [1])))
/-- The vector at the head of the random queue (R113). -/
def randomHead (r : Arch) : VReg :=
  randomLine r.rqseed (if r.rqctl.getLsbD 0 then r.rqaddr else r.rqpos)
/-- A pop advances the stream position or the address (R113). -/
def popRandom (r : Arch) : Arch :=
  if r.rqctl.getLsbD 0 then { r with rqaddr := r.rqaddr + 128 } else { r with rqpos := r.rqpos + 1 }

/-! ### Lanes and sources (R92 to R95) -/

/-- Width of a vector operation in bits (R25). -/
def widthV (a : VArgs) : Nat := 256 * 2 ^ a.width.toNat
/-- Lanes of `s` bits in the operation's width (R92). -/
def lanesV (a : VArgs) (s : Nat) : Nat := widthV a / s
/-- Bits of an element that are read and written (R92). -/
def usedBits (t : ETy) : Nat := if t == .ta6 then 6 else t.bits
/-- The lanes of a vector, the lowest first. -/
def splitLanes (s n : Nat) (v : VReg) : List Nat := (List.range n).map fun i => (v.extractLsb' (s * i) s).toNat
/-- A vector from its lanes, the lowest first. -/
def joinLanes (s : Nat) : List Nat → Nat
  | [] => 0
  | x :: r => x % 2 ^ s + 2 ^ s * joinLanes s r

/-- The value of a constant or immediate lane (R94). -/
def constLane (t : ETy) (v : Int) : Nat :=
  if t.isFp then (packF (ffmt t) .rne (ofInt v)).1 else encodeInt (usedBits t) v

/-- The lanes of a source in elements of type `t` (R94). -/
def srcLanes (r : Arch) (a : VArgs) (t : ETy) (n : Nat) (q : Port) : List Nat :=
  match q with
  | .s k => List.replicate n ((sReg r k).toNat % 2 ^ usedBits t)
  | .const k => List.replicate n (constLane t (constVal k))
  | .imm => List.replicate n (constLane t a.imm.toInt)
  | .rq => (splitLanes t.bits n (randomHead r)).map (· % 2 ^ usedBits t)
  | q => (splitLanes t.bits n (readVector r q)).map (· % 2 ^ usedBits t)

/-- The low bits of a source's whole value, for a lane index (R108). -/
def srcIndex (r : Arch) (a : VArgs) (q : Port) (n : Nat) : Nat :=
  (match q with
   | .rq => (randomHead r).toNat
   | .imm => (a.imm.signExtend 64).toNat
   | .s _ | .const _ => (readScalar r 0 q).toNat
   | q => (readVector r q).toNat) % n

/-- Lane `i` of `s` bits is enabled (R95). -/
def enabledLane (r : Arch) (a : VArgs) (s i : Nat) : Bool := (pReg r a.pred).getLsbD (s / 8 * i) != a.neg
/-- The enables of all lanes. -/
def enables (r : Arch) (a : VArgs) (s n : Nat) : List Bool := (List.range n).map (enabledLane r a s)

/-- The slot of a vector unit. -/
def slotV : VUnit → Slot
  | .a => .va
  | .b => .vb
/-- The latch of a vector unit (R37). -/
def latchV : VUnit → Dest
  | .a => .aq
  | .b => .bq

/-! ### Landing of lane results (R93, R95, R98) -/

/-- A lane's result with its flags; a disabled lane has none. -/
abbrev LaneResult := Option (Nat × Flags)

/-- The flags of all enabled lanes (R96). -/
def laneFlags (l : List LaneResult) : Flags := l.foldl (fun f x => match x with
  | some (_, g) => f ||| g
  | none => f) 0
/-- The values with disabled lanes zero. -/
def laneValues (l : List LaneResult) : List Nat := l.map fun x => match x with
  | some (v, _) => v
  | none => 0
/-- The bits that the enabled lanes write. -/
def laneMask (s : Nat) (l : List LaneResult) : Nat :=
  joinLanes s (l.map fun x => if x.isSome then 2 ^ s - 1 else 0)

/-- A vector register receives the enabled lanes, the latch all lanes with zero in the disabled ones (R93, R95, R37). -/
def vectorResult (a : VArgs) (lat s : Nat) (latch : Bool) (l : List LaneResult) : List Result :=
  let v := BitVec.ofNat 1024 (joinLanes s (laneValues l))
  landPort a.dst lat v (BitVec.ofNat 1024 (laneMask s l)) ++
  (if latch then [landLatch (latchV a.unit) lat v] else []) ++ landFlags lat (laneFlags l)

/-- A compare's result: all bits of a lane's span in a predicate, or a lane of ones in a vector (R100). -/
def compareLanes (a : VArgs) (s : Nat) (l : List LaneResult) : List Result :=
  let ones (k : Nat) := l.map fun x => x.map fun (t, f) => (t * (2 ^ k - 1), f)
  let v := BitVec.ofNat 1024 (joinLanes s (laneValues (ones s)))
  (if a.dst.isP then
    landPort a.dst 1 (BitVec.ofNat 1024 (joinLanes (s / 8) (laneValues (ones (s / 8)))))
      (BitVec.ofNat 1024 (laneMask (s / 8) l))
   else landPort a.dst 1 v (BitVec.ofNat 1024 (laneMask s l))) ++
  [landLatch (latchV a.unit) 1 v] ++ landFlags 1 (laneFlags l)

/-- The parts of a vector operation that all share: what it reads, its lane groups and its pop of rq (R36, R55). -/
def vecOp (a : VArgs) (srcs : List Port) (lands : Arch → List Result) : OpFn := fun c s =>
  let r := (s.ctx c).arch
  { slot := slotV a.unit, reads := reading a.pred srcs, groups := 2 ^ a.width.toNat, rq := srcs.contains .rq
    lands := lands r
    act := fun s => if srcs.contains .rq then s.modArch c popRandom else s }

/-- Apply a lane function of one source under the enables. -/
def map1 (en : List Bool) (x : List Nat) (f : Nat → Nat × Flags) : List LaneResult :=
  List.zipWith (fun e u => if e then some (f u) else none) en x
/-- Apply a lane function of two sources under the enables. -/
def map2 (en : List Bool) (x y : List Nat) (f : Nat → Nat → Nat × Flags) : List LaneResult :=
  List.zipWith (fun e (u, v) => if e then some (f u v) else none) en (x.zip y)
/-- Apply a lane function of three sources under the enables. -/
def map3 (en : List Bool) (x y z : List Nat) (f : Nat → Nat → Nat → Nat × Flags) : List LaneResult :=
  List.zipWith (fun e (u, v, w) => if e then some (f u v w) else none) en (x.zip (y.zip z))

/-- The enabled lanes of a one-source function on the element type. -/
def lanes1 (r : Arch) (a : VArgs) (f : Nat → Nat × Flags) : List LaneResult :=
  let s := a.ety.bits
  let n := lanesV a s
  map1 (enables r a s n) (srcLanes r a a.ety n a.a) f
/-- The enabled lanes of a two-source function on the element type. -/
def lanes2 (r : Arch) (a : VArgs) (f : Nat → Nat → Nat × Flags) : List LaneResult :=
  let s := a.ety.bits
  let n := lanesV a s
  map2 (enables r a s n) (srcLanes r a a.ety n a.a) (srcLanes r a a.ety n a.b) f
/-- The enabled lanes of a three-source function on the element type. -/
def lanes3 (r : Arch) (a : VArgs) (f : Nat → Nat → Nat → Nat × Flags) : List LaneResult :=
  let s := a.ety.bits
  let n := lanesV a s
  map3 (enables r a s n) (srcLanes r a a.ety n a.a) (srcLanes r a a.ety n a.b) (srcLanes r a a.ety n a.c) f

/-- A lane-wise operation of one source with a latency (R98). -/
def vec1 (a : VArgs) (lat : Nat) (latch : Bool) (f : Arch → Nat → Nat × Flags) : OpFn :=
  vecOp a [a.a] fun r => vectorResult a lat a.ety.bits latch (lanes1 r a (f r))
/-- A lane-wise operation of two sources with a latency (R98). -/
def vec2 (a : VArgs) (lat : Nat) (latch : Bool) (f : Arch → Nat → Nat → Nat × Flags) : OpFn :=
  vecOp a [a.a, a.b] fun r => vectorResult a lat a.ety.bits latch (lanes2 r a (f r))
/-- A lane-wise operation of three sources with a latency (R98). -/
def vec3 (a : VArgs) (lat : Nat) (latch : Bool) (f : Arch → Nat → Nat → Nat → Nat × Flags) : OpFn :=
  vecOp a [a.a, a.b, a.c] fun r => vectorResult a lat a.ety.bits latch (lanes3 r a (f r))
/-- A lane-wise compare (R100, R103). -/
def vecCompare (a : VArgs) (f : Nat → Nat → Bool × Flags) : OpFn :=
  vecOp a [a.a, a.b] fun r => compareLanes a a.ety.bits (lanes2 r a fun x y => let (t, g) := f x y; (t.toNat, g))

/-! ### Integer lanes (R97, R102, R103) -/

/-- Value of an integer lane. -/
def ival (a : VArgs) (x : Nat) : Int := decodeInt a.ety.isI a.ety.bits x
/-- Wrap or saturate a lane (R97). -/
def wrapOrClamp (a : VArgs) (v : Int) : Nat :=
  encodeInt a.ety.bits (if a.rnd = 1 then clampInt a.ety.isI a.ety.bits v else v)
/-- An integer lane operation. -/
def vint2 (a : VArgs) (f : Nat → Nat → Nat) : OpFn := vec2 a 2 true fun _ x y => (f x y, 0)
/-- An integer lane compare. -/
def vicmpOp (a : VArgs) (f : Nat → Nat → Bool) : OpFn := vecCompare a fun x y => (f x y, 0)

/-! ### Conversion (R104) -/

/-- Convert one lane (R104). -/
def vcvtLane (t u : ETy) (md : Rm) (x : Nat) : Nat × Flags :=
  if t.isInt && u.isInt then (encodeInt t.bits (if t.bits > u.bits then decodeInt u.isI u.bits x
    else clampInt t.isI t.bits (decodeInt u.isI u.bits x)), 0)
  else if u.isTap then packF (ffmt t) .rne (tapVal u x)
  else if t.isTap then encodeTap t (decodeF (ffmt u) x)
  else convert t u md x

/-- The destination lanes of a conversion, counted at T's size (R104). -/
def vcvtLanes (r : Arch) (a : VArgs) (t u : ETy) : List LaneResult :=
  let q := (a.imm.extractLsb' 4 3).toNat
  let n := widthV a / Nat.max t.bits u.bits
  let src := srcLanes r a u (lanesV a u.bits) a.a
  let md := modeOf r a.rnd
  (List.range (lanesV a t.bits)).map fun d =>
    let i := if t.bits < u.bits then d - q * n else q * n + d
    if (t.bits < u.bits && (d < q * n || q * n + n ≤ d)) || !enabledLane r a t.bits d then none
    else some (vcvtLane t u md (src.getD i 0))

/-- Scale one lane by 2^e; a signalling NaN sets invalid whatever the scale byte (R105, R118). -/
def scaleLane (f : FFmt) (md : Rm) (q x : Nat) : Nat × Flags := match scaleExp q with
  | none => (f.nan, if (decodeF f x).isSnan then (nanF f true).2 else 0)
  | some e => match decodeF f x with
    | .fin n m k => packF f md (.fin n m (k + e))
    | v => packF f md v

/-! ### Reductions (R107) -/

/-- One level of the tree: neighbours combine, a lone one passes on unchanged. -/
def reduceLevel (f : Nat → Nat → Nat × Flags) : List (Option Nat) → List (Option Nat) × Flags
  | x :: y :: r =>
    let (rest, fl) := reduceLevel f r
    match x, y with
    | some u, some v => let (z, g) := f u v; (some z :: rest, fl ||| g)
    | some u, none => (some u :: rest, fl)
    | none, v => (v :: rest, fl)
  | l => (l, 0)
/-- The tree of `n` levels. -/
def reduceTree (f : Nat → Nat → Nat × Flags) : Nat → List (Option Nat) → Flags → Option Nat × Flags
  | 0, l, fl => (l.headD none, fl)
  | n + 1, l, fl => let (l1, g) := reduceLevel f l; reduceTree f n l1 (fl ||| g)

/-- A signalling NaN operand of a reduction sets invalid, also one that meets no other lane (R118). -/
def signalling (a : VArgs) (l : List (Option Nat)) : Flags :=
  if a.ety.isFp && l.any (fun x => match x with
    | some v => (decodeF (ffmt a.ety) v).isSnan
    | none => false) then (nanF (ffmt a.ety) true).2 else 0

/-- A reduction (R107): a scalar takes the result, a vector has it in lane 0. -/
def reduceOp (a : VArgs) (identity : Nat) (f : Arch → Nat → Nat → Nat × Flags) : OpFn :=
  vecOp a [a.a] fun r =>
    let s := a.ety.bits
    let n := lanesV a s
    let l := List.zipWith (fun e x => if e then some x else none) (enables r a s n) (srcLanes r a a.ety n a.a)
    let (res, fl) := reduceTree (f r) (Nat.log2 n) l (signalling a l)
    let v := BitVec.ofNat 1024 (res.getD identity)
    landPort a.dst 4 v (BitVec.ofNat 1024 (if a.dst.isV then 2 ^ widthV a - 1 else 2 ^ 64 - 1)) ++
    [landLatch (latchV a.unit) 4 v] ++ landFlags 4 fl

/-- Identity of `vrmax` or `vrmin` (R107). -/
def extremeIdentity (a : VArgs) (isMax : Bool) : Nat :=
  if a.ety.isFp then (ffmt a.ety).signed isMax (ffmt a.ety).inf
  else encodeInt a.ety.bits (if isMax then intMin a.ety.isI a.ety.bits else intMax a.ety.isI a.ety.bits)
/-- The larger or smaller of two lanes. -/
def extremeLane (a : VArgs) (isMax : Bool) (x y : Nat) : Nat × Flags :=
  if a.ety.isFp then minMaxF (ffmt a.ety) isMax x y
  else ((if (decide (ival a x ≤ ival a y)) != isMax then x else y), 0)

/-! ### Lane moves (R108) -/

/-- A whole operation that may be disabled: it still counts as a write of what it would have written (R108). -/
def wholeMask (on : Bool) (bits : Nat) : BitVec 1024 := BitVec.ofNat 1024 (if on then 2 ^ bits - 1 else 0)

/-! ### Signatures (R109, R179) -/

/-- The projection of a seed (R179); beyond the 32-bit index range the spec gives none, and it is free (log 17). -/
def proj (seed : W64) (k j : Nat) : Bool :=
  if 2 ^ 32 ≤ k then Config.projectionBeyond seed k j
  else
    let z0 := seed + BitVec.ofNat 64 k
    let z1 := (z0 ^^^ (z0 >>> 31)) * 0xB4F26D8A3C1E9F55
    let z2 := (z1 ^^^ (z1 >>> 29)) * 0x7A1CE365D0B84A29
    let z3 := z2 ^^^ (z2 >>> 32)
    !z3.getLsbD j

/-- Units of 2^-149 of a finite value of a format. -/
def sigUnits (n : Bool) (m : Nat) (x : Int) : Int := unitsOf n m x (-149)

/-- A sum of decoded values, rounded once to f32 RNE (R109).  A quiet NaN among the terms raises nothing, whatever infinities stand
beside it (log 135). -/
def sigSum (l : List FVal) : Nat × Flags :=
  let snan := l.any (·.isSnan)
  let pinf := l.any fun v => v.isInf && !v.neg
  let ninf := l.any fun v => v.isInf && v.neg
  if l.any (·.isNan) then nanF .f32 snan
  else if pinf && ninf then nanF .f32 true
  else if pinf || ninf then infF .f32 ninf
  else
    let t : Int := (l.map fun v => match v with
      | .fin n m x => sigUnits n m x
      | _ => 0).sum
    if t = 0 then zeroF .f32 (l.all fun v => v.isZero && v.neg)
    else roundF .f32 .rne (decide (t < 0)) t.natAbs (-149) false

/-- The predictor table of context `c`'s die. -/
def predictor (s : State) (c t : Nat) : Predictor := s.pred.get (dieOf (coreOf c) * 64 + t) Predictor.reset
/-- A table is bound to the job of the context's bead (R180). -/
def boundHere (s : State) (c t : Nat) : Bool :=
  let p := predictor s c t
  p.bound && (match (s.ctx c).run with
    | some b => p.job == b.job
    | none => false)

/-- `vadd` (R99). -/
def opVadd (a : VArgs) : OpFn := vec2 a 4 true fun r x y => addF (ffmt a.ety) (modeOf r a.rnd) (decodeF (ffmt a.ety) x) (decodeF (ffmt a.ety) y)
/-- `vadd` (R99). -/
def execVadd (a : VArgs) (s : State) : Host.Outcome State Fault Refusal :=
  issueAlone (.vadd a) (slotV a.unit) (opVadd a) s

/-- `vsub` (R99). -/
def opVsub (a : VArgs) : OpFn := vec2 a 4 true fun r x y => addF (ffmt a.ety) (modeOf r a.rnd) (decodeF (ffmt a.ety) x) (decodeF (ffmt a.ety) y).negate
/-- `vsub` (R99). -/
def execVsub (a : VArgs) (s : State) : Host.Outcome State Fault Refusal :=
  issueAlone (.vsub a) (slotV a.unit) (opVsub a) s

/-- `vmul` (R99). -/
def opVmul (a : VArgs) : OpFn := vec2 a 4 true fun r x y => mulF (ffmt a.ety) (modeOf r a.rnd) (decodeF (ffmt a.ety) x) (decodeF (ffmt a.ety) y)
/-- `vmul` (R99). -/
def execVmul (a : VArgs) (s : State) : Host.Outcome State Fault Refusal :=
  issueAlone (.vmul a) (slotV a.unit) (opVmul a) s

/-- `vfma`: c + a times b (R99, R18). -/
def opVfma (a : VArgs) : OpFn := vec3 a 4 true fun r x y z =>
  fmaF (ffmt a.ety) (modeOf r a.rnd) (decodeF (ffmt a.ety) z) (decodeF (ffmt a.ety) x) (decodeF (ffmt a.ety) y)
/-- `vfma`: c + a times b (R99, R18). -/
def execVfma (a : VArgs) (s : State) : Host.Outcome State Fault Refusal :=
  issueAlone (.vfma a) (slotV a.unit) (opVfma a) s

/-- `vfnma`: c minus a times b (R99, R18). -/
def opVfnma (a : VArgs) : OpFn := vec3 a 4 true fun r x y z =>
  fnmaF (ffmt a.ety) (modeOf r a.rnd) (decodeF (ffmt a.ety) z) (decodeF (ffmt a.ety) x) (decodeF (ffmt a.ety) y)
/-- `vfnma`: c minus a times b (R99, R18). -/
def execVfnma (a : VArgs) (s : State) : Host.Outcome State Fault Refusal :=
  issueAlone (.vfnma a) (slotV a.unit) (opVfnma a) s

/-- `vmin` (R99). -/
def opVmin (a : VArgs) : OpFn := vec2 a 4 true fun _ x y => minMaxF (ffmt a.ety) false x y
/-- `vmin` (R99). -/
def execVmin (a : VArgs) (s : State) : Host.Outcome State Fault Refusal :=
  issueAlone (.vmin a) (slotV a.unit) (opVmin a) s

/-- `vmax` (R99). -/
def opVmax (a : VArgs) : OpFn := vec2 a 4 true fun _ x y => minMaxF (ffmt a.ety) true x y
/-- `vmax` (R99). -/
def execVmax (a : VArgs) (s : State) : Host.Outcome State Fault Refusal :=
  issueAlone (.vmax a) (slotV a.unit) (opVmax a) s

/-- `vabs` (R99). -/
def opVabs (a : VArgs) : OpFn := vec1 a 4 true fun _ x => (absF (ffmt a.ety) x, 0)
/-- `vabs` (R99). -/
def execVabs (a : VArgs) (s : State) : Host.Outcome State Fault Refusal :=
  issueAlone (.vabs a) (slotV a.unit) (opVabs a) s

/-- `vneg` (R99). -/
def opVneg (a : VArgs) : OpFn := vec1 a 4 true fun _ x => (negF (ffmt a.ety) x, 0)
/-- `vneg` (R99). -/
def execVneg (a : VArgs) (s : State) : Host.Outcome State Fault Refusal :=
  issueAlone (.vneg a) (slotV a.unit) (opVneg a) s

/-- `vcmp.eq` (R100). -/
def opVcmpEq (a : VArgs) : OpFn := vecCompare a fun x y => cmpF (ffmt a.ety) .eq x y
/-- `vcmp.eq` (R100). -/
def execVcmpEq (a : VArgs) (s : State) : Host.Outcome State Fault Refusal :=
  issueAlone (.vcmpEq a) (slotV a.unit) (opVcmpEq a) s

/-- `vcmp.ne` (R100). -/
def opVcmpNe (a : VArgs) : OpFn := vecCompare a fun x y => cmpF (ffmt a.ety) .ne x y
/-- `vcmp.ne` (R100). -/
def execVcmpNe (a : VArgs) (s : State) : Host.Outcome State Fault Refusal :=
  issueAlone (.vcmpNe a) (slotV a.unit) (opVcmpNe a) s

/-- `vcmp.lt` (R100). -/
def opVcmpLt (a : VArgs) : OpFn := vecCompare a fun x y => cmpF (ffmt a.ety) .lt x y
/-- `vcmp.lt` (R100). -/
def execVcmpLt (a : VArgs) (s : State) : Host.Outcome State Fault Refusal :=
  issueAlone (.vcmpLt a) (slotV a.unit) (opVcmpLt a) s

/-- `vcmp.le` (R100). -/
def opVcmpLe (a : VArgs) : OpFn := vecCompare a fun x y => cmpF (ffmt a.ety) .le x y
/-- `vcmp.le` (R100). -/
def execVcmpLe (a : VArgs) (s : State) : Host.Outcome State Fault Refusal :=
  issueAlone (.vcmpLe a) (slotV a.unit) (opVcmpLe a) s

/-- `vcmp.un` (R100). -/
def opVcmpUn (a : VArgs) : OpFn := vecCompare a fun x y => cmpF (ffmt a.ety) .un x y
/-- `vcmp.un` (R100). -/
def execVcmpUn (a : VArgs) (s : State) : Host.Outcome State Fault Refusal :=
  issueAlone (.vcmpUn a) (slotV a.unit) (opVcmpUn a) s

/-- `vsel`: writes every lane (R101). -/
def opVsel (a : VArgs) : OpFn := vecOp a [a.a, a.b] fun r =>
  let s := a.ety.bits
  let n := lanesV a s
  let x := srcLanes r a a.ety n a.a
  let y := srcLanes r a a.ety n a.b
  vectorResult a 2 s true
    (List.zipWith (fun e (u, v) => some ((if e then u else v), (0 : Flags))) (enables r a s n) (x.zip y))
/-- `vsel`: writes every lane (R101). -/
def execVsel (a : VArgs) (s : State) : Host.Outcome State Fault Refusal :=
  issueAlone (.vsel a) (slotV a.unit) (opVsel a) s

/-- `vclass` (R101). -/
def opVclass (a : VArgs) : OpFn := vec1 a 4 true fun _ x => (classF (ffmt a.ety) x, 0)
/-- `vclass` (R101). -/
def execVclass (a : VArgs) (s : State) : Host.Outcome State Fault Refusal :=
  issueAlone (.vclass a) (slotV a.unit) (opVclass a) s

/-- `viadd` (R102). -/
def opViadd (a : VArgs) : OpFn := vint2 a fun x y => wrapOrClamp a (ival a x + ival a y)
/-- `viadd` (R102). -/
def execViadd (a : VArgs) (s : State) : Host.Outcome State Fault Refusal :=
  issueAlone (.viadd a) (slotV a.unit) (opViadd a) s

/-- `visub` (R102). -/
def opVisub (a : VArgs) : OpFn := vint2 a fun x y => wrapOrClamp a (ival a x - ival a y)
/-- `visub` (R102). -/
def execVisub (a : VArgs) (s : State) : Host.Outcome State Fault Refusal :=
  issueAlone (.visub a) (slotV a.unit) (opVisub a) s

/-- `vimul` (R102). -/
def opVimul (a : VArgs) : OpFn := vint2 a fun x y => wrapOrClamp a (ival a x * ival a y)
/-- `vimul` (R102). -/
def execVimul (a : VArgs) (s : State) : Host.Outcome State Fault Refusal :=
  issueAlone (.vimul a) (slotV a.unit) (opVimul a) s

/-- `vimulh` (R102). -/
def opVimulh (a : VArgs) : OpFn := vint2 a fun x y => encodeInt a.ety.bits (ival a x * ival a y / 2 ^ a.ety.bits)
/-- `vimulh` (R102). -/
def execVimulh (a : VArgs) (s : State) : Host.Outcome State Fault Refusal :=
  issueAlone (.vimulh a) (slotV a.unit) (opVimulh a) s

/-- `vand` (R102). -/
def opVand (a : VArgs) : OpFn := vint2 a fun x y => x &&& y
/-- `vand` (R102). -/
def execVand (a : VArgs) (s : State) : Host.Outcome State Fault Refusal :=
  issueAlone (.vand a) (slotV a.unit) (opVand a) s

/-- `vor` (R102). -/
def opVor (a : VArgs) : OpFn := vint2 a fun x y => x ||| y
/-- `vor` (R102). -/
def execVor (a : VArgs) (s : State) : Host.Outcome State Fault Refusal :=
  issueAlone (.vor a) (slotV a.unit) (opVor a) s

/-- `vxor` (R102). -/
def opVxor (a : VArgs) : OpFn := vint2 a fun x y => x ^^^ y
/-- `vxor` (R102). -/
def execVxor (a : VArgs) (s : State) : Host.Outcome State Fault Refusal :=
  issueAlone (.vxor a) (slotV a.unit) (opVxor a) s

/-- `vshl` (R102). -/
def opVshl (a : VArgs) : OpFn := vint2 a fun x y => x * 2 ^ (y % a.ety.bits) % 2 ^ a.ety.bits
/-- `vshl` (R102). -/
def execVshl (a : VArgs) (s : State) : Host.Outcome State Fault Refusal :=
  issueAlone (.vshl a) (slotV a.unit) (opVshl a) s

/-- `vshr` (R102). -/
def opVshr (a : VArgs) : OpFn := vint2 a fun x y => x / 2 ^ (y % a.ety.bits)
/-- `vshr` (R102). -/
def execVshr (a : VArgs) (s : State) : Host.Outcome State Fault Refusal :=
  issueAlone (.vshr a) (slotV a.unit) (opVshr a) s

/-- `vsar` (R102). -/
def opVsar (a : VArgs) : OpFn := vint2 a fun x y => encodeInt a.ety.bits (sextNat a.ety.bits x / 2 ^ (y % a.ety.bits))
/-- `vsar` (R102). -/
def execVsar (a : VArgs) (s : State) : Host.Outcome State Fault Refusal :=
  issueAlone (.vsar a) (slotV a.unit) (opVsar a) s

/-- `vimin`, signed (R102). -/
def opVimin (a : VArgs) : OpFn := vint2 a fun x y => if ival a x ≤ ival a y then x else y
/-- `vimin`, signed (R102). -/
def execVimin (a : VArgs) (s : State) : Host.Outcome State Fault Refusal :=
  issueAlone (.vimin a) (slotV a.unit) (opVimin a) s

/-- `vimax`, signed (R102). -/
def opVimax (a : VArgs) : OpFn := vint2 a fun x y => if ival a x ≤ ival a y then y else x
/-- `vimax`, signed (R102). -/
def execVimax (a : VArgs) (s : State) : Host.Outcome State Fault Refusal :=
  issueAlone (.vimax a) (slotV a.unit) (opVimax a) s

/-- `viminn`, natural (R102). -/
def opViminn (a : VArgs) : OpFn := vint2 a fun x y => if x ≤ y then x else y
/-- `viminn`, natural (R102). -/
def execViminn (a : VArgs) (s : State) : Host.Outcome State Fault Refusal :=
  issueAlone (.viminn a) (slotV a.unit) (opViminn a) s

/-- `vimaxn`, natural (R102). -/
def opVimaxn (a : VArgs) : OpFn := vint2 a fun x y => if x ≤ y then y else x
/-- `vimaxn`, natural (R102). -/
def execVimaxn (a : VArgs) (s : State) : Host.Outcome State Fault Refusal :=
  issueAlone (.vimaxn a) (slotV a.unit) (opVimaxn a) s

/-- `vicmp.eq` (R103). -/
def opVicmpEq (a : VArgs) : OpFn := vicmpOp a fun x y => x == y
/-- `vicmp.eq` (R103). -/
def execVicmpEq (a : VArgs) (s : State) : Host.Outcome State Fault Refusal :=
  issueAlone (.vicmpEq a) (slotV a.unit) (opVicmpEq a) s

/-- `vicmp.ne` (R103). -/
def opVicmpNe (a : VArgs) : OpFn := vicmpOp a fun x y => x != y
/-- `vicmp.ne` (R103). -/
def execVicmpNe (a : VArgs) (s : State) : Host.Outcome State Fault Refusal :=
  issueAlone (.vicmpNe a) (slotV a.unit) (opVicmpNe a) s

/-- `vicmp.lt`, signed (R103). -/
def opVicmpLt (a : VArgs) : OpFn := vicmpOp a fun x y => decide (ival a x < ival a y)
/-- `vicmp.lt`, signed (R103). -/
def execVicmpLt (a : VArgs) (s : State) : Host.Outcome State Fault Refusal :=
  issueAlone (.vicmpLt a) (slotV a.unit) (opVicmpLt a) s

/-- `vicmp.le`, signed (R103). -/
def opVicmpLe (a : VArgs) : OpFn := vicmpOp a fun x y => decide (ival a x ≤ ival a y)
/-- `vicmp.le`, signed (R103). -/
def execVicmpLe (a : VArgs) (s : State) : Host.Outcome State Fault Refusal :=
  issueAlone (.vicmpLe a) (slotV a.unit) (opVicmpLe a) s

/-- `vicmp.ltn`, natural (R103). -/
def opVicmpLtn (a : VArgs) : OpFn := vicmpOp a fun x y => decide (x < y)
/-- `vicmp.ltn`, natural (R103). -/
def execVicmpLtn (a : VArgs) (s : State) : Host.Outcome State Fault Refusal :=
  issueAlone (.vicmpLtn a) (slotV a.unit) (opVicmpLtn a) s

/-- `vicmp.len`, natural (R103). -/
def opVicmpLen (a : VArgs) : OpFn := vicmpOp a fun x y => decide (x ≤ y)
/-- `vicmp.len`, natural (R103). -/
def execVicmpLen (a : VArgs) (s : State) : Host.Outcome State Fault Refusal :=
  issueAlone (.vicmpLen a) (slotV a.unit) (opVicmpLen a) s

/-- `vcvt` (R104). -/
def opVcvt (a : VArgs) : OpFn := vecOp a [a.a] fun r => match ETy.ofCode (a.imm.extractLsb' 0 4) with
  | some u => vectorResult a 4 a.ety.bits true (vcvtLanes r a a.ety u)
  | none => []
/-- `vcvt` (R104). -/
def execVcvt (a : VArgs) (s : State) : Host.Outcome State Fault Refusal :=
  issueAlone (.vcvt a) (slotV a.unit) (opVcvt a) s

/-- `vscale`: the scale byte of lane i is byte i / g of b (R105). -/
def opVscale (a : VArgs) : OpFn := vecOp a [a.a, a.b] fun r =>
  let s := a.ety.bits
  let n := lanesV a s
  let x := srcLanes r a a.ety n a.a
  let q := srcLanes r a .sc8 128 a.b
  vectorResult a 4 s true (List.zipWith (fun e i =>
    if e then some (scaleLane (ffmt a.ety) (modeOf r a.rnd) (q.getD (i / 2 ^ a.imm.toNat) 0) (x.getD i 0)) else none)
    (enables r a s n) (List.range n))
/-- `vscale`: the scale byte of lane i is byte i / g of b (R105). -/
def execVscale (a : VArgs) (s : State) : Host.Outcome State Fault Refusal :=
  issueAlone (.vscale a) (slotV a.unit) (opVscale a) s

/-- `vdiv` (R106). -/
def opVdiv (a : VArgs) : OpFn := vec2 a 14 false fun r x y => divF (ffmt a.ety) (modeOf r a.rnd) (decodeF (ffmt a.ety) x) (decodeF (ffmt a.ety) y)
/-- `vdiv` (R106). -/
def execVdiv (a : VArgs) (s : State) : Host.Outcome State Fault Refusal :=
  issueAlone (.vdiv a) (slotV a.unit) (opVdiv a) s

/-- `vsqrt` (R106). -/
def opVsqrt (a : VArgs) : OpFn := vec1 a 14 false fun r x => sqrtF (ffmt a.ety) (modeOf r a.rnd) (decodeF (ffmt a.ety) x)
/-- `vsqrt` (R106). -/
def execVsqrt (a : VArgs) (s : State) : Host.Outcome State Fault Refusal :=
  issueAlone (.vsqrt a) (slotV a.unit) (opVsqrt a) s

/-- `vrsqrt` (R106). -/
def opVrsqrt (a : VArgs) : OpFn := vec1 a 14 false fun r x => rsqrtF (ffmt a.ety) (modeOf r a.rnd) (decodeF (ffmt a.ety) x)
/-- `vrsqrt` (R106). -/
def execVrsqrt (a : VArgs) (s : State) : Host.Outcome State Fault Refusal :=
  issueAlone (.vrsqrt a) (slotV a.unit) (opVrsqrt a) s

/-- `vrcp` (R106). -/
def opVrcp (a : VArgs) : OpFn := vec1 a 14 false fun r x => divF (ffmt a.ety) (modeOf r a.rnd) (ofInt 1) (decodeF (ffmt a.ety) x)
/-- `vrcp` (R106). -/
def execVrcp (a : VArgs) (s : State) : Host.Outcome State Fault Refusal :=
  issueAlone (.vrcp a) (slotV a.unit) (opVrcp a) s

/-- `vexp2` (R106). -/
def opVexp2 (a : VArgs) : OpFn := vec1 a 14 false fun r x => exp2F (ffmt a.ety) (modeOf r a.rnd) x
/-- `vexp2` (R106). -/
def execVexp2 (a : VArgs) (s : State) : Host.Outcome State Fault Refusal :=
  issueAlone (.vexp2 a) (slotV a.unit) (opVexp2 a) s

/-- `vlog2` (R106). -/
def opVlog2 (a : VArgs) : OpFn := vec1 a 14 false fun r x => log2F (ffmt a.ety) (modeOf r a.rnd) x
/-- `vlog2` (R106). -/
def execVlog2 (a : VArgs) (s : State) : Host.Outcome State Fault Refusal :=
  issueAlone (.vlog2 a) (slotV a.unit) (opVlog2 a) s

/-- `vtanh` (R106). -/
def opVtanh (a : VArgs) : OpFn := vec1 a 14 false fun r x => tanhF (ffmt a.ety) (modeOf r a.rnd) x
/-- `vtanh` (R106). -/
def execVtanh (a : VArgs) (s : State) : Host.Outcome State Fault Refusal :=
  issueAlone (.vtanh a) (slotV a.unit) (opVtanh a) s

/-- `vsigm` (R106). -/
def opVsigm (a : VArgs) : OpFn := vec1 a 14 false fun r x => sigmF (ffmt a.ety) (modeOf r a.rnd) x
/-- `vsigm` (R106). -/
def execVsigm (a : VArgs) (s : State) : Host.Outcome State Fault Refusal :=
  issueAlone (.vsigm a) (slotV a.unit) (opVsigm a) s

/-- `vsum` (R107). -/
def opVsum (a : VArgs) : OpFn := reduceOp a 0 fun r x y =>
  if a.ety.isFp then addF (ffmt a.ety) (modeOf r a.rnd) (decodeF (ffmt a.ety) x) (decodeF (ffmt a.ety) y) else (wrapOrClamp a (ival a x + ival a y), 0)
/-- `vsum` (R107). -/
def execVsum (a : VArgs) (s : State) : Host.Outcome State Fault Refusal :=
  issueAlone (.vsum a) (slotV a.unit) (opVsum a) s

/-- `vrmax` (R107). -/
def opVrmax (a : VArgs) : OpFn := reduceOp a (extremeIdentity a true) fun _ => extremeLane a true
/-- `vrmax` (R107). -/
def execVrmax (a : VArgs) (s : State) : Host.Outcome State Fault Refusal :=
  issueAlone (.vrmax a) (slotV a.unit) (opVrmax a) s

/-- `vrmin` (R107). -/
def opVrmin (a : VArgs) : OpFn := reduceOp a (extremeIdentity a false) fun _ => extremeLane a false
/-- `vrmin` (R107). -/
def execVrmin (a : VArgs) (s : State) : Host.Outcome State Fault Refusal :=
  issueAlone (.vrmin a) (slotV a.unit) (opVrmin a) s

/-- `vbcast` (R108). -/
def opVbcast (a : VArgs) : OpFn := vecOp a [a.a, a.b] fun r =>
  let s := a.ety.bits
  let n := lanesV a s
  let x := (srcLanes r a a.ety n a.a).getD (srcIndex r a a.b n) 0
  vectorResult a 2 s true (map1 (enables r a s n) (List.replicate n x) fun x => (x, 0))
/-- `vbcast` (R108). -/
def execVbcast (a : VArgs) (s : State) : Host.Outcome State Fault Refusal :=
  issueAlone (.vbcast a) (slotV a.unit) (opVbcast a) s

/-- `vmov` (R108). -/
def opVmov (a : VArgs) : OpFn := vec1 a 2 true fun _ x => (x, 0)
/-- `vmov` (R108). -/
def execVmov (a : VArgs) (s : State) : Host.Outcome State Fault Refusal :=
  issueAlone (.vmov a) (slotV a.unit) (opVmov a) s

/-- `vlane`: a disabled one keeps sd and the latch (R108). -/
def opVlane (a : VArgs) : OpFn := vecOp a [a.a, a.b] fun r =>
  let s := a.ety.bits
  let n := lanesV a s
  let k := srcIndex r a a.b n
  let v := BitVec.ofNat 1024 ((srcLanes r a a.ety n a.a).getD k 0)
  let m := wholeMask (enabledLane r a s k) 1024
  landPort a.dst 2 v m ++ [landLatch (latchV a.unit) 2 v m]
/-- `vlane`: a disabled one keeps sd and the latch (R108). -/
def execVlane (a : VArgs) (s : State) : Host.Outcome State Fault Refusal :=
  issueAlone (.vlane a) (slotV a.unit) (opVlane a) s

/-- `vins`: reads its destination; a disabled one keeps vd and the latch (R108). -/
def opVins (a : VArgs) : OpFn := 
  vecOp a [a.a, a.b, a.dst] fun r =>
    let s := a.ety.bits
    let n := lanesV a s
    let k := srcIndex r a a.b n
    let old := srcLanes r a a.ety n a.dst
    let v := BitVec.ofNat 1024 (joinLanes s (old.set k ((srcLanes r a a.ety n a.a).getD 0 0)))
    let on := enabledLane r a s k
    landPort a.dst 2 v (wholeMask on (widthV a)) ++ [landLatch (latchV a.unit) 2 v (wholeMask on 1024)]
/-- `vins`: reads its destination; a disabled one keeps vd and the latch (R108). -/
def execVins (a : VArgs) (s : State) : Host.Outcome State Fault Refusal :=
  issueAlone (.vins a) (slotV a.unit) (opVins a) s

/-- `viota` (R108). -/
def opViota (a : VArgs) : OpFn := vecOp a [a.a] fun r =>
  let s := a.ety.bits
  let n := lanesV a s
  let x := srcLanes r a a.ety n a.a
  vectorResult a 2 s true (map1 (enables r a s n) (List.zipWith (fun u i => (u + i) % 2 ^ s) x (List.range n)) fun x => (x, 0))
/-- `viota` (R108). -/
def execViota (a : VArgs) (s : State) : Host.Outcome State Fault Refusal :=
  issueAlone (.viota a) (slotV a.unit) (opViota a) s

/-- `vsig`: the accumulate form writes all 1024 bits; PERM for a table not bound to the job (R109). -/
def opVsig (a : VArgs) : OpFn := fun c s =>
  let t := (readScalar (s.ctx c).arch 0 a.b).toNat % 64
  let base : Op := vecOp a [a.a, a.b, a.c] (fun r =>
    let w := a.ety.bits
    let n := lanesV a w
    let k0 := bitsOf (readScalar r 0 a.b).toNat 16 32
    let en := enables r a w n
    let x := (srcLanes r a a.ety n a.a).map (decodeF (ffmt a.ety))
    let acc := splitLanes 32 12 (readVector r a.c)
    let sums := (List.range 12).map fun j =>
      let terms := (en.zip (x.zipIdx)).filterMap fun (e, v, i) =>
        if e then some (if proj (predictor s c t).seed (k0 + i) j then v else v.negate) else none
      sigSum (decodeF .f32 (acc.getD j 0) :: terms)
    let v := BitVec.ofNat 1024 (joinLanes 32 (sums.map (·.1)))
    landPort a.dst 4 v ++ [landLatch (latchV a.unit) 4 v] ++
      landFlags 4 (sums.foldl (fun f x => f ||| x.2) 0)) c s
  { base with traps := trapIf (!boundHere s c t) s c (slotV a.unit) .perm }
/-- `vsig`: the accumulate form writes all 1024 bits; PERM for a table not bound to the job (R109). -/
def execVsig (a : VArgs) (s : State) : Host.Outcome State Fault Refusal :=
  issueAlone (.vsig a) (slotV a.unit) (opVsig a) s

/-- `vsig.fin`: the inverted signs of lanes 0 to 11; a disabled one keeps sd and the latch, as R108 has it for `vlane` (R109; log 136). -/
def opVsigFin (a : VArgs) : OpFn := vecOp a [a.a] fun r =>
  let x := (srcLanes r a .f32 32 a.a).take 12
  let v := BitVec.ofNat 1024 (joinLanes 1 (x.map fun u => 1 - u / 2 ^ 31))
  let m := wholeMask (enabledLane r a 32 0) 1024
  landPort a.dst 2 v m ++ [landLatch (latchV a.unit) 2 v m]
/-- `vsig.fin`: the inverted signs of lanes 0 to 11 (R109). -/
def execVsigFin (a : VArgs) (s : State) : Host.Outcome State Fault Refusal :=
  issueAlone (.vsigFin a) (slotV a.unit) (opVsigFin a) s

end Sys2Proof.Machine
end

