-- ==== Sys2Proof/Machine/Crossbar.lean ====
section
/-! DEFINITION. The lane crossbar and its pattern table (spec 05, R110 to R112). -/
namespace Sys2Proof.Machine

/-- Width of an X operation in bits (R25). -/
def widthX (a : XArgs) : Nat := 256 * 2 ^ a.width.toNat
/-- 32-bit lanes of an X operation (R110). -/
def lanesX (a : XArgs) : Nat := widthX a / 32

/-- A crossbar result lands in its destination under the width, and in xq with zeros above it, at c+2 (R110). -/
def crossResult (a : XArgs) (v : Nat) : List Result :=
  landPort a.dst 2 (BitVec.ofNat 1024 v) (BitVec.ofNat 1024 (2 ^ widthX a - 1)) ++
  [landLatch .xq 2 (BitVec.ofNat 1024 v)]

/-- An X operation whose lane `i` comes from the source's 32-bit lanes (R110). -/
def crossOp (a : XArgs) (f : List Nat → Nat → Nat → Nat) : OpFn := fun c s =>
  let r := (s.ctx c).arch
  let n := lanesX a
  let x := splitLanes 32 n (readVector r a.src)
  { slot := .x, reads := readCodes a.src, lands := crossResult a (joinLanes 32 ((List.range n).map (f x n))) }

/-- Byte `j` of the entry that an `xperm` uses (R111). -/
def patternByte (r : Arch) (a : XArgs) (j : Nat) : Nat :=
  let e := 16 * (r.xpctl.toNat % 4) + a.idx.toNat
  ((r.pattern[e]?.getD 0).extractLsb' (8 * j) 8).toNat
/-- A pattern byte is valid (R111). -/
def patternV (b : Nat) : Bool := b / 128 == 1
/-- The destination lane of a pattern byte. -/
def patternDest (b : Nat) : Nat := b % 32
/-- The lane that a pattern aims at lane `i`. -/
def patternSource (bytes : List Nat) (i : Nat) : Option Nat :=
  firstSome (bytes.zipIdx.map fun (b, j) => if patternV b && patternDest b == i then some j else none)
/-- Two valid bytes aim at one lane below `n` (R112). -/
def patternClash (n : Nat) : List Nat → Bool
  | [] => false
  | b :: r => (patternV b && patternDest b < n && r.any fun q => patternV q && patternDest q == patternDest b) ||
    patternClash n r
/-- The pattern cannot be used: reserved bits in a valid byte, or two sources for one lane (R112). -/
def patternBad (n : Nat) (bytes : List Nat) : Bool :=
  bytes.any (fun b => patternV b && b / 32 % 4 != 0) || patternClash n bytes

/-- `xmov` (R110). -/
def opXmov (a : XArgs) : OpFn := crossOp a fun x _ i => x.getD i 0
/-- `xmov` (R110). -/
def execXmov (a : XArgs) (s : State) : Host.Outcome State Fault Refusal :=
  issueAlone (.xmov a) .x (opXmov a) s

/-- `xperm` reads its pattern at issue; a bad pattern raises ILLSCHED (R112). -/
def opXperm (a : XArgs) : OpFn := fun c s =>
  let r := (s.ctx c).arch
  let n := lanesX a
  let bytes := (List.range n).map (patternByte r a)
  let base : Op := crossOp a (fun x _ i => match patternSource bytes i with
    | some j => x.getD j 0
    | none => 0) c s
  { base with traps := trapIf (patternBad n bytes) s c .x .illsched }
/-- `xperm` reads its pattern at issue; a bad pattern raises ILLSCHED (R112). -/
def execXperm (a : XArgs) (s : State) : Host.Outcome State Fault Refusal :=
  issueAlone (.xperm a) .x (opXperm a) s

/-- `xrot` (R110). -/
def opXrot (a : XArgs) : OpFn := crossOp a fun x n i => x.getD ((i + n - a.idx.toNat) % n) 0
/-- `xrot` (R110). -/
def execXrot (a : XArgs) (s : State) : Host.Outcome State Fault Refusal :=
  issueAlone (.xrot a) .x (opXrot a) s

/-- `xshuf` (R110). -/
def opXshuf (a : XArgs) : OpFn := crossOp a fun x _ i => x.getD (i ^^^ 2 ^ a.idx.toNat) 0
/-- `xshuf` (R110). -/
def execXshuf (a : XArgs) (s : State) : Host.Outcome State Fault Refusal :=
  issueAlone (.xshuf a) .x (opXshuf a) s

/-- `xbcast`: one 64-bit lane to every 64-bit lane (R110). -/
def opXbcast (a : XArgs) : OpFn := crossOp a fun x _ i => x.getD (2 * a.idx.toNat + i % 2) 0
/-- `xbcast`: one 64-bit lane to every 64-bit lane (R110). -/
def execXbcast (a : XArgs) (s : State) : Host.Outcome State Fault Refusal :=
  issueAlone (.xbcast a) .x (opXbcast a) s

/-- `xzip` (R110). -/
def opXzip (a : XArgs) : OpFn := crossOp a fun x n i => x.getD (if i % 2 = 0 then i / 2 else i / 2 + n / 2) 0
/-- `xzip` (R110). -/
def execXzip (a : XArgs) (s : State) : Host.Outcome State Fault Refusal :=
  issueAlone (.xzip a) .x (opXzip a) s

/-- `xunzip` (R110). -/
def opXunzip (a : XArgs) : OpFn := crossOp a fun x n i => x.getD (if i < n / 2 then 2 * i else 2 * (i - n / 2) + 1) 0
/-- `xunzip` (R110). -/
def execXunzip (a : XArgs) (s : State) : Host.Outcome State Fault Refusal :=
  issueAlone (.xunzip a) .x (opXunzip a) s

end Sys2Proof.Machine
end

