-- ==== Sys2Proof/Machine/Queue.lean ====
section
/-! DEFINITION. The head of a store queue, the atom step, pushes for an entry, and traps that a queue step raises (spec 11, R196,
R200; 12, R206; 13, R223; 17, R291; 22, R373). -/
namespace Sys2Proof.Machine

/-- The entry at the head of a context's store queue (R196). -/
def headEntry (s : State) (c : Nat) : Option Entry := (s.ctx c).storeQ.head?
/-- The head leaves the store queue. -/
def popHead (s : State) (c : Nat) : State := s.modCtx c fun x => { x with storeQ := x.storeQ.tail }
/-- The head of the store queue changes in place. -/
def setHead (s : State) (c : Nat) (e : Entry) : State := s.modCtx c fun x => { x with storeQ := e :: x.storeQ.tail }

/-- The L1 of core `k` lacks some of the `n` bytes at `pa`. -/
def lacks (s : State) (k pa n : Nat) : Bool := match l1Line s k (pa / 128) with
  | some x => !covers x.valid pa n
  | none => true
/-- The L1 of core `k` takes the line of `n` bytes at `pa` exclusive for an atomic: it fills the line if it lacks it, and marks
it (R206). -/
def takeExclusive (s : State) (k pa n : Nat) (e : W64) : State :=
  let line := pa / 128
  let s1 := dropOthers s k line s.cores
  let s2 := if lacks s1 k pa n then fillLine s1 k line e 0 else s1
  let s3 := obtainPinned s2 (agentOfCore s2 k) line e
  match l1Line s3 k line with
  | some x => setL1 s3 k line { x with excl := true }
  | none => s3

/-- Write `n` bytes as dirty bytes of an L1 line. -/
def storeL1 (s : State) (k pa : Nat) (e : W64) : Nat → Nat → State
  | 0, _ => s
  | n + 1, x => storeL1 (storeByteL1 s k pa (BitVec.ofNat 8 x) e) k (pa + 1) e n (x / 256)

/-- The atom step of an atomic of core `k` (R206, R224, R235): in a scratchpad, on a home-01 line and without an L1 it performs
where the bytes stand, once every other L1 has given the line up, else in the L1 that takes the line exclusive.  The old value, and the
state. -/
def atomStep (s : State) (k pa n : Nat) (e : W64) (f : Nat → Nat) : Nat × State :=
  if !cacheable s pa e then
    let old := s.readMem pa n
    (old, putMem (homeAccess s (agentOfCore s k) (pa / 128) true (bytesAt pa n (f old))) pa n (f old))
  else if (s.core k).u = 0 then
    let s1 := obtainPinned (dropOthers s k (pa / 128) s.cores) (agentOfCore s k) (pa / 128) e
    let old := s1.readMem pa n
    (old, s1.writeMem pa n (f old))
  else
    let s1 := takeExclusive s k pa n e
    match l1Line s1 k (pa / 128) with
    | some x =>
      let old := l1Bytes x pa n
      (old, storeL1 s1 k pa e n (f old))
    | none => (0, s1)

/-- Every dirty line of the core's L1 is pushed for an entry of a bead, which counts them (R345, R373). -/
def pushFor (s : State) (c life : Nat) : State :=
  let k := coreOf c
  countLater (pushAll s k) life evPush (dirtyLines s k).length

/-- The bead of a life that has been saved, with its key. -/
def savedOf (s : State) (life : Nat) : Option (Nat × Saved) := s.hub.saved.find? fun (_, v) => v.life == life

/-- The context in which a bead life runs. -/
def ctxOfLife (s : State) (life : Nat) : Option Nat := (s.ctxs.find? fun (_, x) => match x.run with
  | some b => b.life == life
  | none => false).map (·.1)
/-- A trap reaches the bead of a life, in its context or in its saved state, at its first bundle boundary; a completed bead has none. -/
def trapLife (s : State) (life : Nat) (x : Cause) : State := match ctxOfLife s life, savedOf s life with
  | some c, _ => s.modCtx c fun k => { k with pendTraps := k.pendTraps ++ [x] }
  | none, some (key, v) => s.modHub fun h => { h with saved := h.saved.set key { v with pendTraps := v.pendTraps ++ [x] } }
  | none, none => s
/-- The handler of a completed bead's deferred trap (R291): its record is written with RESUME 0, and a handler instance
starts from the job's template.  A cancelled bead keeps its record, and no handler runs (R343). -/
def trapCompleted (s0 : State) (c : Nat) (e : Entry) (x : Cause) : State :=
  if s0.hub.ended.contains e.life then s0
  else
  let s := vSee s0 e.job e.bead 64
  let save := beadSave s e.job e.bead
  let s1 := vWrite s e.job save 64 (trapRecord x 0 e.launch (beadWord s e.job e.bead 3 % 2 ^ 32))
  let b : Bead := { addr := e.bead, job := e.job, sup := e.sup, queue := 0, rank := 0, save := save, launch := e.launch,
                    index := 0, budget := 0, life := e.life }
  startHandler s1 c b x e.launch

/-- A queue step raises a trap at the bead that issued the entry: in the context where it runs, in its saved state until it next runs, or,
once it has issued `done`, at its handler alone (R223, R291). -/
def deferTrap (s : State) (c : Nat) (e : Entry) (x : Cause) : State :=
  if (ctxOfLife s e.life).isSome || (savedOf s e.life).isSome then trapLife s e.life x else trapCompleted s c e x

/-- The address of an entry's access, which a trap record gives (R340); 0 where the entry has no address. -/
def Entry.va (e : Entry) : Nat := match e.pins with
  | (_, a, _) :: _ => a
  | [] => 0
/-- A queue step meets a line that its home does not serve, MCHK, or data that cannot be corrected, SOFT: the trap, with its fault-log
entry (R223, R273, R336, R393). -/
def lineTrap (s : State) (c line : Nat) (e : Entry) (code : TrapCode) : State :=
  let n := s.mgmt.flogN
  deferTrap (logFault s (logAt s c (ofJob s e.job (lineError s code line e.pc)))) c e
    { Cause.plain code (some e.slot) e.pc 0 e.va with log := n }
/-- MCHK at a queue step. -/
def tagTrap (s : State) (c line : Nat) (e : Entry) : State := lineTrap s c line e .mchk
/-- An entry whose line is bad: its landings land with the trap, or the bead takes it at its next boundary (R223, R273, R336). -/
def failEntry (s : State) (c line : Nat) (e : Entry) (uids : List Nat) (code : TrapCode) : State :=
  if uids.isEmpty then lineTrap s c line e code
  else
    let n := s.mgmt.flogN
    uids.foldl (fun s u => deliver s u fun l => { l with waiting := false, faulty := some (code, e.va, n) })
      (logFault s (logAt s c (ofJob s e.job (lineError s code line e.pc))))
/-- The data of a line that core `k` must read below its L1 holds an error (R273). -/
def dataFault (s : State) (k pa n : Nat) (e : W64) : Bool :=
  s.homes.dataErr.contains (pa / 128) && (!cacheable s pa e || lacks s k pa n)

/-- The first line of a list whose push from core `k`'s L1 its home does not serve. -/
def badPush (s : State) (k : Nat) (l : List Nat) : Option Nat := l.find? fun line => match l1Line s k line with
  | some x => pushFault s k line x
  | none => false

/-! ### Waiting (R314, R317, R348) -/

/-- The wait condition of a bead record, by a read at the coherent point (R314). -/
def waitHolds (s : State) (j va : Nat) : Bool :=
  let w5 := beadWord s j va 5
  let w := vRead s j (w5 / 8 * 8) 8 % 2 ^ 32
  let v := beadWord s j va 4 % 2 ^ 32
  match w5 % 8 with
  | 1 => decide ((w + 2 ^ 32 - v) % 2 ^ 32 < 2 ^ 31)
  | 2 => w == v
  | _ => false

/-- An atomic or acquire that a waiting bead released, or a read that it issued, comes before the read that ends its wait (R207, R348). -/
def waitBehind (s : State) (j va : Nat) : Bool := s.ctxs.any fun (_, x) =>
  x.storeQ.any (fun e => e.holdsReads && e.job == j && e.bead == va) ||
  x.reads.any fun r => s.hub.saved.any fun (k, v) => v.life == r.life && v.addr == va && k / 2 ^ 64 == j
/-- The hub reads the record of a waiting bead and the word that it waits for (R7, R314). -/
def seeWait (s : State) (j va : Nat) : State :=
  let s1 := vSee s j va 64
  vSee s1 j (beadWord s1 j va 5 / 8 * 8) 8
/-- Every waiting bead whose condition holds is marked: a wake-up is never lost, and never withdrawn (R317, R348, R366). -/
def markWaiters (s : State) : State :=
  let s1 := (s.hub.waiters.filter fun (_, _, held) => !held).foldl (fun s (j, va, _) => seeWait s j va) s
  s1.modHub fun h => { h with waiters := h.waiters.map fun (j, va, held) =>
    (j, va, held || (waitHolds s1 j va && !waitBehind s1 j va)) }

/-! ### Traps of reads and transfers that no entry holds (R223, R273, R336) -/

/-- The trap of a transfer's step, with its fault-log entry (R223, R273, R336, R393). -/
def transferTrap (s : State) (t : Transfer) (line : Nat) (code : TrapCode) : State :=
  let n := s.mgmt.flogN
  let e := ofJob s t.job (lineError s code line t.pc)
  let va := match t.pins with
    | (_, a, _) :: _ => a
    | [] => 0
  trapLife (logFault s (match t.ctx with
    | some c => logAt s c e
    | none => { e with agent := t.agent })) t.life { Cause.plain code none t.pc 0 va with log := n }

/-- A transfer completes (R206, R240): its counter takes one more by a coherent-point atom step, and it leaves the tile
queue.  A counter whose line is bad takes nothing, and the bead takes the trap (R223, R273). -/
def finishTransfer (s : State) (t : Transfer) : State :=
  let s1 := { s with transfers := s.transfers.filter (·.uid != t.uid) }
  match t.counter with
  | some (pa, pte) => match atomFault s1 t.agent pa pte with
    | some code => transferTrap s1 t (pa / 128) code
    | none => markWaiters (cpAtom s1 t.agent pa pte 8 fun x => (x + 1) % 2 ^ 64)
  | none => s1

end Sys2Proof.Machine
end

