-- ==== Sys2Proof/Machine/Protocol.lean ====
section
/-! DEFINITION. Coherence messages as they reach the home and the agents, evictions, lost agents, resent flits and page
walks (spec 13, R219 to R225; 15, R257, R258, R264 to R266; 23, R378, R389). -/
namespace Sys2Proof.Machine

/-! ### Requests at the home (R220 to R223) -/

/-- The home takes up a request for an idle line: it completes in one access, or the line becomes busy (R221). -/
def beginRequest (s : State) (req : Request) (q line : Nat) : State :=
  if tagFault s line then logTag s q line
  else if inHeap s (line * 128) then (if req = .rds then serveRdS (sendAnswer s req q line false false) q line else s)
  else match needs s req q line with
    | ([], none) =>
      let s1 := sendAnswer s req q line false (marks s q line)
      if req = .rds then serveRdS s1 q line else serveRdX s1 q line
    | (acks, fwd) =>
      let x : HomeTxn :=
        { req := req, q := q, owner := fwd, forwarded := fwd.isNone, ownerDirty := false, fromWriteback := false, acks := acks }
      (sendNeeds s req line acks fwd).modHomes fun h => { h with busy := h.busy.set line x }

/-- A request reaches the home of a line; for a busy line it waits (R221). -/
def request (s0 : State) (req : Request) (q line : Nat) : State :=
  if !tagged s0 (line * 128) || !s0.homes.present.contains q || s0.homes.lost.contains q then s0
  else
    let s := carry s0 req.message line q (paAgent (line * 128))
    if lineBusy s line then s.modHomes fun h => { h with waiting := h.waiting ++ [(line, req, q)] }
    else beginRequest s req q line

/-- RDS (R222). -/
def execRds (q line : Nat) (s : State) : Host.Outcome State Fault Refusal := .next (request s .rds q line)
/-- RDX (R222). -/
def execRdx (q line : Nat) (s : State) : Host.Outcome State Fault Refusal := .next (request s .rdx q line)
/-- UPG (R222, R223): an agent that the tag no longer marks is served as by RdX, and otherwise the outcome is the same. -/
def execUpg (q line : Nat) (s : State) : Host.Outcome State Fault Refusal := .next (request s .upg q line)

/-- Whether the transaction on a line awaits nothing more (R221). -/
def HomeTxn.over (x : HomeTxn) : Bool := x.forwarded && x.acks.isEmpty

/-- Change the transaction in progress on a line. -/
def setTxn (s : State) (line : Nat) (x : HomeTxn) : State := s.modHomes fun h => { h with busy := h.busy.set line x }

/-- Agent `a` is on another module: its copies change without this module, so that its messages say what they hold (R220, R224; log
2). -/
def isForeign (s : State) (a : Nat) : Bool := a / 4 != s.pos
/-- The data of a line as a message brings them. -/
def writeLine (s : State) (line : Nat) (data : BitVec 1024) : State := cleanLine (s.writeMem (line * 128) 128 data.toNat) line
/-- What an owner answers to a forward: whether its copy sits in the writeback buffer, and whether it is dirty; an owner on another
module says so itself (R222, R223). -/
def answerOf (s : State) (o line : Nat) (dirty : Bool) : Bool × Bool :=
  let (wb, d) := ownerAnswer s o line
  (wb, (d || isForeign s o && dirty) || Tag.state (lineTag s line) != .e)
/-- The data that a dirty owner on another module supplies (R222). -/
def supply (s : State) (o line : Nat) (dirty : Bool) (data : BitVec 1024) : State :=
  if isForeign s o && dirty then writeLine s line data else s

/-- FWDS (R222, R223): the owner supplies the requester, from its writeback buffer if the line sits there, and keeps a dirty
copy in O or a clean one in S. -/
def execFwds (m : OwnerAnswer) (s : State) : Host.Outcome State Fault Refusal :=
  let line := m.line
  .next (match s.homes.busy.get? line with
    | none => s
    | some x => match x.req, x.owner, x.forwarded with
      | .rds, some o, false =>
        let (wb, d) := answerOf s o line m.dirty
        let s1 := supply (sendOwner s line x.q o) o line d m.data
        downgrade (setTxn s1 line { x with forwarded := true, ownerDirty := d, fromWriteback := wb }) o line (if d then .o else .s)
      | _, _, _ => s)

/-- FWDX (R222, R223): the owner supplies the requester and drops its copy. -/
def execFwdx (m : OwnerAnswer) (s : State) : Host.Outcome State Fault Refusal :=
  let line := m.line
  .next (match s.homes.busy.get? line with
    | none => s
    | some x => match x.req, x.owner, x.forwarded with
      | .rds, _, _ => s
      | _, some o, false =>
        let (wb, d) := answerOf s o line m.dirty
        let s1 := supply (sendOwner s line x.q o) o line d m.data
        forwardX (setTxn s1 line { x with forwarded := true, ownerDirty := d, fromWriteback := wb }) o line
      | _, _, _ => s)

/-- INV (R220, R222, R225): an agent drops any S copy and acknowledges.  Where no transaction of the line is in progress, an Inv for a heap
line of another module's home says that the line is to be freed: the agent drops every copy of it, those of its cores too, before its
Ack. -/
def execInv (a line : Nat) (s : State) : Host.Outcome State Fault Refusal :=
  .next (match s.homes.busy.get? line with
    | none =>
      let h := paAgent (line * 128)
      if inHeap s (line * 128) && isForeign s h && !isForeign s a && s.homes.present.contains a then
        carry (dropAt (carry s .inv line h a) a line) .ack line a h
      else s
    | some x =>
      if x.acks.contains a then
        setTxn (carry (dropShared s a line) .ack line a (paAgent (line * 128))) line { x with acks := x.acks.filter (· != a) }
      else s)

/-- The first request that waits for a line, and the others. -/
def takeWaiting (line : Nat) : List (Nat × Request × Nat) → Option ((Request × Nat) × List (Nat × Request × Nat))
  | [] => none
  | (l, r, q) :: w =>
    if l = line then some ((r, q), w)
    else match takeWaiting line w with
      | none => none
      | some (x, rest) => some (x, (l, r, q) :: rest)

/-- The requests that wait for a line are taken up in their order until one of them makes it busy (R221). -/
def takeUp (line : Nat) : Nat → State → State
  | 0, s => s
  | n + 1, s =>
    if lineBusy s line then s
    else match takeWaiting line s.homes.waiting with
      | none => s
      | some ((r, q), rest) => takeUp line n (beginRequest (s.modHomes fun h => { h with waiting := rest }) r q line)
/-- The requests that wait for a line which has become idle (R221). -/
def nextRequest (s : State) (line : Nat) : State := takeUp line s.homes.waiting.length s

/-- TRANSACTION_COMPLETE (R221): the last Ack or Done has arrived; the home rewrites the tag, and the line is no longer
busy. -/
def execTransactionComplete (line : Nat) (s : State) : Host.Outcome State Fault Refusal :=
  .next (match s.homes.busy.get? line with
    | none => s
    | some x => if x.over then nextRequest (settle s line) line else s)

/-! ### Evictions (R219, R222, R223) -/

/-- Mark a line's data as holding an uncorrectable error. -/
def markData (s : State) (line : Nat) : State :=
  s.modHomes fun h => { h with dataErr := if h.dataErr.contains line then h.dataErr else h.dataErr ++ [line] }
/-- Mark a line's tag as holding an uncorrectable error. -/
def markTag (s : State) (line : Nat) : State :=
  s.modHomes fun h => { h with tagErr := if h.tagErr.contains line then h.tagErr else h.tagErr ++ [line] }
/-- Data or a tag of a line that are known to be bad are met again, with no waiting context; correctable errors are found (R223, R273). -/
def keptError (s : State) (line detail : Nat) : State :=
  let s1 := findErrors s line
  if s.homes.dataErr.contains line || s.homes.tagErr.contains line then logNoContext s1 line detail else s1
/-- An error appears in an access with no waiting context (R223, R273). -/
def foundError (s : State) (line detail : Nat) : MemErr → State
  | .clean => s
  | .corrected n => logCorrected s line 0x01 n
  | .bad => logNoContext (markData s line) line detail
  | .tagCorrected => logCorrected s line 0x03 0
  | .tagBad => logNoContext (markTag s line) line detail
/-- An eviction, a push or a scrub meets the errors of a line, those kept from before and one that appears now; no context waits for them
(R223, R273). -/
def ownError (s : State) (line detail : Nat) : MemErr → State
  | .bad => foundError (findErrors s line) line detail .bad
  | .tagBad => foundError (findErrors s line) line detail .tagBad
  | err => foundError (keptError s line detail) line detail err

/-- The owner of an E, M or O tag. -/
def tagOwned (t : BitVec 16) (a : Nat) : Bool :=
  (Tag.state t == .e || Tag.state t == .m || Tag.state t == .o) && Tag.owner t == a

/-- The home's answer to WB or CE from the owner (R222): O keeps its sharers, E and M become I. -/
def tagAfterWb (t : BitVec 16) : BitVec 16 := if Tag.state t == .o then Tag.make (Tag.hints t) 0 1 else 0

/-- The home receives a WB, with its data, or a CE of agent `a` for an idle line: a tag that does not match discards it, as does a heap
line, whose tag names no owner, and a line that the home does not serve is reported (R222, R223, R225).  The data of this module's own
agents stand at the coherent point already. -/
def writeback (s : State) (kind : CohKind) (a line : Nat) (data : Option (BitVec 1024)) : State :=
  let s1 := dropL2 (carry s kind line a (paAgent (line * 128))) a line
  let t := lineTag s line
  if tagFault s line then logNoContext s1 line 1
  else if tagOwned t a && !inHeap s (line * 128) then
    let s2 := match data with
      | some d => if isForeign s a then writeLine s1 line d else s1
      | none => s1
    setTag (touch s2 line) line (tagAfterWb t)
  else s1
/-- Agent `a` holds the line in its writeback buffer, and the home takes its WB or CE now: the line is idle, and the agent is not lost
(R221, R223). -/
def mayWriteBack (s : State) (a line : Nat) (x : L2Copy) : Bool :=
  x.inWriteback && !lineBusy s line && !s.homes.lost.contains a

/-- WB (R222): data of an M or O copy, or of an E copy that has become dirty. -/
def execWb (a : Nat) (l : LineData) (s : State) : Host.Outcome State Fault Refusal :=
  .next (match l2Copy s a l.line with
    | some x => if mayWriteBack s a l.line x && (x.dirty || isForeign s a) then writeback s .wb a l.line (some l.data) else s
    | none => s)

/-- CE (R222): eviction of an E copy without data. -/
def execCe (a line : Nat) (s : State) : Host.Outcome State Fault Refusal :=
  .next (match l2Copy s a line with
    | some x => if mayWriteBack s a line x && !x.dirty then writeback s .ce a line none else s
    | none => s)

/-- L2_EVICTION (R219, R223, R258, R273): an S copy goes silently, an E, M or O copy waits in the writeback buffer. -/
def execL2Eviction (a line : Nat) (err : MemErr) (s : State) : Host.Outcome State Fault Refusal :=
  .next (match l2Copy s a line with
    | some x =>
      if x.pinned || x.inWriteback then s
      else
        let s1 := ownError s line 1 err
        if x.st = .s then dropL2 s1 a line else setL2 s1 a line { x with inWriteback := true }
    | none => s)

/-! ### Lost agents and resent flits (R223, R378, R389) -/

/-- A transaction no longer waits for a lost agent: its Ack counts as given; a forward to it ends the transaction with
nothing served (R223).  A request of the lost agent itself that waits, or whose transaction is in progress, is still served, and may leave
the lost agent as the line's owner: R223 does not say what becomes of it (log 156, DESIGN CHOICE). -/
def loseTxns (a : Nat) : List (Nat × HomeTxn) → State → State
  | [], s => s
  | (line, x) :: r, s =>
    loseTxns a r (
      if x.owner = some a ∧ !x.forwarded ∧ !x.over then
        nextRequest (logTag (s.modHomes fun h => { h with busy := h.busy.erase line }) x.q line) line
      else setTxn s line { x with acks := x.acks.filter (· != a) })

/-- A channel entry of a job names an agent as the receiver of its sends (R381). -/
def peerOf (s : State) (j ch : Nat) : Nat := bitsOf (vRead s j (chanVa s j ch) 8) 56 7
/-- Set PABORT in a channel entry by one atom step (R381, R388). -/
def setPabort (s : State) (j ch : Nat) : State :=
  vAtomStep s j (chanVa s j ch + 24) 8 fun x => if bitsOf x 39 1 = 1 then x else x + 2 ^ 39
/-- The channels of a job: every number up to LAST whose table exists (R380). -/
def channelsOf (s : State) (j : Nat) : List Nat :=
  let t := (s.job j).chtab.toNat
  if t / 2 ^ 16 = 0 then [] else List.range (t % 4096 + 1)
/-- A channel entry names agent `a` as the receiver of its sends, or its stream receives from it: a contribution of `a` has arrived, or
`a` is an agent of this module, whose own sends on the channel come to this module (R388; log 57). -/
def names (s : State) (j ch a : Nat) : Bool :=
  let p := peerOf s j ch
  p == a || (s.chans.get (chanKey j ch) Chan.reset).senders.contains a || (a / 4 == s.pos && p / 4 == s.pos)
/-- Set PABORT in every entry of a job that names agent `a` or receives from it (R388). -/
def abortFrom (s : State) (j a : Nat) : State :=
  ((channelsOf s j).filter fun ch => names s j ch a).foldl (fun s ch => setPabort s j ch)
    ((channelsOf s j).foldl (fun s ch => vSee s j (chanVa s j ch) 64) s)
/-- A pending operation on a channel of job `j` that agent `a` aborts (R388). -/
def onChannel (s : State) (j a : Nat) (t : Transfer) : Bool := match t.kind with
  | .chsend k ch .. => k == j && names s j ch a
  | .chrecv k ch _ => k == j && names s j ch a
  | _ => false
/-- A pending receive leaves its channel. -/
def dropRecv (s : State) (uid : Nat) : State :=
  { s with chans := List.map (fun (p : Nat × Chan) => (p.1, { p.2 with recvs := p.2.recvs.filter fun r => r.1 != uid })) s.chans }
/-- Pending channel operations complete at once, with nothing delivered (R388).  A `chrecv` that ends so leaves the abandon mark of its tile
register as it is: R136 and R388 do not say that it clears the mark (log 157, DESIGN CHOICE). -/
def endChannels (s : State) (j a : Nat) : State :=
  (s.transfers.filter (onChannel s j a)).foldl (fun s t => finishTransfer (dropRecv s t.uid) t) s
/-- An abort of agent `a` reaches a job on this module (R388, R389). -/
def abortJob (s : State) (j a : Nat) : State := endChannels (abortFrom s j a) j a

/-- AGENT_LOST (R223, R389): every peer declares the agent lost. -/
def execAgentLost (a : Nat) (s : State) : Host.Outcome State Fault Refusal :=
  .next (
    if !s.homes.present.contains a || s.homes.lost.contains a || a / 4 == s.pos then s
    else
      let s1 := logFault (s.modHomes fun h => { h with lost := h.lost ++ [a] }) { kind := 0x06, detail := a }
      (loseTxns a s1.homes.busy s1).jobs.foldl (fun s (j, _) => abortJob s j a) (loseTxns a s1.homes.busy s1))

/-- FLIT_RESEND (R223, R378): a lost flit is sent once more and counted as a flit sent; nothing else changes. -/
def execFlitResend (port : Nat) (s : State) : Host.Outcome State Fault Refusal :=
  .next (if port < 16 then countFabric s evFabTx else s)

/-! ### Page walks (R264 to R266) -/

/-- PAGE_WALK (R264 to R266): the die's walker finds the translation of an address for the bead in a context, and both TLBs
keep it; a walk that raises XLATE leaves nothing. -/
def execPageWalk (c va : Nat) (s : State) : Host.Outcome State Fault Refusal := .next (pageWalk s c va)

end Sys2Proof.Machine
end

