-- ==== Sys2Proof/Machine/Device.lean ====
section
/-! DEFINITION. The management window's writes, base dies, reset and bring-up, resynchronisation, attestation and power (spec 15,
R259 to R263, R271 to R273; 17, R286, R287; 22, R371, R376; 23, R386, R391; 24, R392 to R401). -/
namespace Sys2Proof.Machine

/-! ### Cache layer, near region and hot rows (R259, R260, R271, R272) -/

/-- DCCTL of a stack. -/
def dcctl (s : State) (i : Nat) : Dcctl := s.tiers.dcctl.get i Dcctl.reset
/-- Set DCCTL of a stack. -/
def setDcctl (s : State) (i : Nat) (d : Dcctl) : State := s.modTiers fun t => { t with dcctl := t.dcctl.set i d }
/-- A write of NEARWAYS (R259, R260). -/
def writeNearWays (s : State) (i w : Nat) : State :=
  let d := dcctl s i
  if d.busy || decide (12 < w) then setDcctl s i { d with err := true } else setDcctl s i { d with busy := true, target := w }
/-- ERR is W1C (R259). -/
def clearDcctlErr (s : State) (i : Nat) : State := setDcctl s i { dcctl s i with err := false }

/-- DCCTL_WRITE (R259, R260): a write of the whole register. -/
def execDcctlWrite (stack : Nat) (val : BitVec 64) (s : State) : Host.Outcome State Fault Refusal :=
  .next (if 8 ≤ stack then s
    else writeNearWays (if val.getLsbD 30 then clearDcctlErr s stack else s) stack (val.extractLsb' 0 4).toNat)

/-- Physical address of a stack's near region (R254). -/
def nearBase (s : State) (stack : Nat) : Nat :=
  (4 * s.pos + stack / 2) * 2 ^ 45 + 0x100000000000 + stack % 2 * 2 ^ 32
/-- Way `w` of a stack's cache layer is converted when the near region grows from `lo` to `hi` ways. -/
def isConverted (lo hi w : Nat) : Bool := decide (lo ≤ w) && decide (w < hi)
/-- Lines of a stack that its cache layer holds in the ways that are converted (R260). -/
def layerLines (s : State) (stack lo hi : Nat) : List Nat := s.tiers.cached.entries.flatMap fun (k, x) =>
  if k / 2 ^ 32 = stack then (x.filter fun (w, _) => isConverted lo hi w).map (·.2) else []
/-- A home transaction holds one of a stack's lines busy (R221). -/
def layerBusy (s : State) (stack : Nat) (l : List Nat) : Bool := s.homes.busy.any fun (line, _) => match hbmLine s line with
  | some (st, x) => st == stack && l.contains x
  | none => false
/-- Ways of a stack are flushed to the data layers, and captured rows that they hold are released, their counts starting again (R260,
R272).  The bytes and tags of a line are the same in both places. -/
def flushWays (s : State) (stack lo hi : Nat) : State :=
  let l := layerLines s stack lo hi
  let rows := s.tiers.hotRows.filter fun (st, row) => st == stack && l.any fun x => x / 8 == row
  s.modTiers fun t => { t with
    cached := t.cached.change fun k x => if k / 2 ^ 32 = stack then x.filter fun (w, _) => !isConverted lo hi w else x
    hotRows := t.hotRows.filter fun r => !rows.contains r
    rowAct := rows.foldl (fun r (st, row) => Paged.erase r (rowKey st row)) t.rowAct }

/-- NEAR_CONVERSION_DONE (R260): flushed ways keep their lines in the data layers, each line as one home transaction; bytes of ways given
back are lost, so that they read as unwritten bytes do. -/
def execNearConversionDone (stack : Nat) (s : State) : Host.Outcome State Fault Refusal :=
  .next (
    let d := dcctl s stack
    if !d.busy || layerBusy s stack (layerLines s stack d.ways d.target) then s
    else
      let base := nearBase s stack
      let s1 := if d.ways < d.target then flushWays s stack d.ways d.target
        else { s with mem := Memory.clear s.mem (base + d.target * 2 ^ 28) ((d.ways - d.target) * 2 ^ 28) }
      setDcctl s1 stack { d with ways := d.target, busy := false })

/-- Refreshes that have fallen due since TIMEBASE 0: 8192 in each 32 ms (R271). -/
def refreshesDue (s : State) : Nat := s.hub.timebase.toNat * 8192 / 32000000
/-- Refreshes that a bank has had. -/
def refreshesHad (s : State) (stack bank : Nat) : Nat := s.tiers.refreshed.get (rowKey stack bank) 0
/-- Set the refreshes that a bank has had. -/
def setRefreshed (s : State) (stack bank n : Nat) : State :=
  s.modTiers fun t => { t with refreshed := t.refreshed.set (rowKey stack bank) n }
/-- Banks of a bank group (log 41). -/
def groupBanks : Nat := 4

/-- REFRESH (R271): a bank takes one refresh that is due; one with more than eight postponed has its whole bank group brought
up to date. -/
def execRefresh (stack bank : Nat) (s : State) : Host.Outcome State Fault Refusal :=
  .next (
    let due := refreshesDue s
    let had := refreshesHad s stack bank
    if due ≤ had then s
    else if 8 < due - had then
      (List.range groupBanks).foldl (fun s i => setRefreshed s stack (bank / groupBanks * groupBanks + i) due) s
    else setRefreshed s stack bank (had + 1))

/-- One more refresh of a row of a stack. -/
def refreshRow (stack : Nat) (t : Table Nat) (row : Nat) : Table Nat :=
  t.set (rowKey stack row) (t.get (rowKey stack row) 0 + 1)
/-- The rows beside a row (log 41). -/
def neighbours (row : Nat) : List Nat := (if row = 0 then [] else [row - 1]) ++ [row + 1]
/-- A row has been activated for the 512th time (R272): its 8 lines are placed in the cache layer and held; with 4096 captured rows in its
stack the rows beside it are refreshed instead, and its count restarts. -/
def captureRow (s : State) (stack row : Nat) : State :=
  let s1 := s.modTiers fun t => { t with hotDue := t.hotDue.filter (· != (stack, row)) }
  if 4096 ≤ (s.tiers.hotRows.filter (·.1 == stack)).length then
    s1.modTiers fun t => { t with
      rowAct := t.rowAct.erase (rowKey stack row), rowRefreshed := (neighbours row).foldl (refreshRow stack) t.rowRefreshed }
  else (List.range 8).foldl (fun s i => allocLayer s stack (8 * row + i))
    (s1.modTiers fun t => { t with hotRows := t.hotRows ++ [(stack, row)] })
/-- HOT_ROW_CAPTURE (R272). -/
def execHotRowCapture (stack row : Nat) (s : State) : Host.Outcome State Fault Refusal :=
  .next (if s.tiers.hotDue.contains (stack, row) then captureRow s stack row else s)

/-- The nanosecond at which a stack's refresh window ends (R271). -/
def windowEnd (s : State) (stack : Nat) : Nat := s.tiers.windowAt.get stack Config.windowNs
/-- A refresh window of a stack ends: every count is cleared and every captured row is released (R272). -/
def endWindow (s : State) (stack : Nat) : State :=
  if s.hub.timebase.toNat < windowEnd s stack then s
  else s.modTiers fun t => { t with
    hotRows := t.hotRows.filter (·.1 != stack), rowAct := t.rowAct.keep fun k _ => k / 2 ^ 32 != stack
    hotDue := t.hotDue.filter (·.1 != stack)
    windowAt := t.windowAt.set stack ((s.hub.timebase.toNat / Config.windowNs + 1) * Config.windowNs) }
/-- REFRESH_WINDOW_END (R272). -/
def execRefreshWindowEnd (stack : Nat) (s : State) : Host.Outcome State Fault Refusal := .next (endWindow s stack)

/-! ### Migration (R262, R263) -/

/-- Access count of a page. -/
def pageCountOf (s : State) (page : Nat) : Nat := s.tiers.pageCount.get page 0
/-- First page number of an agent. -/
def firstPage (a : Nat) : Nat := a * 2 ^ 29
/-- Pages of an agent's memory. -/
def memPages : Nat := 312 * gib / 2 ^ 16

/-- Some leaf with NOMIG maps a page, in a table of level `3 - n` at `t` (R263, R264). -/
def nomigIn (s : State) (page : Nat) : Nat → Nat → Bool
  | 0, _ => false
  | n + 1, t => (List.range (if n = 0 then 32 else if n = 1 then 2048 else 4096)).any fun i =>
    match tableEntry s t i with
    | none => false
    | some e =>
      Pte.v e && (if Pte.table e then nomigIn s page n (Pte.frame e)
        else Pte.nomig e && decide (Pte.frame e / 2 ^ 16 ≤ page) && decide (page < (Pte.frame e + Pte.bytes e) / 2 ^ 16))
/-- A page that stays where it is in some job (R263). -/
def isNomig (s : State) (page : Nat) : Bool :=
  s.jobs.any fun (_, j) => nomigIn s page 4 (j.ptroot.toNat % 2 ^ 52 / 2 ^ 16 * 2 ^ 16)

/-- The page of an agent's capacity tier that moves next: the lowest that has reached 32 (R263). -/
def hotPage (s : State) (a : Nat) : Option Nat := (s.tiers.pageCount.filter fun (p, n) =>
  p / 2 ^ 29 == a && decide (32 ≤ n) && inMemory s (512 * p) && !inHbm s p && !isNomig s p).head?.map (·.1)
/-- The first HBM page with count `n` among `k` pages from `p` on. -/
def coldFrom (s : State) (n : Nat) : Nat → Nat → Option Nat
  | 0, _ => none
  | k + 1, p => if inHbm s p && pageCountOf s p == n && !isNomig s p then some p else coldFrom s n k (p + 1)
/-- The HBM page of lowest count below 4, the lower address first (R263). -/
def coldPage (s : State) (a : Nat) : Option Nat :=
  firstSome ((List.range 4).map fun n => coldFrom s n memPages (firstPage a))
/-- The nanosecond at which an agent's epoch ends; epochs run from the moment at which the migrator is enabled (R263; log 139). -/
def epochEnd (s : State) (a : Nat) : Nat := s.tiers.epochAt.get a Config.epochNs
/-- Epochs of an agent that have ended. -/
def epochsOver (s : State) (a : Nat) : Nat := (s.hub.timebase.toNat + Config.epochNs - epochEnd s a) / Config.epochNs
/-- The epoch of an agent ends: every count of its pages is halved (R263). -/
def endEpoch (s : State) (a : Nat) : State :=
  let n := epochsOver s a
  if !s.mgmt.migen || n == 0 then s
  else s.modTiers fun t => { t with
    pageCount := List.map (fun (p : Nat × Nat) => if p.1 / 2 ^ 29 = a then (p.1, p.2 / 2 ^ n) else p) t.pageCount
    moves := t.moves.erase a, epochAt := t.epochAt.set a (epochEnd s a + n * Config.epochNs) }
/-- MIGRATOR_EPOCH (R263). -/
def execMigratorEpoch (a : Nat) (s : State) : Host.Outcome State Fault Refusal := .next (endEpoch s a)

/-- Set an agent's exchange of pages. -/
def setMove (s : State) (a : Nat) (m : Migration) : State := s.modTiers fun t => { t with migrating := t.migrating.set a m }
/-- A line that is known to be bad as the migrator meets it: its tag cannot be served, or its data is bad (R223, R273). -/
def reportBad (s : State) (line : Nat) : State :=
  if tagFault s line || s.homes.dataErr.contains line then logNoContext s line 2 else s
/-- The next line of an exchange becomes busy as it moves (R224); a bad line moves as it is and is reported (R223, R273; log 140). -/
def startLine (s : State) (a : Nat) (m : Migration) (err : MemErr) : State :=
  let p := m.up * 512 + m.done
  let q := m.down * 512 + m.done
  if (s.homes.busy.get? p).isSome || (s.homes.busy.get? q).isSome then s
  else setMove (foundError (reportBad (reportBad s p) q) p 2 err) a { m with busy := true }
/-- The line of an exchange has moved, and requests that met it are taken up (R221, R224). -/
def finishLine (s : State) (a : Nat) (m : Migration) : State :=
  nextRequest (nextRequest (endMove s a m) (m.up * 512 + m.done)) (m.down * 512 + m.done)
/-- The two pages that an agent exchanges next: the places of HBM and of the capacity tier are as many as an agent's pages, so that HBM
never has a free frame and a promotion is always an exchange (R262, R263; log 140). -/
def nextExchange (s : State) (a : Nat) : Option Migration :=
  if !s.mgmt.migen || decide (2048 < s.tiers.moves.get a 0 + 2) || (localDie s a).isNone then none
  else match hotPage s a, coldPage s a with
    | some p, some q => some { up := p, down := q, done := 0, busy := false }
    | _, _ => none

/-- PAGE_MIGRATE (R224, R263, R273): a hot page of the capacity tier changes places with the coldest page of HBM line by line, tags and
addresses unchanged. -/
def execPageMigrate (a : Nat) (err : MemErr) (s : State) : Host.Outcome State Fault Refusal :=
  .next (match s.tiers.migrating.get? a with
    | some m => if m.busy then finishLine s a m else startLine s a m err
    | none => match nextExchange s a with
      | some m => setMove s a m
      | none => s)

/-- SCRUB (R223, R273): a scrub of a line of memory. -/
def execScrub (line : Nat) (err : MemErr) (s : State) : Host.Outcome State Fault Refusal :=
  .next (if tagged s (line * 128) then ownError s line 3 err else s)

/-! ### Heap descriptors (R286, R287) -/

/-- Change a heap descriptor. -/
def modHeap (s : State) (a : Nat) (f : Heap → Heap) : State :=
  s.modHall fun h => { h with heaps := h.heaps.set a (f (s.heap a)) }
/-- A write of a word of a heap descriptor (R286): the word at 24 clears HRDY and starts the initialisation (R287). -/
def writeHeapWord (s : State) (a i : Nat) (v : W64) : State := match i with
  | 0 => modHeap s a fun h => { h with hbase := v }
  | 1 => modHeap s a fun h => { h with nlines := v &&& 0xFFFFFFFFFF }
  | 2 => modHeap s a fun h => { h with dbase := v }
  | _ => (modHeap s a fun h => { h with word24 := v &&& 0xFFFFFFFF00001FFF }).modHall fun h => { h with
      heapInit := h.heapInit.filter (· != a) ++ [a] }

/-- The initialisation of an agent's heap (R287): it writes every line of the directory, free maps and all, at its home (R259; log 166). -/
def initHeap (s0 : State) (a : Nat) : State :=
  let h := s0.heap a
  let s := touchLines s0 (linesOf (a * 2 ^ 45 + h.dbase.toNat) (directoryBytes h))
  let base := a * 2 ^ 45 + h.dbase.toNat
  let n := 256 * (buckets h + overflows h)
  let first := (a * 2 ^ 45 + h.hbase.toNat) / 128
  let maps := List.replicate (mapBytes (heapLines h) + mapBytes (overflows h)) (0xFF : Byte)
  let s1 := { s with mem := Memory.write (Memory.clear s.mem base n) (base + n) maps }
  let s2 := s1.modHomes fun x => { x with tags := x.tags.keep fun l _ => l < first || first + heapLines h ≤ l }
  modHeap s2 a fun h => { h with word24 := h.word24 ||| 0x80000000 }

/-- HEAP_INIT (R287). -/
def execHeapInit (a : Nat) (s : State) : Host.Outcome State Fault Refusal :=
  .next (if s.hall.heapInit.contains a then
      initHeap (s.modHall fun h => { h with heapInit := h.heapInit.filter (· != a) }) a
    else s)

/-! ### Control (R392) -/

/-- MCTL_HALT (R392). -/
def execMctlHalt (on : Bool) (s : State) : Host.Outcome State Fault Refusal :=
  .next (s.modMgmt fun m => { m with halt := on })
/-- MIGEN takes a value; with it the first epoch of each agent begins (R263; log 139). -/
def setMigen (s : State) (on : Bool) : State :=
  let s1 := s.modMgmt fun m => { m with migen := on }
  if on && !s.mgmt.migen then
    let at0 := s.hub.timebase.toNat + Config.epochNs
    s1.modTiers fun t => { t with epochAt := (List.range Config.dies).foldl (fun e d => e.set (4 * s.pos + d) at0) t.epochAt }
  else s1
/-- MCTL_MIGEN (R262, R392). -/
def execMctlMigen (on : Bool) (s : State) : Host.Outcome State Fault Refusal := .next (setMigen s on)

/-- Watts within the range of ALLOW (R400). -/
def clampWatts (n : Nat) : Nat := Nat.max 200 (Nat.min 1600 n)
/-- A driver's write of ALLOW takes effect at once (R400). -/
def writeAllow (s : State) (n : Nat) : State := s.modMgmt fun m => { m with pwrAllow := BitVec.ofNat 16 (clampWatts n) }
/-- PWR_ALLOW_WRITE (R400). -/
def execPwrAllowWrite (watts : Nat) (s : State) : Host.Outcome State Fault Refusal := .next (writeAllow s watts)

/-- POWER_GRANT_SEND (R400). -/
def execPowerGrantSend (port watts : Nat) (s : State) : Host.Outcome State Fault Refusal :=
  .next (
    let m := s.mgmt
    if 16 ≤ port ∨ m.pwrAllow.toNat < m.pwrFloor.toNat + watts then s
    else countFabric { s.modMgmt fun m => { m with pwrAllow := BitVec.ofNat 16 (m.pwrAllow.toNat - watts) } with
      fabricOut := s.fabricOut ++ [.grant port watts] } evFabTx)
/-- POWER_GRANT_RECEIVE (R400). -/
def execPowerGrantReceive (port watts : Nat) (s : State) : Host.Outcome State Fault Refusal :=
  .next (if 16 ≤ port then s
    else countFabric (s.modMgmt fun m => { m with
      pwrAllow := BitVec.ofNat 16 (Nat.min 1600 (m.pwrAllow.toNat + watts)) }) evFabRx)

/-- The highest operating point, in tenths of a GHz, that keeps DRAW within ALLOW, else the lowest; DRAW at each point is a free value
(R401; log 11). -/
def governed (s : State) : Nat :=
  if s.mgmt.hot then 6
  else (([10, 9, 8, 7] : List Nat).find? fun p => decide ((Config.draw s.free p).toNat ≤ s.mgmt.pwrAllow.toNat)).getD 6
/-- The module takes an operating point. -/
def takePoint (s : State) (p : Nat) : State :=
  { s with free := s.free + 1, mgmt := { s.mgmt with point := p, pwrDraw := Config.draw s.free p, pointNext := none } }
/-- A work entry is running on a port of the module. -/
def workRuns (s : State) : Bool := s.mgmt.work.any fun (_, x) => bitsOf x.toNat 0 2 == 2
/-- A common point is due (R401). -/
def pointDue (s : State) : Bool := match s.mgmt.pointNext with
  | some (_, t) => decide (t ≤ s.hub.timebase.toNat)
  | none => false
/-- The common point that is due is taken. -/
def commonPoint (s : State) : State := match s.mgmt.pointNext with
  | some (p, t) => if t ≤ s.hub.timebase.toNat then takePoint s p else s
  | none => s
/-- OPERATING_POINT_CHANGE (R401): the governor acts.  While work entries run, the module steps with the peers that share their channels
to the lowest point that any of them needs, `need`, at the next multiple of 100,000 of TIMEBASE. -/
def execOperatingPointChange (need : Nat) (s : State) : Host.Outcome State Fault Refusal :=
  .next (if pointDue s then commonPoint s
    else if workRuns s then s.modMgmt fun m => { m with
      pointNext := some (Nat.min (governed s) (Nat.max 6 need), (s.hub.timebase.toNat / 100000 + 1) * 100000) }
    else takePoint s (governed s))

/-- The job whose bead record at an address is in a debug stop (R372). -/
def stoppedJob (s : State) (va : Nat) : Option Nat :=
  (s.hub.saved.find? fun (k, x) => x.addr == va && beadState s (k / 2 ^ 64) va == 3 && beadWop s (k / 2 ^ 64) va == 3).map
    fun (k, _) => k / 2 ^ 64
/-- A write of DBGRES (R372, R392). -/
def resumeStopped (s : State) (va : Nat) : State := match stoppedJob s va with
  | some j => makeReady s j va
  | none => logFault s { kind := 0x0C, first := va }
/-- DBGRES_WRITE (R372, R392). -/
def execDbgresWrite (addr : Nat) (s : State) : Host.Outcome State Fault Refusal := .next (resumeStopped s addr)

/-- FUNCTION_LEVEL_RESET (R391): every job that the virtual function owns is killed. -/
def execFunctionLevelReset (vf : Nat) (s : State) : Host.Outcome State Fault Refusal :=
  .next ((s.jobs.filter fun (_, j) => j.vf == vf).foldl (fun s (n, _) => pushCancel s (.job n true)) s)

/-! ### Reset and bring-up (R394 to R398) -/

/-- A module reset (R394): contexts, entries, transfers, caches and every register go; bytes of memory, with their errors and what they are
padding of, and line tags stay until bring-up treats them (log 42). -/
def resetModule (s : State) : State :=
  let r := State.reset
  { r with
    mem := s.mem
    homes := { r.homes with tags := s.homes.tags, tagErr := s.homes.tagErr, dataErr := s.homes.dataErr, latent := s.homes.latent }
    tiers := { r.tiers with peerWays := s.tiers.peerWays }
    pos := s.pos, fabricOut := s.fabricOut, hostOut := s.hostOut, hostIn := s.hostIn, peersIn := s.peersIn, padBits := s.padBits
    uid := s.uid, free := s.free, script := s.script, elapse := s.elapse, cur := s.cur, errorsIn := s.errorsIn }
/-- MODULE_RESET (R394). -/
def execModuleReset (s : State) : Host.Outcome State Fault Refusal := .next (resetModule s)

/-- Every byte of a range becomes zero, with a good code (R273). -/
def zeroRange (s : State) (base n : Nat) : State :=
  let out (l : Nat) : Bool := decide (l * 128 < base) || decide (base + n ≤ l * 128)
  unpad { s.modHomes fun h => { h with dataErr := h.dataErr.filter out, latent := h.latent.filter fun (l, e) => out l || !ofData e } with
    mem := Memory.clear s.mem base n } [(8 * base, 8 * n)]
/-- Zero the scratchpads of an agent's cores (R255, R395). -/
def zeroWindows (s : State) (a : Nat) : State := zeroRange s (windowBase a 0) (128 * windowBytes)
/-- Training leaves zeros in an agent's memory and near regions (R265; log 42). -/
def zeroMemory (s : State) (d : Nat) : State :=
  let s1 := zeroRange s ((4 * s.pos + d) * 2 ^ 45) (312 * gib)
  zeroRange (zeroRange s1 (nearBase s (2 * d)) (16 * 2 ^ 28)) (nearBase s (2 * d + 1)) (16 * 2 ^ 28)
/-- Zero the scratchpads of the module. -/
def zeroScratch (s : State) : State := (List.range 4).foldl (fun s d => zeroWindows s (4 * s.pos + d)) s

/-- SHA-512 of an image, as the number of its 64 bytes (R398). -/
def imageHash (i : BootImage) : BitVec 512 := BitVec.ofNat 512 (bytesToNat (Sha.digest i.bytes))
/-- The hash in an image's trailer (R398). -/
def trailerHash (i : BootImage) : BitVec 512 := i.trailer.extractLsb' 0 512
/-- The signature in an image's trailer (R398). -/
def trailerSignature (i : BootImage) : BitVec 1056 := i.trailer.extractLsb' 512 1056
/-- The version number in an image's trailer (R398). -/
def trailerVersion (i : BootImage) : Nat := (i.trailer.extractLsb' 1568 32).toNat
/-- An image is loaded only when its hash matches, its signature verifies, and its version is at least the fused rollback count (R398). -/
def verified (i : BootImage) : Bool :=
  trailerHash i == imageHash i && Config.signatureVerifies (trailerHash i) (trailerSignature i) &&
  decide (Config.rollbackCount ≤ trailerVersion i)
/-- Images of a bring-up step are verified and loaded in order; an image that fails is refused, and bring-up stops (R395, R398). -/
def loadImages (n : Nat) : List BootImage → State → State × Bool
  | [], s => (s, true)
  | i :: r, s =>
    if verified i then loadImages n r (s.modMgmt fun m => { m with images := m.images ++ [imageHash i] })
    else (logFault (s.modMgmt fun m => { m with bootStopped := true }) { kind := 0x10, detail := n }, false)

/-- The agents whose bits are set: they have answered (R395). -/
def agentsOf (answer : BitVec 128) : List Nat := (List.range 128).filter fun a => answer.getLsbD a

/-- What a bring-up step does: the state, and whether it has completed (R395).  Step 1 loads the management firmware, step 4 firmware and
microcode of the communication processors; in step 5 the module takes its position, and `answer` says which agents answer. -/
def bringUp (s : State) (f : BootImages) (pos : Nat) (answer : BitVec 128) : Nat → State × Bool
  | 1 => loadImages 1 [f.management] s
  | 2 => ((List.range Config.dies).foldl zeroMemory (s.modHomes fun h => { h with tags := [], tagErr := [], latent := h.latent.filter fun (_, e) => ofData e }), true)
  | 3 => (zeroScratch s, true)
  | 4 => loadImages 4 [f.communication, f.microcode] s
  | 5 => (zeroScratch { s.modHomes fun h => { h with present := agentsOf answer } with pos := pos % 32 }, true)
  | _ => (s.modMgmt (fun x => { x with ready := true }) |>.modHub fun h => { h with
      lockets := h.lockets.set 0xFFFF (BitVec.ofNat 256 (2 ^ 63)) }, true)

/-- BRING_UP_STEP (R395, R396, R398). -/
def execBringUpStep (f : BootImages) (m : Domain) (s : State) : Host.Outcome State Fault Refusal :=
  .next (if s.mgmt.ready || s.mgmt.bootStopped then s
    else
      let n := s.mgmt.step + 1
      match bringUp s f m.pos m.answer n with
      | (t, true) => t.modMgmt fun x => { x with step := n }
      | (t, false) => t)

/-- THERMAL_LIMIT (R401 and the table after it). -/
def execThermalLimit (degrees : Nat) (s : State) : Host.Outcome State Fault Refusal :=
  .next (if 115 ≤ degrees then resetModule s
    else if 105 ≤ degrees then s.modMgmt fun m => { m with point := 6, hot := true }
    else s.modMgmt fun m => { m with hot := false })

/-! ### Writes of the management window (R392) -/

/-- Word `w` of an entry of `n` bits takes a value. -/
def setWord {n : Nat} (x : BitVec n) (i : Nat) (v : W64) : BitVec n :=
  mergeBits x (BitVec.ofNat n (v.toNat * 2 ^ (64 * i))) (BitVec.ofNat n ((2 ^ 64 - 1) * 2 ^ (64 * i)))
/-- A write of MCTL (R392). -/
def writeMctl (s : State) (v : W64) : State :=
  if v.getLsbD 0 then resetModule s else (setMigen s (v.getLsbD 2)).modMgmt fun m => { m with halt := v.getLsbD 1 }
/-- A write of PWR (R400): `all` tells that bytes of ALLOW are written. -/
def writePwr (s : State) (v : W64) (allow : Bool) : State :=
  let s1 := s.modMgmt fun m => { m with pwrFloor := v.extractLsb' 32 16 }
  if allow then writeAllow s1 (v.extractLsb' 16 16).toNat else s1
/-- A write of DCCTL (R259): `b0` and `b3` tell that bytes 0 and 3 are written. -/
def writeDcctl (s : State) (i : Nat) (v : W64) (b0 b3 : Bool) : State :=
  let s1 := if b3 && v.getLsbD 30 then clearDcctlErr s i else s
  if b0 then writeNearWays s1 i (v.extractLsb' 0 4).toNat
  else if (dcctl s1 i).busy then setDcctl s1 i { dcctl s1 i with err := true }
  else s1
/-- A write of a job-table entry (R376, R379, R392; log 18).  A number whose job was killed names a new job from then on (log 168). -/
def writeJobTable (s : State) (j i : Nat) (v : W64) : State := s.modJob j fun x => match i with
  | 0 => { x with fab := v.getLsbD 0, capture := v.getLsbD 1, vf := (v.extractLsb' 8 6).toNat, cancelled := false }
  | _ => { x with ring := v.toNat, captured := 0 }

/-- A write of word `w` of the management window (R392): `v` holds the written bytes, `m` tells which bytes they are. -/
def mgmtWriteWord (s : State) (w : Nat) (v m : W64) : State :=
  let o := 8 * w
  let full := mergeBits (BitVec.ofNat 64 (mgmtWord s w)) v m
  if o = 0 then writeMctl s ((full &&& 6) ||| (v &&& m &&& 1))
  else if o = 8 then writePwr s full (m.extractLsb' 16 16 != 0)
  else if o = 0x10 then s.modMgmt fun x => { x with suph := full }
  else if o = 0x28 then resumeStopped s (v &&& m).toNat
  else if 0x0100000 ≤ o ∧ o < 0x0101000 then writeHeapWord s ((o - 0x0100000) / 32) (w % 4) full
  else if 0x0200000 ≤ o ∧ o < 0x0200040 then writeDcctl s (w % 8) full (m.extractLsb' 0 8 != 0) (m.extractLsb' 24 8 != 0)
  else if 0x0300000 ≤ o ∧ o < 0x0310000 then
    let i := (o - 0x0300000) / 16
    let x := if w % 2 = 0 then full else full &&& 0xFFFFFFFFFFFFFFF0
    s.modMgmt fun g => { g with comparators := g.comparators.set i (setWord (g.comparators.get i 0) (w % 2) x) }
  else if 0x0800010 ≤ o ∧ o < 0x0900000 then writeJobTable s ((o - 0x0800000) / 16) (w % 2) full
  else if 0x1000000 ≤ o ∧ o < 0x1040000 then
    let i := (o - 0x1000000) / 64
    let x := if w % 8 = 0 then full &&& 0xFFFFFFFFFFF00003 else if w % 8 = 1 then full &&& 0xFFFFFFFFFFFFFFF8 else full
    s.modMgmt fun g => { g with work := g.work.set i (setWord (g.work.get i 0) (w % 8) x) }
  else s

/-- The words of a list of window bytes. -/
def wordsOf : List (Nat × Byte) → List Nat := fun l => (l.map fun (o, _) => o / 8).eraseDups
/-- Written bytes of a word, and their mask. -/
def wordBytes (l : List (Nat × Byte)) (w : Nat) : W64 × W64 :=
  (l.filter fun (o, _) => o / 8 == w).foldl (fun (v, m) (o, b) =>
    let k : W64 := (0xFF : W64) <<< (8 * (o % 8))
    (mergeBits v (b.zeroExtend 64 <<< (8 * (o % 8))) k, m ||| k)) (0, 0)
/-- Bytes of a store to the management window act, word by word (R254, R392). -/
def mgmtWrite (s : State) (l : List (Nat × Byte)) : State :=
  (wordsOf l).foldl (fun s w => mgmtWriteWord s w (wordBytes l w).1 (wordBytes l w).2) s

/-! ### Resynchronisation and attestation (R397, R399) -/

/-- The physical address of a host address through this module's link (R254). -/
def hostPa (s : State) (a : Nat) : Nat := 4 * s.pos * 2 ^ 45 + 0x1C0000000000 + a % 2 ^ 42
/-- Write bytes to host memory; its addresses are as many as its window's (R254). -/
def hostWrite (s : State) (a : Nat) (l : List Byte) : State := { s with mem := Memory.write s.mem (hostPa s a) l }
/-- The 32 bytes of a queue descriptor (R327). -/
def Queue.image (q : Queue) : Nat :=
  q.head.toNat + q.tail.toNat * 2 ^ 64 + q.left.toNat * 2 ^ 128 + q.allot.toNat * 2 ^ 160 + q.word24.toNat * 2 ^ 192
/-- V of a locket (R325). -/
def locketV (x : BitVec 256) : Bool := x.getLsbD 63
/-- STATE of a work entry (R386). -/
def workState (x : BitVec 512) : Nat := (x.extractLsb' 0 2).toNat

/-- The summary record (R397): the queue descriptors, running beads, lockets, work entries and fault log of this moment. -/
def summary (s : State) : List Byte × List Byte :=
  let run := s.ctxs.filter fun (_, x) => x.run.isSome
  let lock := s.hub.lockets.filter fun (_, x) => locketV x
  let work := s.mgmt.work.filter fun (_, x) => workState x != 0
  let n := Nat.min s.mgmt.flogN 4096
  let total := 32 + 262144 + 16 * run.length + 32 * lock.length + 72 * work.length + 64 * n
  let head := natToBytes 8 total ++ natToBytes 8 s.hub.timebase.toNat ++ natToBytes 4 run.length ++
    natToBytes 4 lock.length ++ natToBytes 4 work.length ++ natToBytes 4 n
  (head,
    ((List.range 8192).flatMap fun q => natToBytes 32 (queue s q).image) ++
    (run.flatMap fun (c, x) => natToBytes 8 (match x.run with
        | some b => b.addr
        | none => 0) ++ natToBytes 4 x.arch.cc ++ natToBytes 4 (agentOf s c * 256 + slotNo c * 128 + coreNo (coreOf c))) ++
    (lock.flatMap fun (_, x) => natToBytes 32 x.toNat) ++
    (work.flatMap fun (i, x) => natToBytes 8 (i / 256) ++ natToBytes 64 x.toNat) ++
    ((List.range n).flatMap fun i => natToBytes 64 (s.mgmt.flog.get ((s.mgmt.flogN - n + i) % 4096) 0).toNat))

/-- The first management-locket request of a kind, and the others (R397, R399). -/
def takeRequest (kind : Nat) : List (BitVec 256) → Option (BitVec 256 × List (BitVec 256))
  | [] => none
  | x :: r =>
    if byteOf x.toNat 0 = kind then some (x, r)
    else match takeRequest kind r with
      | none => none
      | some (y, rest) => some (y, x :: rest)

/-- RESYNC (R397): the record of one moment goes to the host's buffer, and MSI-X vector 0 of the physical function is signalled.
HALT is restored within the step, and no locket message falls inside it. -/
def execResync (s : State) : Host.Outcome State Fault Refusal :=
  .next (match takeRequest 0x52 s.hub.resync with
    | none => s
    | some (x, rest) =>
      let (head, body) := summary (startRound s)
      let s1 := s.modHub fun h => { h with resync := rest }
      let out := if bitsOf x.toNat 128 32 < head.length + body.length then head else head ++ body
      { hostWrite s1 (bitsOf x.toNat 64 64) out with hostOut := s.hostOut ++ [0] })

/-- The FAB bits of the jobs that the driver has described, in rising job number, eight to a byte (log 43). -/
def fabBytes (s : State) : List Byte :=
  let x := (s.jobs.zipIdx.map fun ((_, j), i) => if j.fab then 2 ^ i else 0).sum
  natToBytes ((s.jobs.length + 7) / 8) x
/-- ATTESTATION (R399): a report goes to the host's 512-byte buffer; signature bytes are free values (log 10), and what the
buffer cannot hold is not written (log 43). -/
def execAttestation (s : State) : Host.Outcome State Fault Refusal :=
  .next (match takeRequest 0x41 s.hub.resync with
    | none => s
    | some (x, rest) =>
      let report := natToBytes 8 Config.fuseId.toNat ++ natToBytes 16 (bitsOf x.toNat 128 128) ++
        (s.mgmt.images.flatMap fun d => natToBytes 64 d.toNat) ++ natToBytes 2 Config.enabledVfs ++
        fabBytes s ++
        ((List.range 132).map fun i => Config.signatureByte (s.free + i))
      { hostWrite (s.modHub fun h => { h with resync := rest }) (bitsOf x.toNat 64 64) (report.take 512) with
        free := s.free + 132 })

end Sys2Proof.Machine
end

