-- ==== Sys2Proof/Machine/Matrix.lean ====
section
/-! DEFINITION. The matrix array: ownership, and the MX operations but those of pendant rows (spec 08, R152 to R155; 09, R157 to R175;
07, R135, R139). -/
namespace Sys2Proof.Machine

/-! ### Accumulator rows (R159) -/

/-- An accumulator row; a row that is not held is clear. -/
def accRow (a : MxArray) (r : Nat) : AccRow := a.acc.get r AccRow.clear
/-- Set an accumulator row. -/
def setAcc (a : MxArray) (r : Nat) (x : AccRow) : MxArray :=
  { a with acc := if x = AccRow.clear then a.acc.erase r else a.acc.set r x }
/-- STATE of a row: 0 clear, 1 working, 2 tentative, 3 abandoned. -/
def AccRow.state (x : AccRow) : Nat := (x.tag.extractLsb' 28 2).toNat
/-- A row with its STATE replaced. -/
def AccRow.withState (x : AccRow) (st : Nat) : AccRow := { x with tag := BitVec.ofNat 2 st ++ x.tag.extractLsb' 0 28 }
/-- The 512 elements of a row. -/
def AccRow.list (x : AccRow) : List Nat := fields 32 512 x.elems.toNat
/-- A row with new elements. -/
def AccRow.withList (x : AccRow) (l : List Nat) : AccRow := { x with elems := BitVec.ofNat 16384 (unfields 32 l) }
/-- Clear rows `r` to `r + n - 1`. -/
def clearRows (a : MxArray) (r : Nat) : Nat → MxArray
  | 0 => a
  | n + 1 => clearRows (setAcc a r AccRow.clear) (r + 1) n

/-- A bank of the array. -/
def bankAt (a : MxArray) (b : Nat) : Bank := if h : b < 8 then a.banks[b] else Bank.reset
/-- Set a bank. -/
def setBank (a : MxArray) (b : Nat) (x : Bank) : MxArray := if h : b < 8 then { a with banks := a.banks.set b x } else a

/-- The open digit sequences of a context, by row-lane (R160). -/
def openSeqs (a : MxArray) (n : Nat) : List (Option DigitSeq) := (pairGet a.digits n).toList
/-- A row is in an open digit sequence. -/
def rowOpen (a : MxArray) (n r : Nat) : Bool := (openSeqs a n).any fun q => match q with
  | some d => d.row == r
  | none => false

/-- The array of a context's core. -/
def arrayOf (s : State) (c : Nat) : MxArray := (s.core (coreOf c)).arr

/-! ### What MX operations share (R139, R162, R166) -/

/-- Traps of every MX operation but `mmode`: ILLSCHED without a half, ILLENC for banks or rows outside the owned halves
(R162). -/
def ownTraps (s : State) (c : Nat) (banks rows : List Nat) : List Cause :=
  let a := arrayOf s c
  let n := slotNo c
  trapIf (banks.any (fun b => !ownsBank a n b) || rows.any fun r => !ownsRow a n r) s c .mx .illenc ++
  trapIf (!ownsArray s c) s c .mx .illsched
/-- Rows `r` to `r + n - 1`. -/
def rowSpan (r n : Nat) : List Nat := (List.range n).map (r + ·)

/-- The code of element (r, j) with its scale, read from the scratchpad, where entries still withheld or queued are not seen (R139,
R166); past the tile's rows and columns it is zero (R169, R170).  The scale is the byte that R238 names, and 2^0 for an element whose first bit
the layout unit has supplied as padding and nothing has written since (R149; log 130). -/
def tileElement (s : State) (t : TileRef) (r j : Nat) : Nat × Nat :=
  if r < t.reg.rows ∧ j < t.reg.cols then
    (t.elem s r j, if t.reg.sg = 7 || isPad s (t.bitPa (t.elemAt r j)) then 0 else (t.scaleOf s r j).toNat)
  else (0, 0)

/-- A format that `mpush` and `mrow` accept (R167). -/
def operandFormat : ETy → Bool
  | .ta8 | .ta6 | .bf16 | .f16 | .i8 => true
  | _ => false
/-- ILLENC of an operand tile (R169, R170, R175). -/
def badOperand (t : TileReg) : Bool :=
  t.defined && (!operandFormat t.fmt || decide (512 < t.cols) || (t.fmt == .i8 && t.sg != 7))

/-- The bytes that rows of elements write into a tile: row number and codes, the last byte of a row filled up from what the
scratchpad holds (R166, R172; log 31). -/
def tileBytes (s : State) (t : TileRef) (rows : List (Nat × List Nat)) : List (Nat × Byte) :=
  rows.flatMap fun (r, l) =>
    let bits := l.length * t.reg.bits
    let n := (bits + 7) / 8
    let old := bytesToNat (t.rowBytes s r 0 n)
    let v := unfields t.reg.bits l + old / 2 ^ bits * 2 ^ bits
    (natToBytes n v).zipIdx.map fun (b, i) => (t.pa (r * t.reg.pitch + i), b)

/-! ### `mmode` (R161, R168) -/

/-- The half of a context number in SPLIT mode is empty: its rows clear, its banks invalid. -/
def halfEmpty (a : MxArray) (lower : Bool) : Bool :=
  (rowSpan (if lower then 0 else 128) 128).all (fun r => accRow a r == AccRow.clear) &&
  (rowSpan (if lower then 0 else 4) 4).all fun b => (bankAt a b).desc.fill == 0
/-- A half becomes unowned; the snapshot of its owner's last checkpoint stays until another context takes the half (R163; log 46). -/
def dropHalf (a : MxArray) (lower : Bool) : MxArray := if lower then { a with lo := none } else { a with hi := none }
/-- Context number `n` takes a half; a snapshot that another context holds of it goes (R163; log 46). -/
def takeHalf (a : MxArray) (n : Nat) (lower : Bool) : MxArray :=
  let me := some (n == 1)
  let a1 := if (if lower then a.snapLo else a.snapHi) == me then a else dropSnap a lower
  if lower then { a1 with lo := me } else { a1 with hi := me }
/-- The owner of a half is the other context. -/
def otherOwns (h : Option Bool) (n : Nat) : Bool := h == some (n != 1)

/-- The array after `mmode #m` of context number `n`, or none for ILLSCHED (R168). -/
def changeMode (a : MxArray) (n m : Nat) : Option MxArray :=
  let me := some (n == 1)
  let lower := n == 0
  let mine := if lower then a.lo else a.hi
  let others := if lower then a.hi else a.lo
  if otherOwns a.lo n && otherOwns a.hi n then none
  else match m with
    | 0 => if otherOwns a.lo n || otherOwns a.hi n then none else some (takeHalf (takeHalf a n true) n false)
    | 1 =>
      if mine == me && others == me then (if halfEmpty a !lower then some (dropHalf a !lower) else none)
      else some (takeHalf a n lower)
    | _ =>
      if mine == me && others == me then
        (if halfEmpty a true && halfEmpty a false then some (dropHalf (dropHalf a true) false) else none)
      else if mine == me then (if halfEmpty a lower then some (dropHalf a lower) else none)
      else some a

/-- `mmode` (R168). -/
def opMmode (a : MArgs) : OpFn := fun c s =>
  let next := changeMode (arrayOf s c) (slotNo c) a.mode.toNat
  { slot := .mx, traps := trapIf next.isNone s c .mx .illsched
    act := fun s => match changeMode (arrayOf s c) (slotNo c) a.mode.toNat with
      | some x => modArray s c fun _ => x
      | none => s }
/-- `mmode` (R168). -/
def execMmode (a : MArgs) (s : State) : Host.Outcome State Fault Refusal := issueAlone (.mmode a) .mx (opMmode a) s

/-! ### `mpush` (R169) -/

/-- An MX operation that reads a tile in the scratchpad at issue waits for the other context's `phase` as well (R166, R250). -/
def mxWaits (s : State) (c : Nat) (nm : Named) : Option FreezeCause :=
  orWait nm.waits (if phaseHolds s c then some .otherPhase else none)

/-- The banks that an `mpush` writes. -/
def pushBanks (a : MArgs) : List Nat := (List.range 8).filter fun b => b == a.mode.toNat || a.map.getLsbD b
/-- One push into a bank (R169). -/
def pushBank (b : Bank) (isInt : Bool) (row : BankRow) (load : Option AbandonRec) : Bank :=
  let d := b.desc
  let f := d.fill + 1
  let st := if load.isSome || d.st == .abandoned then .abandoned else if f = 64 then .valid else .filling
  { desc := { fill := f, isInt := some isInt, st := st, load := match load with
      | some r => some r
      | none => d.load }
    rows := b.rows ++ [row] }
/-- A push into each bank of a list. -/
def pushAllBanks (isInt : Bool) (row : BankRow) (load : Option AbandonRec) : List Nat → MxArray → MxArray
  | [], a => a
  | b :: r, a => pushAllBanks isInt row load r (setBank a b (pushBank (bankAt a b) isInt row load))

/-- `mpush` (R135, R136, R169). -/
def opMpush (a : MArgs) : OpFn := fun c s =>
  let x := arrayOf s c
  let nm := nameTile s c .mx true a.tile .push
  let t := nm.ref
  let bs := pushBanks a
  let f := (bankAt x a.mode.toNat).desc.fill
  let isInt := t.reg.fmt == .i8
  let full := bs.any fun b => decide (64 ≤ (bankAt x b).desc.fill)
  let uneven := bs.any fun b => (bankAt x b).desc.fill != f
  let mixed := t.reg.defined && bs.any fun b =>
    (bankAt x b).desc.fill != 0 && (bankAt x b).desc.isInt != some isInt
  let r := 64 * a.imm.toNat + f
  let lines := if t.reg.abandoned.isSome then [] else t.elemLines r 0 512
  { slot := .mx
    traps := trapIf (badOperand t.reg) s c .mx .illenc ++ ownTraps s c bs [] ++ nm.traps ++
      trapIf (full || uneven || mixed) s c .mx .illsched ++ tileFaults s c .mx t lines
    waits := mxWaits s c nm
    act := fun s =>
      let row := match t.reg.abandoned with
        | some _ => bankRow t.reg.fmt (List.replicate 512 (0, 0))
        | none => bankRow t.reg.fmt ((List.range 512).map (tileElement s t r))
      modArray (seeLines s lines) c (pushAllBanks isInt row t.reg.abandoned bs) }
/-- `mpush` (R135, R136, R169). -/
def execMpush (a : MArgs) (s : State) : Host.Outcome State Fault Refusal := issueAlone (.mpush a) .mx (opMpush a) s

/-! ### `mrow` (R170) -/

/-- `mrow` (R135, R170). -/
def opMrow (a : MArgs) : OpFn := fun c s =>
  let x := arrayOf s c
  let n := slotNo c
  let nm := nameTile s c .mx true a.tile .use
  let t := nm.ref
  let g := a.mode.toNat
  let lines := (List.range 4).flatMap fun j => t.elemLines (4 * a.imm.toNat + j) (64 * g) 64
  { slot := .mx
    traps := trapIf (badOperand t.reg || (t.reg.defined && decide (t.reg.cols ≤ 64 * g))) s c .mx .illenc ++
      ownTraps s c [] [] ++ nm.traps ++ trapIf ((openSeqs x n).any (·.isSome)) s c .mx .illsched ++ tileFaults s c .mx t lines
    waits := mxWaits s c nm
    act := fun s =>
      let lane (j : Nat) : RowLane :=
        rowLane t.reg.fmt ((List.range 64).map fun k => tileElement s t (4 * a.imm.toNat + j) (64 * g + k))
      let buf : RowBuf := { fmt := t.reg.fmt, lanes := Vector.ofFn fun j => lane j.val }
      modArray (seeLines s lines) c fun x => { x with rowBuf := pairSet x.rowBuf n buf } }
/-- `mrow` (R135, R170). -/
def execMrow (a : MArgs) (s : State) : Host.Outcome State Fault Refusal := issueAlone (.mrow a) .mx (opMrow a) s

/-! ### `mbeat` (R152, R153, R155, R160, R171) -/

/-- The sums of one digit: digit times integer over the 64 K rows, for each column (R152). -/
def beatSums (n d : Nat) : List Int → List (List Int) → List Int → List Int
  | q :: qs, r :: rs, acc =>
    let k := 8 ^ d * digitOf n d q
    beatSums n d qs rs (if k = 0 then acc else List.zipWith (fun x y => x + k * y) acc r)
  | _, _, acc => acc

/-- A float accumulator element after its K group (R153, R154). -/
def groupFloat (nav : Bool) (acc : Nat) (sum x : Int) : Nat :=
  if nav then FFmt.f32.nan
  else (addF .f32 .rne (decodeF .f32 acc) (.fin (decide (sum < 0)) sum.natAbs x)).1
/-- An i32 accumulator element after its K group (R155). -/
def groupInt (sat : Bool) (acc : Nat) (sum : Int) : Nat :=
  let v := sextNat 32 acc + sum
  encodeInt 32 (if sat then clampInt true 32 v else v)

/-- An accumulator row after the final digit (R153, R155, R171). -/
def finishRow (x : AccRow) (fmt : ETy) (lane : RowLane) (b : Formed) (sums : List Int) (sat : Bool) : AccRow :=
  let y :=
    if fmt == .i8 then x.withList (List.zipWith (groupInt sat) x.list sums)
    else
      let ks := List.zipWith (fun (e : Int) (v : Bool) => (lane.nav || v, lane.exp - (rowBits fmt : Int) + e - 8)) b.exps b.navs
      x.withList (List.zipWith (fun (p : Nat × Int) (k : Bool × Int) => groupFloat k.1 p.1 p.2 k.2) (x.list.zip sums) ks)
  if y.state = 0 then y.withState 1 else y

/-- Row-lane `j` of a beat acts (R171). -/
def beatLane (n row bank d j : Nat) (sat : Bool) (a : MxArray) : MxArray :=
  let buf := pairGet a.rowBuf n
  let lane := if h : j < 4 then buf.lanes[j] else RowLane.reset
  let count := digitCount buf.fmt
  let old := match (openSeqs a n).getD j none with
    | some q => if d = 0 then List.replicate 512 0 else q.sums
    | none => List.replicate 512 0
  let b := bankAt a bank
  let x := accRow a row
  let close := d + 1 = count
  let setSeq (a : MxArray) (q : Option DigitSeq) : MxArray :=
    if h : j < 4 then { a with digits := pairSet a.digits n ((pairGet a.digits n).set j q) } else a
  let (a1, sums) :=
    if b.desc.st == .abandoned then
      (if x.state = 2 then setAcc a row { x.withState 3 with load := b.desc.load } else a, old)
    else if x.state = 3 then (a, old)
    else
      let f := formBank b
      let sums := beatSums count d lane.ints f.ints old
      (if close then setAcc a row (finishRow x buf.fmt lane f sums sat) else a, sums)
  setSeq a1 (if close then none else some { next := d + 1, row := row, bank := bank, sums := sums })
/-- The enabled row-lanes of a beat act. -/
def beatLanes (n a0 map d : Nat) (sat : Bool) : List Nat → MxArray → MxArray
  | [], a => a
  | j :: r, a => beatLanes n a0 map d sat r (beatLane n (a0 + j) (bitsOf map (3 * j) 3) d j sat a)

/-- Traps of one row-lane of a beat (R171). -/
def beatTraps (s : State) (c : Nat) (a : MArgs) (lanes : List Nat) (j : Nat) : List Cause :=
  let x := arrayOf s c
  let n := slotNo c
  let buf := pairGet x.rowBuf n
  let row := a.row.toNat + j
  let bank := bitsOf a.map.toNat (3 * j) 3
  let b := bankAt x bank
  let isInt := buf.fmt == .i8
  let d := a.mode.toNat
  let seqs := openSeqs x n
  let next := match seqs.getD j none with
    | some q => q.next
    | none => 0
  let moved := match seqs.getD j none with
    | some q => q.row != row || q.bank != bank
    | none => false
  let st := (accRow x row).state
  trapIf (decide (255 < row) || (a.imm.getLsbD 0 && !isInt) ||
    (b.desc.isInt.isSome && b.desc.isInt != some isInt)) s c .mx .illenc ++
  ownTraps s c [bank] [row] ++
  trapIf (d != next || (d != 0 && moved) || lanes.any (fun i => i != j && bitsOf a.map.toNat (3 * i) 3 == bank) ||
    b.desc.st == .invalid || b.desc.st == .filling ||
    (seqs.zipIdx.any fun (q, i) => i != j && match q with
      | some y => y.row == row
      | none => false)) s c .mx .illsched ++
  (match b.desc.st, b.desc.load with
   | .abandoned, some r => if st ≤ 1 then [abandonTrap s c .mx r] else []
   | _, _ => [])

/-- `mbeat` (R135, R136, R171). -/
def opMbeat (a : MArgs) : OpFn := fun c s =>
  let p := pReg (s.ctx c).arch a.pred
  let lanes := (List.range 4).filter fun j => p.getLsbD j
  { slot := .mx, reads := readCodes (.p a.pred)
    traps := ownTraps s c [] [] ++ lanes.flatMap (beatTraps s c a lanes)
    act := fun s => modArray s c
      (beatLanes (slotNo c) a.row.toNat a.map.toNat a.mode.toNat (a.imm.getLsbD 0) lanes) }
/-- `mbeat` (R135, R136, R171). -/
def execMbeat (a : MArgs) (s : State) : Host.Outcome State Fault Refusal := issueAlone (.mbeat a) .mx (opMbeat a) s

/-! ### `mdrain`, `mclear`, `mbinv` (R172 to R174) -/

/-- A format that `mdrain` accepts (R167). -/
def drainFormat : ETy → Bool
  | .f32 | .bf16 | .f16 | .ta8 | .ta6 | .i32 | .i16 | .i8 => true
  | _ => false
/-- A drained element (R172).  A drain to f32 moves the bits of the element as R172 says, a NaN's too, though R118 names `mdrain` among the
operations that deliver the default NaN (log 177, DEDUCED). -/
def drainElement (t : ETy) (x : Nat) : Nat := match t with
  | .f32 | .i32 => x
  | .i16 => encodeInt 16 (clampInt true 16 (sextNat 32 x))
  | .i8 => encodeInt 8 (clampInt true 8 (sextNat 32 x))
  | .ta8 | .ta6 => (encodeTap t (decodeF .f32 x)).1
  | t => (convert t .f32 .rne x).1

/-- The traps of abandoned rows (R172). -/
def abandonedRows (s : State) (c : Nat) (rows : List Nat) : List Cause :=
  rows.flatMap fun r => match (accRow (arrayOf s c) r).state, (accRow (arrayOf s c) r).load with
    | 3, some l => [abandonTrap s c .mx l]
    | _, _ => []

/-- `mdrain` (R172). -/
def opMdrain (a : MArgs) : OpFn := fun c s =>
  let x := arrayOf s c
  let nm := nameTile s c .mx true a.tile .use
  let t := nm.ref
  let n := a.imm.toNat + 1
  let rows := rowSpan a.row.toNat n
  let bad := t.reg.defined && (!drainFormat t.reg.fmt || decide (512 < t.reg.cols))
  { slot := .mx, entries := 1, waits := nm.waits
    traps := trapIf bad s c .mx .illenc ++ ownTraps s c [] rows ++ nm.traps ++
      trapIf (rows.any fun r => (accRow x r).state == 2 || rowOpen x (slotNo c) r) s c .mx .illsched ++
      abandonedRows s c rows
    act := fun s =>
      let x := arrayOf s c
      let out := (List.range n).filterMap fun i =>
        let r := 32 * a.mode.toNat + i
        if r < t.reg.rows then
          some (r, ((accRow x (a.row.toNat + i)).list.take t.reg.cols).map (drainElement t.reg.fmt))
        else none
      let s1 := withhold s c .mx (.mxWrite t.tl false (tileBytes s t out))
      if a.map.getLsbD 0 then modArray s1 c fun x => clearRows x a.row.toNat n else s1 }
/-- `mdrain` (R172). -/
def execMdrain (a : MArgs) (s : State) : Host.Outcome State Fault Refusal := issueAlone (.mdrain a) .mx (opMdrain a) s

/-- `mclear` (R173). -/
def opMclear (a : MArgs) : OpFn := fun c s =>
  let rows := rowSpan a.row.toNat (a.imm.toNat + 1)
  { slot := .mx
    traps := ownTraps s c [] rows ++ trapIf (rows.any (rowOpen (arrayOf s c) (slotNo c))) s c .mx .illsched
    act := fun s => modArray s c fun x => clearRows x a.row.toNat (a.imm.toNat + 1) }
/-- `mclear` (R173). -/
def execMclear (a : MArgs) (s : State) : Host.Outcome State Fault Refusal := issueAlone (.mclear a) .mx (opMclear a) s

/-- `mbinv` (R135, R174). -/
def opMbinv (a : MArgs) : OpFn := fun c s =>
  { slot := .mx, traps := ownTraps s c [a.mode.toNat] [], entries := 1
    act := fun s => withhold s c .mx (.mbinv a.mode.toNat) }
/-- `mbinv` (R135, R174). -/
def execMbinv (a : MArgs) (s : State) : Host.Outcome State Fault Refusal := issueAlone (.mbinv a) .mx (opMbinv a) s

end Sys2Proof.Machine
end

