-- ==== Sys2Proof/Machine/LoadStore.lean ====
section
/-! DEFINITION. Scalar and vector loads, gather and scatter, stores, prefetch and atomics (spec 14, R229 to R236; 12, R208,
R209). -/
namespace Sys2Proof.Machine

/-! ### Operands -/

/-- Bits of an L64 access size (R25). -/
def sizeL (a : LArgs) : Nat := 8 * 2 ^ a.size.toNat
/-- The enable of a scalar L64 operation (R229). -/
def onL (r : Arch) (a : LArgs) : Bool := enabledS r a.pred a.neg
/-- The effective address of an L64 operation with its unit (R226). -/
def eaL (r : Arch) (a : LArgs) (u : Nat) : Nat :=
  (readScalar r 0 a.base + (readScalar r 0 a.index <<< a.shift.toNat) + BitVec.ofInt 64 (a.imm.toInt * u)).toNat
/-- The effective address of an ST48 operation with its unit (R226, R29). -/
def eaST (r : Arch) (a : STArgs) (u : Nat) : Nat :=
  (readScalar r 0 a.base + readScalar r 0 a.index * BitVec.ofNat 64 u + BitVec.ofInt 64 (a.imm.toInt * u)).toNat
/-- The lanes of `s` bits that a predicate enables (R95). -/
def lanesOn (r : Arch) (p : BitVec 4) (neg : Bool) (s n : Nat) : List Bool :=
  (List.range n).map fun i => (pReg r p).getLsbD (s / 8 * i) != neg
/-- The bits of enabled lanes. -/
def lanesMask (s : Nat) : List Bool → Nat
  | [] => 0
  | b :: r => (if b then 2 ^ s - 1 else 0) + 2 ^ s * lanesMask s r
/-- The signed index of lane `i` of a gather or scatter (R230). -/
def indexLane (v : VReg) (s i : Nat) : Int :=
  if s = 64 then (v.extractLsb' (64 * i) 64).toInt else (v.extractLsb' (32 * i) 32).toInt
/-- Lanes of a gather or scatter (R230). -/
def gatherLanes (s : Nat) : Nat := if s = 64 then 16 else 32

/-! ### Loads (R229, R230) -/

/-- A load of ranges `l` into a destination: what all loads share (R44 to R48, R227, R228, R277).  The distance is judged whatever the
enable (R15), and a load into `_` never freezes (R47; log 126). -/
def loadOp (a : LArgs) (reads : List Nat) (on : Bool) (align : Nat) (l : List (Nat × Nat)) (bits : List Nat)
    (mask : BitVec 1024) : OpFn := fun c s =>
  let d := arrivalD a.dist
  if !on then { slot := .ld, reads := reads, traps := trapIf (tooNear s c d l) s c .ld .illsched }
  else
    let checks := l.map fun (va, n) => checkUse s c .load align va n
    let segs := ((framesOf checks).zip (l.zip bits)).flatMap fun (f, (va, n), b) => segsOf f va n b
    let dests := match destOf a.dst with
      | some x => [(x, mask)]
      | none => []
    { slot := .ld, reads := reads
      traps := trapIf (tooNear s c d l || bytesAwaited s c (segRanges segs)) s c .ld .illsched ++
        accessTraps s c .ld .load l checks
      waits := if a.dst == .none then none else bytesWait s c (segRanges segs)
      loads := dests.map fun (x, _) => (x, d)
      act := startRead c .ld d dests (.bytes segs a.hint) }

/-- `ld` (R229). -/
def opLd (a : LArgs) : OpFn := fun c s =>
  let r := (s.ctx c).arch
  let n := sizeL a / 8
  loadOp a (reading a.pred [a.base, a.index]) (onL r a) n [(eaL r a n, n)] [0] (BitVec.allOnes 1024) c s
/-- `ld` (R229). -/
def execLd (a : LArgs) (s : State) : Host.Outcome State Fault Refusal := issueAlone (.ld a) .ld (opLd a) s

/-- `vld` (R229). -/
def opVld (a : LArgs) : OpFn := fun c s =>
  let r := (s.ctx c).arch
  let reads := reading a.pred [a.base, a.index]
  let ea := eaL r a 128
  if a.dst.isP then loadOp a reads (onL r a) 16 [(ea, 16)] [0] (BitVec.allOnes 1024) c s
  else
    let en := lanesOn r a.pred a.neg (sizeL a) (1024 / sizeL a)
    loadOp a reads (en.any id) 128 [(ea, 128)] [0] (BitVec.ofNat 1024 (lanesMask (sizeL a) en)) c s
/-- `vld` (R229). -/
def execVld (a : LArgs) (s : State) : Host.Outcome State Fault Refusal := issueAlone (.vld a) .ld (opVld a) s

/-- `vgath` (R230). -/
def opVgath (a : LArgs) : OpFn := fun c s =>
  let r := (s.ctx c).arch
  let z := sizeL a
  let n := gatherLanes z
  let en := lanesOn r a.pred a.neg z n
  let lanes := (List.range n).filter fun i => en.getD i false
  let addr (i : Nat) : Nat :=
    (readScalar r 0 a.base + (BitVec.ofInt 64 (indexLane (readVector r a.index) z i) <<< a.shift.toNat) +
      BitVec.ofInt 64 (a.imm.toInt * 128)).toNat
  loadOp a (reading a.pred [a.base, a.index]) (en.any id) (z / 8) (lanes.map fun i => (addr i, z / 8))
    (lanes.map (z * ·)) (BitVec.ofNat 1024 (lanesMask z en)) c s
/-- `vgath` (R230). -/
def execVgath (a : LArgs) (s : State) : Host.Outcome State Fault Refusal := issueAlone (.vgath a) .ld (opVgath a) s

/-! ### Prefetch (R234) -/

/-- Translate a virtual address and bring its line into the L2, and into the L1 unless the hint is 01 (R234, R266).  A line that its home does not serve,
or whose data is bad, stays where it is: a prefetch changes no outcome (R223, R273). -/
def prefetch (s0 : State) (c va : Nat) (hint : BitVec 2) : State :=
  match checkUse s0 c .load 1 (va / 128 * 128) 128 with
  | .inl _ => s0
  | .inr f =>
    let s := pageWalk s0 c (va / 128 * 128)
    let pa := framePa f (va / 128 * 128)
    let e := frameLeaf f (va / 128 * 128)
    if !cacheable s pa e || refused s (agentOf s c) pa e false || s.homes.dataErr.contains (pa / 128) then s
    else if hint = 1 then readThrough s (coreOf c) (pa / 128) e
    else fillLine s (coreOf c) (pa / 128) e hint

/-- `pref` (R234); it waits for a `phase` of the other context (R250). -/
def opPref (a : LArgs) : OpFn := fun c s =>
  let r := (s.ctx c).arch
  { slot := .ld, reads := reading a.pred [a.base, a.index]
    waits := if onL r a && phaseHolds s c then some .otherPhase else none
    act := if onL r a then fun s => prefetch s c (eaL r a 128) a.hint else id }
/-- `pref` (R234). -/
def execPref (a : LArgs) (s : State) : Host.Outcome State Fault Refusal := issueAlone (.pref a) .ld (opPref a) s

/-! ### Stores (R231 to R233) -/

/-- The addressed bytes of a range under its frames. -/
def storeBytes (f : Frames) (va : Nat) (l : List Byte) : List (Nat × Byte) :=
  l.zipIdx.map fun (b, i) => (framePa f (va + i), b)

/-- A store of checked ranges: one withheld entry (R232).  `l` gives the ranges that are checked, `w` the bytes written. -/
def storeOp (reads : List Nat) (on : Bool) (align : Nat) (l : List (Nat × Nat)) (w : List (Nat × List Byte)) : OpFn :=
  fun c s =>
    if !on then { slot := .st, reads := reads }
    else
      let checks := l.map fun (va, n) => checkUse s c .store align va n
      let frames := framesOf checks
      let all : Frames := frames.flatten
      { slot := .st, reads := reads, traps := accessTraps s c .st .store l checks
        entries := 1
        act := fun s => withhold s c .st
          (.store (w.flatMap fun (va, b) => storeBytes all va b) all.leaves) (l.map fun (va, n) => (jobOf s c, va, n)) }

/-- `st.N` (R233). -/
def stOp (n : Nat) (a : STArgs) : OpFn := fun c s =>
  let r := (s.ctx c).arch
  let ea := eaST r a n
  storeOp (reading a.pred [a.base, a.index, a.data]) (enabledS r a.pred false) n [(ea, n)]
    [(ea, natToBytes n (readVector r a.data).toNat)] c s

/-- Bytes of enabled lanes as separate runs. -/
def laneRuns (ea z : Nat) (en : List Bool) (v : Nat) : List (Nat × List Byte) :=
  (List.range en.length).filterMap fun i =>
    if en.getD i false then some (ea + i * (z / 8), natToBytes (z / 8) (v / 2 ^ (z * i))) else none

/-- `vst` with lanes of `z` bits (R233). -/
def vstOp (z : Nat) (a : STArgs) : OpFn := fun c s =>
  let r := (s.ctx c).arch
  let ea := eaST r a 128
  let n := if a.data.isP then 16 else 128
  let en := lanesOn r a.pred false z (8 * n / z)
  storeOp (reading a.pred [a.base, a.index, a.data]) (en.any id) n [(ea, n)]
    (laneRuns ea z en (readVector r a.data).toNat) c s

/-- `vscat` with lanes of `z` bits (R231). -/
def vscatOp (z : Nat) (a : STArgs) : OpFn := fun c s =>
  let r := (s.ctx c).arch
  let n := gatherLanes z
  let en := lanesOn r a.pred false z n
  let lanes := (List.range n).filter fun i => en.getD i false
  let addr (i : Nat) : Nat :=
    (readScalar r 0 a.base + BitVec.ofInt 64 (indexLane (readVector r a.index) z i * (z / 8 : Nat)) +
      BitVec.ofInt 64 (a.imm.toInt * 128)).toNat
  let v := (readVector r a.data).toNat
  storeOp (reading a.pred [a.base, a.index, a.data]) (en.any id) (z / 8) (lanes.map fun i => (addr i, z / 8))
    (lanes.map fun i => (addr i, natToBytes (z / 8) (v / 2 ^ (z * i)))) c s

/-- `st.8` (R233). -/
def opSt8 (a : STArgs) : OpFn := stOp 1 a
/-- `st.8` (R233). -/
def execSt8 (a : STArgs) (s : State) : Host.Outcome State Fault Refusal := issueAlone (.st8 a) .st (opSt8 a) s
/-- `st.16` (R233). -/
def opSt16 (a : STArgs) : OpFn := stOp 2 a
/-- `st.16` (R233). -/
def execSt16 (a : STArgs) (s : State) : Host.Outcome State Fault Refusal := issueAlone (.st16 a) .st (opSt16 a) s
/-- `st.32` (R233). -/
def opSt32 (a : STArgs) : OpFn := stOp 4 a
/-- `st.32` (R233). -/
def execSt32 (a : STArgs) (s : State) : Host.Outcome State Fault Refusal := issueAlone (.st32 a) .st (opSt32 a) s
/-- `st.64` (R233). -/
def opSt64 (a : STArgs) : OpFn := stOp 8 a
/-- `st.64` (R233). -/
def execSt64 (a : STArgs) (s : State) : Host.Outcome State Fault Refusal := issueAlone (.st64 a) .st (opSt64 a) s
/-- `vst` with 8-bit lanes, or of a predicate (R233). -/
def opVst8 (a : STArgs) : OpFn := vstOp 8 a
/-- `vst` with 8-bit lanes, or of a predicate (R233). -/
def execVst8 (a : STArgs) (s : State) : Host.Outcome State Fault Refusal := issueAlone (.vst8 a) .st (opVst8 a) s
/-- `vst` with 16-bit lanes (R233). -/
def opVst16 (a : STArgs) : OpFn := vstOp 16 a
/-- `vst` with 16-bit lanes (R233). -/
def execVst16 (a : STArgs) (s : State) : Host.Outcome State Fault Refusal := issueAlone (.vst16 a) .st (opVst16 a) s
/-- `vst` with 32-bit lanes (R233). -/
def opVst32 (a : STArgs) : OpFn := vstOp 32 a
/-- `vst` with 32-bit lanes (R233). -/
def execVst32 (a : STArgs) (s : State) : Host.Outcome State Fault Refusal := issueAlone (.vst32 a) .st (opVst32 a) s
/-- `vst` with 64-bit lanes (R233). -/
def opVst64 (a : STArgs) : OpFn := vstOp 64 a
/-- `vst` with 64-bit lanes (R233). -/
def execVst64 (a : STArgs) (s : State) : Host.Outcome State Fault Refusal := issueAlone (.vst64 a) .st (opVst64 a) s
/-- `vscat` of 8-bit lanes (R231). -/
def opVscat8 (a : STArgs) : OpFn := vscatOp 8 a
/-- `vscat` of 8-bit lanes (R231). -/
def execVscat8 (a : STArgs) (s : State) : Host.Outcome State Fault Refusal := issueAlone (.vscat8 a) .st (opVscat8 a) s
/-- `vscat` of 16-bit lanes (R231). -/
def opVscat16 (a : STArgs) : OpFn := vscatOp 16 a
/-- `vscat` of 16-bit lanes (R231). -/
def execVscat16 (a : STArgs) (s : State) : Host.Outcome State Fault Refusal :=
  issueAlone (.vscat16 a) .st (opVscat16 a) s
/-- `vscat` of 32-bit lanes (R231). -/
def opVscat32 (a : STArgs) : OpFn := vscatOp 32 a
/-- `vscat` of 32-bit lanes (R231). -/
def execVscat32 (a : STArgs) (s : State) : Host.Outcome State Fault Refusal :=
  issueAlone (.vscat32 a) .st (opVscat32 a) s
/-- `vscat` of 64-bit lanes (R231). -/
def opVscat64 (a : STArgs) : OpFn := vscatOp 64 a
/-- `vscat` of 64-bit lanes (R231). -/
def execVscat64 (a : STArgs) (s : State) : Host.Outcome State Fault Refusal :=
  issueAlone (.vscat64 a) .st (opVscat64 a) s

/-! ### Atomics (R208, R209, R235, R236) -/

/-- The new value of an atomic of `n` bytes (R235). -/
def atomicNew (op : AtomicOp) (n old v expected : Nat) : Nat :=
  let b := 8 * n
  match op with
  | .add => (old + v) % 2 ^ b
  | .and => old &&& v
  | .or => old ||| v
  | .xor => old ^^^ v
  | .min => if decide (sextNat b old ≤ sextNat b v) then old else v
  | .max => if decide (sextNat b old ≤ sextNat b v) then v else old
  | .minn => Nat.min old v
  | .maxn => Nat.max old v
  | .swap => v
  | .cas => if old = expected then v else old

/-- The atomic has a PCI Express AtomicOp of its size (R209). -/
def hostAtomic (op : AtomicOp) (n : Nat) : Bool := match op with
  | .add | .swap => n == 4 || n == 8
  | .cas => n == 4 || n == 8 || n == 16
  | _ => false

/-- The check of an atomic, with the PERM of R209 in its place. -/
def checkAtomic (s : State) (c n va : Nat) (op : AtomicOp) : Sum (TrapCode × Nat) Frames :=
  match checkUse s c .atomic n va n with
  | .inr f => if isHost s (framePa f va) && !hostAtomic op n then .inl (.perm, va) else .inr f
  | .inl (.hmwrite, a) => match translate s (coreOf c) (jobOf s c) va with
    | some (pa, _) => if isHost s pa && !hostAtomic op n then .inl (.perm, va) else .inl (.hmwrite, a)
    | none => .inl (.hmwrite, a)
  | .inl e => .inl e

/-- A withheld atomic (R208, R235, R236). -/
def atomicOp (op : AtomicOp) (n : Nat) (a : LArgs) (dests : List Dest) (v expected : Arch → Nat) : OpFn := fun c s =>
  let r := (s.ctx c).arch
  let d := arrivalD a.dist
  let va := (readScalar r 0 a.base + BitVec.ofInt 64 (a.imm.toInt * n)).toNat
  let reads := reading a.pred ([a.base, a.index] ++ if op == .cas then [a.dst] else [])
  if !onL r a then { slot := .ld, reads := reads, traps := trapIf (tooNear s c d [(va, n)]) s c .ld .illsched }
  else
    let ck := checkAtomic s c n va op
    let f := match ck with
      | .inr f => f
      | .inl _ => []
    let segs := segsOf f va n 0
    { slot := .ld, reads := reads
      traps := trapIf (tooNear s c d [(va, n)] || bytesAwaited s c (segRanges segs)) s c .ld .illsched ++
        accessTraps s c .ld .atomic [(va, n)] [ck]
      waits := bytesWait s c (segRanges segs)
      loads := dests.map fun x => (x, d)
      entries := 1
      act := fun s =>
        let (us, s1) := startWithheld c .ld d dests s
        withhold s1 c .ld (.atomic op (framePa f va) n (v r) (expected r) us ((s.ctx c).arch.cc + d) (frameLeaf f va))
          [(jobOf s c, va, n)] }

/-- An atomic of 32 or 64 bits (R235). -/
def atomicN (op : AtomicOp) (a : LArgs) : OpFn :=
  let n := sizeL a / 8
  atomicOp op n a (destOf a.dst).toList (fun r => (readScalar r 0 a.index).toNat % 2 ^ (8 * n))
    (fun r => (readScalar r 0 a.dst).toNat % 2 ^ (8 * n))

/-- `aadd` (R235). -/
def opAadd (a : LArgs) : OpFn := atomicN .add a
/-- `aadd` (R235). -/
def execAadd (a : LArgs) (s : State) : Host.Outcome State Fault Refusal := issueAlone (.aadd a) .ld (opAadd a) s
/-- `aand` (R235). -/
def opAand (a : LArgs) : OpFn := atomicN .and a
/-- `aand` (R235). -/
def execAand (a : LArgs) (s : State) : Host.Outcome State Fault Refusal := issueAlone (.aand a) .ld (opAand a) s
/-- `aor` (R235). -/
def opAor (a : LArgs) : OpFn := atomicN .or a
/-- `aor` (R235). -/
def execAor (a : LArgs) (s : State) : Host.Outcome State Fault Refusal := issueAlone (.aor a) .ld (opAor a) s
/-- `axor` (R235). -/
def opAxor (a : LArgs) : OpFn := atomicN .xor a
/-- `axor` (R235). -/
def execAxor (a : LArgs) (s : State) : Host.Outcome State Fault Refusal := issueAlone (.axor a) .ld (opAxor a) s
/-- `amin` (R235). -/
def opAmin (a : LArgs) : OpFn := atomicN .min a
/-- `amin` (R235). -/
def execAmin (a : LArgs) (s : State) : Host.Outcome State Fault Refusal := issueAlone (.amin a) .ld (opAmin a) s
/-- `amax` (R235). -/
def opAmax (a : LArgs) : OpFn := atomicN .max a
/-- `amax` (R235). -/
def execAmax (a : LArgs) (s : State) : Host.Outcome State Fault Refusal := issueAlone (.amax a) .ld (opAmax a) s
/-- `aminn` (R235). -/
def opAminn (a : LArgs) : OpFn := atomicN .minn a
/-- `aminn` (R235). -/
def execAminn (a : LArgs) (s : State) : Host.Outcome State Fault Refusal := issueAlone (.aminn a) .ld (opAminn a) s
/-- `amaxn` (R235). -/
def opAmaxn (a : LArgs) : OpFn := atomicN .maxn a
/-- `amaxn` (R235). -/
def execAmaxn (a : LArgs) (s : State) : Host.Outcome State Fault Refusal := issueAlone (.amaxn a) .ld (opAmaxn a) s
/-- `aswap` (R235). -/
def opAswap (a : LArgs) : OpFn := atomicN .swap a
/-- `aswap` (R235). -/
def execAswap (a : LArgs) (s : State) : Host.Outcome State Fault Refusal := issueAlone (.aswap a) .ld (opAswap a) s
/-- `acas` (R235). -/
def opAcas (a : LArgs) : OpFn := atomicN .cas a
/-- `acas` (R235). -/
def execAcas (a : LArgs) (s : State) : Host.Outcome State Fault Refusal := issueAlone (.acas a) .ld (opAcas a) s

/-- The register after a scalar register (R236). -/
def nextReg : Port → Port
  | .s n => .s (n + 1)
  | q => q
/-- The 128 bits of a register pair (R236). -/
def pairValue (r : Arch) (q : Port) : Nat := (readScalar r 0 q).toNat + (readScalar r 0 (nextReg q)).toNat * 2 ^ 64
/-- `acas16` (R236). -/
def opAcas16 (a : LArgs) : OpFn := fun c s =>
  let o := atomicOp .cas 16 a ((destOf a.dst).toList ++ (destOf (nextReg a.dst)).toList)
    (fun r => pairValue r a.index) (fun r => pairValue r a.dst) c s
  { o with reads := o.reads ++ readCodes (nextReg a.index) ++ readCodes (nextReg a.dst) }
/-- `acas16` (R236). -/
def execAcas16 (a : LArgs) (s : State) : Host.Outcome State Fault Refusal := issueAlone (.acas16 a) .ld (opAcas16 a) s

end Sys2Proof.Machine
end

