-- ==== Sys2Proof/Machine/Tile.lean ====
section
/-! DEFINITION. Tile registers, tile transfers, `append`, zero-mask blocks and the record-cache fence (spec 14, R237 to R249; 10,
R182, R183; 15, R267 to R269). -/
namespace Sys2Proof.Machine

/-! ### Transfers (R211, R240, R241) -/

/-- Cut a run of `n` bits at 128-byte lines of both sides; `src` and `dst` give physical byte addresses. -/
def cutMoves (src dst : Nat → Nat) : Nat → Nat → Nat → Nat → List Move
  | 0, _, _, _ => []
  | fuel + 1, a, b, n =>
    if n = 0 then []
    else
      let k := Nat.min n (Nat.min (1024 - a % 1024) (1024 - b % 1024))
      { dst := dst (b / 8) * 8 + b % 8, src := src (a / 8) * 8 + a % 8, n := k, lit := none } ::
        cutMoves src dst fuel (a + k) (b + k) (n - k)
/-- The moves of a run of `n` bits from virtual bit address `a` to virtual bit address `b`. -/
def runMoves (src dst : Nat → Nat) (a b n : Nat) : List Move := cutMoves src dst (n / 512 + 4) a b n

/-- Moves of an element that the layout unit supplies as padding: they write a number instead of what they read (R149, R269). -/
def fillMoves (v : Nat) : List Move → List Move
  | [] => []
  | m :: r => { m with lit := some (v % 2 ^ m.n), pad := true } :: fillMoves (v / 2 ^ m.n) r

/-- Put a move among those of its line. -/
def addMove (store : Bool) (t : Table (List Move)) (m : Move) : Table (List Move) :=
  let k := (if store then m.dst else m.src) / 1024
  t.set k (t.get k [] ++ [m])
/-- The pieces of a transfer: its moves by line (R206). -/
def piecesOf (store : Bool) (l : List Move) : List Piece :=
  List.map (fun (p : Nat × List Move) => { line := p.1, store := store, moves := p.2, expand := none })
    (l.foldl (addMove store) [])

/-- The address of the completion counter of a tile register, if it counts (R240). -/
def counterVa (r : Arch) (t : TileReg) : Option Nat :=
  if t.cnt then some ((r.tcbase.toNat / 8 * 8 + 8 * t.cidx) % 2 ^ 64) else none
/-- The counter's range, if there is one. -/
def counterRange (r : Arch) (t : TileReg) : List (Nat × Nat) := match counterVa r t with
  | some va => [(va, 8)]
  | none => []
/-- The check of the counter's line (R240). -/
def counterCheck (s : State) (c : Nat) (r : Arch) (t : TileReg) : List (Sum (TrapCode × Nat) Frames) :=
  (counterRange r t).map fun (va, n) => checkUse s c .atomic 1 va n
/-- The physical address of the counter, and the leaf of its page. -/
def counterPa (s : State) (c : Nat) (r : Arch) (t : TileReg) : Option (Nat × W64) := match counterVa r t with
  | none => none
  | some va => translate s (coreOf c) (jobOf s c) va

/-- The check of a transfer's memory: R227, with the PERM of R379 for another module. -/
def checkTransfer (s : State) (c : Nat) (u : Use) (align va n : Nat) : Sum (TrapCode × Nat) Frames :=
  let foreign := match translateRange s (coreOf c) (jobOf s c) va n with
    | .inl _ => none
    | .inr f => firstBad va (fun pa _ => needsFabric s c pa) f
  match checkUse s c u align va n, foreign with
  | r, none => r
  | .inr _, some a => .inl (.perm, a)
  | .inl (.perm, b), some a => .inl (.perm, Nat.min a b)
  | .inl (.hmwrite, _), some a => .inl (.perm, a)
  | r, some _ => r

/-- A transfer of context `c`, with what all transfers share; its name is given when it starts. -/
def newTransfer (s : State) (c : Nat) (kind : TransferKind) (tiles : List Nat) (pieces : List Piece) (counter : Option (Nat × W64))
    (pins : List (Nat × Nat × Nat)) (leaves : List (Nat × W64)) : Transfer :=
  { uid := 0, ctx := some c, life := lifeOf s c, job := jobOf s c, agent := agentOf s c, pc := (s.ctx c).pc, kind := kind,
    order := (s.ctx c).issued, tiles := tiles, pieces := pieces, after := (s.ctx c).released, counter := counter, pins := pins, leaves := leaves }
/-- A transfer enters the tile queue (R204). -/
def queueTransfer (s : State) (t : Transfer) : State :=
  let (u, s1) := s.fresh
  { s1 with transfers := s1.transfers ++ [{ t with uid := u }] }
/-- The addresses of a transfer are translated: by the TLBs of its context's core, or by the hub for a graph's copy (R266). -/
def walkTransfer (s : State) (t : Transfer) : State := match t.ctx with
  | some c => walkPins s c t.pins
  | none => t.pins.foldl (fun s (j, va, n) => (granules va n).foldl (fun s (_, a, _) => hubWalk s j a) s) s
/-- A transfer whose addresses have been translated enters the tile queue (R204, R266). -/
def startTransfer (s : State) (t : Transfer) : State := queueTransfer (walkTransfer s t) t

/-- Pins of checked ranges. -/
def pinsOf (s : State) (c : Nat) (l : List (Nat × Nat)) : List (Nat × Nat × Nat) := l.map fun (va, n) => (jobOf s c, va, n)

/-! ### Tensor records (R248, R267 to R269) -/

/-- A tensor record. -/
structure Record where
  base : Nat
  pad : Nat
  sg : Nat
  ndim : Nat
  home : Nat
  fmtCode : BitVec 4
  rsv : Bool
  bitoff : Nat
  sbase : Nat
  sbrow : Nat
  splane : Nat
  stride : List Int
  extent : List Nat

/-- The fields of a record's 128 bytes (R267). -/
def Record.ofBits (x : BitVec 1024) : Record :=
  let w (i : Nat) : BitVec 64 := x.extractLsb' (64 * i) 64
  { base := (w 0).toNat
    pad := ((w 1).extractLsb' 48 16).toNat
    sg := ((w 1).extractLsb' 29 3).toNat
    ndim := ((w 1).extractLsb' 26 3).toNat
    home := ((w 1).extractLsb' 24 2).toNat
    fmtCode := (w 1).extractLsb' 20 4
    rsv := (w 1).extractLsb' 32 16 != 0 || (w 1).extractLsb' 3 17 != 0
    bitoff := ((w 1).extractLsb' 0 3).toNat
    sbase := (w 2).toNat
    sbrow := ((w 3).extractLsb' 32 32).toNat
    splane := ((w 3).extractLsb' 0 32).toNat
    stride := (List.range 8).map fun i => (w (4 + i)).toInt
    extent := (List.range 8).map fun i => (x.extractLsb' (768 + 32 * i) 32).toNat }

/-- A format that R150 scales. -/
def ETy.scaled : ETy → Bool
  | .ta8 | .ta6 | .f16 | .bf16 => true
  | _ => false

/-- The record cannot be used (R268). -/
def Record.bad (r : Record) : Bool :=
  r.rsv || decide (2 ≤ r.home) || (match ETy.ofCode r.fmtCode with
    | none => true
    | some f => r.sg != 7 && !ETy.scaled f)
/-- The record's format differs from that of a defined tile register (R241). -/
def Record.otherFormat (r : Record) (t : TileReg) : Bool := t.defined && ETy.ofCode r.fmtCode != some t.fmt
/-- The record's block code differs from that of a defined tile register (R241). -/
def Record.otherBlocks (r : Record) (t : TileReg) : Bool := t.defined && t.sg != 7 && t.sg != r.sg

/-- Extent of dimension `i`; a dimension above NDIM has extent 1 (R268). -/
def Record.ext (r : Record) (i : Nat) : Nat := if i ≤ r.ndim then r.extent.getD i 1 else 1

/-- The coordinates of a record form (R241, R269). -/
structure Coords where
  c0 : Int
  row0 : Int
  plane : Int
/-- The coordinates that a register and a plane offset give (R269). -/
def Coords.of (sc : W64) (p : BitVec 12) : Coords :=
  { c0 := (sc.extractLsb' 0 24).toInt, row0 := (sc.extractLsb' 24 24).toInt
    plane := (sc.extractLsb' 48 16).toInt + p.toInt }

/-- The indices of dimensions `i` up, mixed-radix, and what is left over (R241). -/
def planeIndex (r : Record) : Nat → Nat → Nat → List Nat × Nat
  | 0, _, z => ([], z)
  | n + 1, i, z =>
    let e := r.ext i
    if e = 0 then ([], 1)
    else
      let (l, rest) := planeIndex r n (i + 1) (z / e)
      (z % e :: l, rest)

/-- The bits that the plane adds to an element's address, when the plane is in range (R269). -/
def planeBits (r : Record) (k : Coords) : Option Int :=
  if k.plane < 0 then none
  else
    let (l, rest) := planeIndex r 6 2 k.plane.toNat
    if rest != 0 || l.length != 6 then none
    else some ((l.zipIdx.map fun (x, i) => (x : Int) * (if i + 2 ≤ r.ndim then r.stride.getD (i + 2) 0 else 0)).sum)

/-- The bit address of tile element (i, j), or none when it is out of range (R269). -/
def elemAddr (r : Record) (k : Coords) (z : Option Int) (i j : Nat) : Option Nat :=
  match z with
  | none => none
  | some pb =>
    let y := k.row0 + i
    let x := k.c0 + j
    if 0 ≤ y ∧ y < r.ext 1 ∧ 0 ≤ x ∧ x < r.ext 0 then
      some ((8 * (r.base : Int) + r.bitoff + pb + x * r.stride.getD 0 0 +
        (if 1 ≤ r.ndim then y * r.stride.getD 1 0 else 0)) % 2 ^ 67).toNat
    else none

/-- The scale bytes that a tile's blocks take: offset in the tile's scale array and virtual address, or none for a block
outside the extents (R241, R269). -/
def blockAddrs (r : Record) (k : Coords) (z : Option Int) (t : TileReg) : List (Nat × Option Nat) :=
  let h : Int := 2 ^ (6 - t.sg)
  let w : Int := 2 ^ t.sg
  (List.range t.nbr).flatMap fun (br : Nat) => (List.range t.nbc).map fun (bc : Nat) =>
    let yb : Int := k.row0 / h + (br : Int)
    let xb : Int := k.c0 / w + (bc : Int)
    let inside := z.isSome && 0 ≤ yb && decide (yb * h < r.ext 1) && 0 ≤ xb && decide (xb * w < r.ext 0)
    (br * t.nbc + bc, if inside then
      some (((r.sbase : Int) + k.plane * r.splane + yb * r.sbrow + xb) % 2 ^ 64).toNat else none)

/-- The range from the lowest to the highest byte of a list of bit runs of `b` bits. -/
def boundOf (b : Nat) : List Nat → Option (Nat × Nat)
  | [] => none
  | a :: r => match boundOf b r with
    | none => some (a / 8, (a + b - 1) / 8)
    | some (lo, hi) => some (Nat.min lo (a / 8), Nat.max hi ((a + b - 1) / 8))
/-- The bounding ranges of a list of bit runs, as checked ranges. -/
def boundRange (b : Nat) (l : List Nat) : List (Nat × Nat) := match boundOf b l with
  | none => []
  | some (lo, hi) => [(lo, hi + 1 - lo)]

/-- The record cache of a die. -/
def recCacheOf (s : State) (die : Nat) : Table (BitVec 1024) := s.recCache.get die []
/-- A line of a page with leaf `e` as agent `q` reads it at the coherent point, with no L1: a management window answers for itself (R254), a
line of home 01 is read at its home (R224), and any other is obtained for reading, and pinned where its page says so (R257, R258). -/
def pointRead (s : State) (q pa : Nat) (e : W64) : BitVec 1024 × State :=
  let line := pa / 128
  match region s pa, paAgent pa / 4 == s.pos with
  | .mgmt off, true => (BitVec.ofNat 1024 (mgmtRead s off 128), s)
  | _, _ =>
    let s1 := if !tagged s pa || Pte.home e == 1 then homeAccess s q line true [] else obtainShared s q line e
    (lineData s1 line, s1)
/-- The record at a physical address, from the die's record cache or fetched into it from the coherent point (R248). -/
def fetchRecord (s : State) (c pa : Nat) (e : W64) : BitVec 1024 × State :=
  let die := dieOf (coreOf c)
  let line := pa / 128
  match (recCacheOf s die).get? line with
  | some x => (x, s)
  | none =>
    let (x, s1) := pointRead s (agentOf s c) pa e
    (x, { s1 with recCache := s1.recCache.set die ((recCacheOf s1 die).set line x) })

/-- What the record form of an operation works with: the check of the record's line, its physical address with its leaf, its contents. -/
structure RecordRead where
  va : Nat
  check : Sum (TrapCode × Nat) Frames
  pa : Nat
  leaf : W64
  record : Record
/-- MCHK or SOFT of a record that the die's cache has to fetch (R223, R248, R273). -/
def recordFaults (s : State) (c : Nat) (k : Slot) (va : Nat) : List Cause := match checkUse s c .load 128 va 128 with
  | .inl _ => []
  | .inr f =>
    let pa := framePa f va
    let line := pa / 128
    let bad (code : TrapCode) : List Cause := [{ causeAt s c k code va with log := s.mgmt.flogN, line := some line }]
    if ((recCacheOf s (dieOf (coreOf c))).get? line).isSome then []
    else if refused s (agentOf s c) pa (frameLeaf f va) false then bad .mchk
    else if s.homes.dataErr.contains line then bad .soft
    else []
/-- Read the record of a record form (R241, R248). -/
def readRecord (s : State) (c va : Nat) : RecordRead :=
  let ck := checkUse s c .load 128 va 128
  let (pa, e) := match ck with
    | .inr f => (framePa f va, frameLeaf f va)
    | .inl _ => (0, 0)
  { va := va, check := ck, pa := pa, leaf := e, record := Record.ofBits (fetchRecord s c pa e).1 }
/-- The die's cache takes the record that a record form has read, whose address the core's TLB translates (R248, R266). -/
def keepRecord (s : State) (c : Nat) (rr : RecordRead) : State := match rr.check with
  | .inr _ => (fetchRecord (pageWalk s c rr.va) c rr.pa rr.leaf).2
  | .inl _ => s
/-- The record of a record form has been read, and breaks a condition (R241, R268); it is judged whatever the enable (R15; log 153). -/
def illegalRecord (s : State) (c : Nat) (k : Slot) (va : Nat) (bad : Record → Bool) : List Cause :=
  let rr := readRecord s c va
  trapIf (rr.check.isRight && (recordFaults s c k va).isEmpty && bad rr.record) s c k .illenc

/-- A `tsrf` of the context stands between: withheld raises ILLSCHED, queued freezes (R249). -/
def isTsrf (e : Entry) : Bool := match e.act with
  | .tsrf _ => true
  | _ => false
/-- A withheld `tsrf` stands before a record form (R249). -/
def tsrfWithheld (s : State) (c : Nat) : Bool := (s.ctx c).withheld.any isTsrf
/-- A queued `tsrf` freezes a record form (R249). -/
def tsrfWaits (s : State) (c : Nat) : Option FreezeCause :=
  if (s.ctx c).storeQ.any isTsrf then some .recordOrPhase else none

/-! ### Tile loads (R182, R183, R241) -/

/-- The cores that receive a tile load, by multicast code (R241). -/
def receivers (core : Nat) (mc : Nat) : List Nat :=
  let base := core / 16 * 16
  let i := core % 16
  match mc with
  | 0 => [core]
  | 1 => [base + Nat.min i (i ^^^ 1), base + Nat.max i (i ^^^ 1)]
  | 2 => (List.range 8).map fun k => base + 2 * k + i % 2
  | _ => (List.range 16).map fun k => base + k

/-- Copy moves into the window of every receiver, at the same offset (R241). -/
def multicast (s : State) (c : Nat) (cores : List Nat) (l : List Move) : List Move :=
  let a := agentOf s c
  let own := windowBase a (coreNo (coreOf c)) * 8
  l.flatMap fun m => cores.map fun k => { m with dst := m.dst - own + windowBase a k * 8 }

/-- A receiver's target region overlaps its L1 part (R241). -/
def receiverBad (s : State) (c : Nat) (cores : List Nat) (t : TileRef) : Bool :=
  let a := agentOf s c
  let own := windowBase a (coreNo (coreOf c))
  cores.any fun k => t.ranges.any fun (pa, _) => inL1Part s (pa - own + windowBase a k)

/-- A tile load that has been checked starts, or marks its register abandoned (R182, R183), once its failing address has been translated
(R227, R266). -/
def loadTile (c : Nat) (k : Slot) (n : BitVec 5) (spec : Bool) (fail : Option (TrapCode × Nat)) (t : Transfer) (s : State) : State :=
  match fail with
  | some (code, a) =>
    if spec then (if code == .align then s else pageWalk s c a).modArch c fun r => setTReg r n { tReg r n with
      abandoned := some { pc := (s.ctx c).pc, slot := k, code := code, addr := a } }
    else s
  | none => startTransfer s t

/-- The failure that a speculative load turns into an abandon mark (R182): XLATE, PERM or ALIGN, and neither SOFT nor MCHK.  Which checks R182
means beside that of the memory range it does not say: those of the record's line, of the completion counter and of the receivers of a
multicast set the mark as well, and the region of the register itself traps as in every operation that names it (`nameTile`; logs 28 and
162). -/
def specFail (spec : Bool) (l : List (Sum (TrapCode × Nat) Frames)) : Option (TrapCode × Nat) :=
  if spec then match firstFail (failsOf l) with
    | some (.hmwrite, _) | some (.mchk, _) | some (.soft, _) => none
    | r => r
  else none

/-- The moves of a tile load from rows at `ea` (R241). -/
def rowLoads (f : Frames) (t : TileRef) (ea : Nat) : List Move := (List.range t.reg.rows).flatMap fun i =>
  runMoves (framePa f) (plainPa t.frames) ((ea + i * t.reg.pitch) * 8) ((t.reg.base.toNat + i * t.reg.pitch) * 8)
    (t.reg.rb * 8)

/-- PERM of a tile load with a receiver that cannot take it (R241). -/
def receiverCheck (s : State) (c : Nat) (a : LArgs) (t : TileRef) : List (Sum (TrapCode × Nat) Frames) :=
  if receiverBad s c (receivers (coreNo (coreOf c)) (a.dist.toNat / 64)) t then [.inl (.perm, t.reg.base.toNat)] else []

/-- The checks of the memory of a `tld` (R227, R240, R241). -/
def tldChecks (a : LArgs) (c : Nat) (s : State) : List (Sum (TrapCode × Nat) Frames) :=
  let r := (s.ctx c).arch
  let t := (nameTile s c .ld (onL r a) a.dst .load).ref
  [checkTransfer s c .load 16 (eaL r a 128) t.reg.span] ++ counterCheck s c r t.reg ++ receiverCheck s c a t

/-- `tld` (R241). -/
def opTld (a : LArgs) : OpFn := fun c s =>
  let r := (s.ctx c).arch
  let on := onL r a
  let nm := nameTile s c .ld on a.dst .load
  let reads := reading a.pred [a.base, a.index]
  let t := nm.ref
  let ea := eaL r a 128
  let cores := receivers (coreNo (coreOf c)) (a.dist.toNat / 64)
  let main := checkTransfer s c .load 16 ea t.reg.span
  let checks := tldChecks a c s
  let fail := specFail a.spec checks
  let f : Frames := (framesOf [main]).flatten
  if !on then { slot := .ld, reads := reads, traps := nm.traps, waits := nm.waits }
  else
    let segs := segRanges (segsOf f ea t.reg.span 0)
    { slot := .ld, reads := reads
      traps := nm.traps ++ trapIf (bytesAwaited s c segs) s c .ld .illsched ++
        (if fail.isSome then [] else accessTraps s c .ld .load [(ea, t.reg.span)] checks)
      waits := orWait nm.waits (reachWaits s c segs)
      act := fun s =>
        loadTile c .ld (tileNo a.dst) a.spec fail (newTransfer s c .load [t.tl]
          (piecesOf false (multicast s c cores (rowLoads f t ea)))
          (counterPa s c r t.reg) (pinsOf s c ((ea, t.reg.span) :: counterRange r t.reg)) f.leaves) s }
/-- `tld` (R241). -/
def execTld (a : LArgs) (s : State) : Host.Outcome State Fault Refusal := issueAlone (.tld a) .ld (opTld a) s

/-- A tile register as `tldh` leaves it: its block offsets follow the origin (R241). -/
def originReg (t : TileReg) (k : Coords) : TileReg :=
  if t.sg = 7 then t
  else
    let so : BitVec 6 := BitVec.ofNat 6 (k.row0 % 2 ^ (6 - t.sg)).toNat
    let co : BitVec 6 := BitVec.ofNat 6 (k.c0 % 2 ^ t.sg).toNat
    { t with image := t.image.extractLsb' 108 20 ++ co ++ so ++ t.image.extractLsb' 0 96 }

/-- The leaves of a transfer whose record says that its lines are never cached (R267). -/
def uncachedLeaves (home : Nat) (l : List (Nat × W64)) : List (Nat × W64) :=
  if home = 1 then l.map fun (g, e) => (g, (e &&& 0x3FFFFFFFFFFFFFFF) ||| 0x4000000000000000) else l

/-- The elements of a tile with their bit addresses in the tensor (R269). -/
def recordElems (q : Record) (k : Coords) (t : TileReg) : List (Nat × Nat × Option Nat) :=
  (List.range t.rows).flatMap fun i => (List.range t.cols).map fun j => (i, j, elemAddr q k (planeBits q k) i j)
/-- The scale bytes of a tile with their addresses in the tensor (R241, R269). -/
def recordBlocks (q : Record) (k : Coords) (t : TileReg) : List (Nat × Option Nat) :=
  if t.sg = 7 then [] else blockAddrs q k (planeBits q k) t
/-- The bit address of a tile's element (R237). -/
def elemVa (t : TileReg) (i j : Nat) : Nat := (t.base.toNat + i * t.pitch) * 8 + j * t.bits
/-- The moves of a record form's load: elements, with PAD for those out of range, and scale bytes, with 0 (R241, R269). -/
def recordLoads (f : Frames) (t : TileRef) (q : Record) (k : Coords) : List Move :=
  let pa := plainPa t.frames
  ((recordElems q k t.reg).flatMap fun (i, j, x) => match x with
    | some b => runMoves (framePa f) pa b (elemVa t.reg i j) t.reg.bits
    | none => fillMoves (q.pad % 2 ^ t.reg.bits) (runMoves pa pa (elemVa t.reg i j) (elemVa t.reg i j) t.reg.bits)) ++
  (recordBlocks q k t.reg).flatMap fun (o, x) =>
    let d := t.reg.base.toNat + t.reg.scale + o
    match x with
    | some b => runMoves (framePa f) pa (b * 8) (d * 8) 8
    | none => [{ dst := pa d * 8, src := pa d * 8, n := 8, lit := some 0 }]
/-- The moves of a record form's store: the elements in range (R242, R269). -/
def recordStores (f : Frames) (t : TileRef) (q : Record) (k : Coords) : List Move :=
  (recordElems q k t.reg).flatMap fun (i, j, x) => match x with
    | some b => runMoves (plainPa t.frames) (framePa f) (elemVa t.reg i j) b t.reg.bits
    | none => []

/-- The destination of a `tldh` as the operation leaves it (R241). -/
def tldhTile (a : LArgs) (c : Nat) (s : State) : TileRef :=
  let r := (s.ctx c).arch
  let reg := originReg (tReg r (tileNo a.dst)) (Coords.of (readScalar r 0 a.index) a.imm)
  { tl := (tileNo a.dst).toNat, reg := reg, frames := match regionFrames s c reg with
    | .inr f => f
    | .inl _ => [] }
/-- The memory that a `tldh` reads: the elements in range, and the scale bytes of blocks in range (R227, R241). -/
def tldhRanges (a : LArgs) (c : Nat) (s : State) : List (Nat × Nat) :=
  let r := (s.ctx c).arch
  let q := (readRecord s c (readScalar r 0 a.base).toNat).record
  let k := Coords.of (readScalar r 0 a.index) a.imm
  let reg := (tldhTile a c s).reg
  boundRange reg.bits ((recordElems q k reg).filterMap fun (_, _, x) => x) ++
    boundRange 8 ((recordBlocks q k reg).filterMap fun (_, x) => x.map (8 * ·))
/-- The checks of the memory of a `tldh`: its record's line first (R227, R240, R241, R248). -/
def tldhChecks (a : LArgs) (c : Nat) (s : State) : List (Sum (TrapCode × Nat) Frames) :=
  let r := (s.ctx c).arch
  match (readRecord s c (readScalar r 0 a.base).toNat).check with
  | .inl e => [.inl e]
  | .inr _ => (tldhRanges a c s).map (fun (va, n) => checkTransfer s c .load 1 va n) ++
      counterCheck s c r (tldhTile a c s).reg ++ receiverCheck s c a (tldhTile a c s)

/-- `tldh` (R241, R248, R268, R269). -/
def opTldh (a : LArgs) : OpFn := fun c s =>
  let r := (s.ctx c).arch
  let on := onL r a
  let nm := nameTile s c .ld on a.dst .load
  let reads := reading a.pred [a.base, a.index]
  let rr := readRecord s c (readScalar r 0 a.base).toNat
  let k := Coords.of (readScalar r 0 a.index) a.imm
  let q := rr.record
  let t := tldhTile a c s
  let reg := t.reg
  let ranges := tldhRanges a c s
  let cores := receivers (coreNo (coreOf c)) (a.dist.toNat / 64)
  let bad : List (Sum (TrapCode × Nat) Frames) := match regionFrames s c reg with
    | .inl e => [.inl e]
    | .inr _ => []
  let mem := ranges.map fun (va, n) => checkTransfer s c .load 1 va n
  let checks := tldhChecks a c s
  let fail := specFail a.spec checks
  let f : Frames := (framesOf mem).flatten
  let illegal := illegalRecord s c .ld (readScalar r 0 a.base).toNat fun q => q.bad || q.otherFormat nm.ref.reg || q.otherBlocks nm.ref.reg
  if !on then
    { slot := .ld, reads := reads, traps := illegal ++ nm.traps ++ trapIf (tsrfWithheld s c) s c .ld .illsched
      waits := orWait nm.waits (tsrfWaits s c) }
  else
    let segs := (mem.zip ranges).flatMap fun (ck, va, n) => segRanges (segsOf (framesOf [ck]).flatten va n 0)
    { slot := .ld, reads := reads
      traps := illegal ++ nm.traps ++
        trapIf (tsrfWithheld s c || bytesAwaited s c segs) s c .ld .illsched ++
        (if nm.traps.isEmpty then accessTraps s c .ld .load [] bad else []) ++
        (if fail.isSome then [] else accessTraps s c .ld .load ranges checks) ++
        recordFaults s c .ld (readScalar r 0 a.base).toNat
      waits := orWait nm.waits (orWait (tsrfWaits s c) (reachWaits s c segs))
      act := fun s =>
        let s1 := keepRecord s c rr
        let s2 := if fail.isSome then s1 else s1.modArch c fun r => setTReg r (tileNo a.dst)
          { tReg r (tileNo a.dst) with image := reg.image }
        loadTile c .ld (tileNo a.dst) a.spec fail (newTransfer s2 c .load [t.tl]
          (piecesOf false (multicast s2 c cores (recordLoads f t q k))) (counterPa s c r reg)
          (pinsOf s c (ranges ++ counterRange r reg)) (uncachedLeaves q.home f.leaves)) s2 }
/-- `tldh` (R241, R248, R268, R269). -/
def execTldh (a : LArgs) (s : State) : Host.Outcome State Fault Refusal := issueAlone (.tldh a) .ld (opTldh a) s

/-! ### Tile stores (R232, R242) -/

/-- The moves of a tile store to rows at `ea` (R242). -/
def rowStores (f : Frames) (t : TileRef) (ea : Nat) : List Move := (List.range t.reg.rows).flatMap fun i =>
  runMoves (plainPa t.frames) (framePa f) ((t.reg.base.toNat + i * t.reg.pitch) * 8) ((ea + i * t.reg.pitch) * 8)
    (t.reg.cols * t.reg.bits)

/-- `tst` (R242). -/
def opTst (a : STArgs) : OpFn := fun c s =>
  let r := (s.ctx c).arch
  let on := enabledS r a.pred false
  let nm := nameTile s c .st on a.data .use
  let reads := reading a.pred [a.base, a.index]
  let t := nm.ref
  let ea := eaST r a 128
  let main := checkTransfer s c .store 1 ea t.reg.span
  let f : Frames := (framesOf [main]).flatten
  if !on then { slot := .st, reads := reads, traps := nm.traps, waits := nm.waits }
  else
    let segs := segRanges (segsOf f ea t.reg.span 0)
    { slot := .st, reads := reads
      traps := nm.traps ++ trapIf (bytesAwaited s c segs) s c .st .illsched ++
        accessTraps s c .st .store [(ea, t.reg.span)] ([main] ++ counterCheck s c r t.reg)
      waits := orWait nm.waits (reachWaits s c segs)
      entries := 1
      act := fun s =>
        let tr := newTransfer s c .store [t.tl] (piecesOf true (rowStores f t ea)) (counterPa s c r t.reg)
          (pinsOf s c ((ea, t.reg.span) :: counterRange r t.reg)) f.leaves
        withhold s c .st (.tileStore tr t) tr.pins }
/-- `tst` (R242). -/
def execTst (a : STArgs) (s : State) : Host.Outcome State Fault Refusal := issueAlone (.tst a) .st (opTst a) s

/-- `tsth` (R242, R248, R268, R269). -/
def opTsth (a : STArgs) : OpFn := fun c s =>
  let r := (s.ctx c).arch
  let on := enabledS r a.pred false
  let nm := nameTile s c .st on a.data .use
  let reads := reading a.pred [a.base, a.index]
  let t := nm.ref
  let rr := readRecord s c (readScalar r 0 a.base).toNat
  let k := Coords.of (readScalar r 0 a.index) a.imm
  let q := rr.record
  let ranges := boundRange t.reg.bits ((recordElems q k t.reg).filterMap fun (_, _, x) => x)
  let mem := ranges.map fun (va, n) => checkTransfer s c .store 1 va n
  let checks := match rr.check with
    | .inl e => [.inl e]
    | .inr _ => mem ++ counterCheck s c r t.reg
  let f : Frames := (framesOf mem).flatten
  let early := nm.traps ++ trapIf (tsrfWithheld s c) s c .st .illsched
  let illegal := illegalRecord s c .st (readScalar r 0 a.base).toNat fun q => q.bad || q.otherFormat t.reg
  if !on then { slot := .st, reads := reads, traps := illegal ++ early, waits := orWait nm.waits (tsrfWaits s c) }
  else
    let segs := (mem.zip ranges).flatMap fun (ck, va, n) => segRanges (segsOf (framesOf [ck]).flatten va n 0)
    { slot := .st, reads := reads
      traps := illegal ++ early ++ trapIf (bytesAwaited s c segs) s c .st .illsched ++
        accessTraps s c .st .store ranges checks ++ recordFaults s c .st (readScalar r 0 a.base).toNat
      waits := orWait nm.waits (orWait (tsrfWaits s c) (reachWaits s c segs))
      entries := 1
      act := fun s =>
        let s1 := keepRecord s c rr
        let tr := newTransfer s c .store [t.tl] (piecesOf true (recordStores f t q k)) (counterPa s c r t.reg)
          (pinsOf s c (ranges ++ counterRange r t.reg)) (uncachedLeaves q.home f.leaves)
        withhold s1 c .st (.tileStore tr t) tr.pins }
/-- `tsth` (R242, R248, R268, R269). -/
def execTsth (a : STArgs) (s : State) : Host.Outcome State Fault Refusal := issueAlone (.tsth a) .st (opTsth a) s

/-! ### append (R243, R244) -/

/-- The check of a queue's header: the read of R228 needs R, and the atom steps need W (R227, R244, R265). -/
def headerCheck (s : State) (c va : Nat) : Sum (TrapCode × Nat) Frames := match checkTransfer s c .load 128 va 16 with
  | .inl e => .inl e
  | .inr _ => checkTransfer s c .atomic 128 va 16

/-- `append` (R244). -/
def opAppend (a : STArgs) : OpFn := fun c s =>
  let r := (s.ctx c).arch
  let on := enabledS r a.pred false
  let nm := nameTile s c .st on a.data .use
  let reads := reading a.pred [a.base]
  let t := nm.ref
  let va := (readScalar r 0 a.base).toNat
  let head := headerCheck s c va
  let hf : Frames := (framesOf [head]).flatten
  let segs := segsOf hf va 16 0
  let faults := issueFaults s c .st segs
  let h := (issueRead s c segs).1
  let pitch := bitsOf h 64 32
  let limit := bitsOf h 32 32
  -- the header is judged whatever the enable, where it can be read (R15; log 153)
  let early := nm.traps ++
    trapIf (head.isRight && faults.isEmpty && (pitch % 16 != 0 || decide (pitch < t.reg.rb))) s c .st .illsched
  let waits := orWait nm.waits (if head.isRight then issueReadWaits s c segs else none)
  if !on then { slot := .st, reads := reads, traps := early, waits := waits }
  else match head with
    | .inl _ =>
      { slot := .st, reads := reads, traps := early ++ accessTraps s c .st .store [(va, 16)] [head], waits := waits }
    | .inr _ =>
      let n := 128 + limit * pitch
      let main := checkTransfer s c .store 128 va n
      let f : Frames := (framesOf [main]).flatten
      let area := segRanges (segsOf f va n 0)
      { slot := .st, reads := reads
        traps := early ++ trapIf (bytesAwaited s c (segRanges segs ++ area)) s c .st .illsched ++
          accessTraps s c .st .load [(va, 16)] [head] ++
          accessTraps s c .st .store [(va, n)] ([main] ++ counterCheck s c r t.reg) ++ faults
        waits := orWait waits (reachWaits s c area)
        entries := 1
        act := fun s =>
          let s1 := (issueRead s c segs).2
          let tr := newTransfer s1 c (.append (framePa hf va) t.reg.rows) [t.tl] [] (counterPa s c r t.reg)
            (pinsOf s c ((va, n) :: counterRange r t.reg)) f.leaves
          withhold s1 c .st (.append tr t (framePa hf va) pitch limit f.plain va) tr.pins }
/-- `append` (R244). -/
def execAppend (a : STArgs) (s : State) : Host.Outcome State Fault Refusal := issueAlone (.append a) .st (opAppend a) s

/-! ### Tile registers (R239) -/

/-- The image breaks a condition of R239 that raises ILLSCHED. -/
def badImage (x : BitVec 128) : Bool :=
  let t : TileReg := { TileReg.fresh with image := x }
  match ETy.ofCode (x.extractLsb' 56 4) with
  | none => true
  | some f =>
    t.rows == 0 || decide (4096 < t.rows) || t.cols == 0 || decide (4096 < t.cols) || decide (t.pitch < t.rb) ||
    x.extractLsb' 108 20 != 0 ||
    (t.sg != 7 && (!ETy.scaled f || decide (2 ^ (6 - t.sg) ≤ t.sroff) || decide (2 ^ t.sg ≤ t.scoff)))

/-- The enable of a T64 operation (R245). -/
def onT (r : Arch) (a : TArgs) : Bool := enabledS r a.pred false
/-- The signed immediate of a T64 operation. -/
def immT (a : TArgs) : W64 := a.imm.signExtend 64

/-- `tdef` (R239). -/
def opTdef (a : TArgs) : OpFn := fun c s =>
  let r := (s.ctx c).arch
  let on := onT r a
  let nm := nameTile s c .tm on a.dst .define
  let reads := reading a.pred [a.a, a.b]
  let sa := (readScalar r 0 a.a).toNat
  let sb := readScalar r 0 a.b
  let ck := checkUse s c .load 16 sa 16
  match ck with
    | .inl _ =>
      { slot := .tm, reads := reads, waits := nm.waits
        traps := nm.traps ++ if on then accessTraps s c .tm .load [(sa, 16)] [ck] else [] }
    | .inr f =>
      let segs := segsOf f sa 16 0
      let faults := issueFaults s c .tm segs
      let image := BitVec.ofNat 128 (issueRead s c segs).1
      let t : TileReg := { TileReg.fresh with defined := true, image := image, base := sb }
      -- the image is judged whatever the enable, where it can be read (R15; log 153)
      let bad := faults.isEmpty && badImage image
      let early := nm.traps ++ trapIf bad s c .tm .illsched
      let waits := orWait nm.waits (issueReadWaits s c segs)
      let misaligned := sb.toNat % 16 != 0 || t.pitch % 16 != 0 || t.scale % 16 != 0
      if !on then { slot := .tm, reads := reads, traps := early, waits := waits }
      else
        { slot := .tm, reads := reads, waits := waits
          traps := early ++ trapIf (bytesAwaited s c (segRanges segs)) s c .tm .illsched ++
            accessTraps s c .tm .load [(sa, 16)] [ck] ++ faults ++
            trapIf (faults.isEmpty && misaligned) s c .tm .align sb.toNat ++
            (if bad || !faults.isEmpty then [] else match regionFrames s c t with
              | .inl (code, x) => [failCause s c .tm code x]
              | .inr _ => [])
          act := fun s =>
            let (_, s1) := issueRead s c segs
            s1.modArch c fun r => setTReg r (tileNo a.dst) t }
/-- `tdef` (R239). -/
def execTdef (a : TArgs) (s : State) : Host.Outcome State Fault Refusal := issueAlone (.tdef a) .tm (opTdef a) s

/-! ### Zero-mask blocks (R246, R247) -/

/-- The tile can take part in the zero-mask form (R246). -/
def blockTile (t : TileReg) : Bool := t.defined && t.rb % 128 == 0
/-- Blocks of a row. -/
def rowBlocks (t : TileReg) : Nat := t.rb / 128

/-- The pieces that expand blocks of `p` bytes at `sa` into a tile (R246, R247). -/
def blockPieces (f : Frames) (t : TileRef) (sa p : Nat) : List Piece :=
  (List.range t.reg.rows).flatMap fun i => (List.range (rowBlocks t.reg)).map fun b =>
    let va := sa + (i * rowBlocks t.reg + b) * p
    { line := framePa f va / 128, store := false, moves := []
      expand := some ((List.range p).map (fun k => framePa f (va + k)),
        (List.range 128).map fun k => t.pa (i * t.reg.pitch + 128 * b + k)) }

/-- `texp` (R247). -/
def opTexp (a : TArgs) : OpFn := fun c s =>
  let r := (s.ctx c).arch
  let on := onT r a
  let nm := nameTile s c .tm on a.dst .load
  let reads := reading a.pred [a.a]
  let t := nm.ref
  let sa := (readScalar r 0 a.a).toNat
  let p := 16 * a.imm.toNat
  let n := t.reg.rows * rowBlocks t.reg * p
  let main := checkTransfer s c .load 16 sa n
  let f : Frames := (framesOf [main]).flatten
  let early := trapIf (t.reg.defined && !blockTile t.reg) s c .tm .illenc ++ nm.traps
  if !on then { slot := .tm, reads := reads, traps := early, waits := nm.waits }
  else
    let segs := segRanges (segsOf f sa n 0)
    { slot := .tm, reads := reads
      traps := early ++ trapIf (bytesAwaited s c segs) s c .tm .illsched ++
        accessTraps s c .tm .load [(sa, n)] ([main] ++ counterCheck s c r t.reg)
      waits := orWait nm.waits (reachWaits s c segs)
      act := fun s =>
        startTransfer s (newTransfer s c .load [t.tl] (blockPieces f t sa p) (counterPa s c r t.reg)
          (pinsOf s c ((sa, n) :: counterRange r t.reg)) f.leaves) }
/-- `texp` (R247). -/
def execTexp (a : TArgs) (s : State) : Host.Outcome State Fault Refusal := issueAlone (.texp a) .tm (opTexp a) s

/-- A block in its zero-mask form of `p` bytes, or none when it needs more (R246, R247). -/
def packBlock (p : Nat) (l : List Byte) : Option (List Byte) :=
  let mask := (l.zipIdx.map fun (b, i) => if b = 0 then 0 else 2 ^ i).sum
  let body := l.filter (· != 0)
  if p < 16 + body.length then none
  else some (natToBytes 16 mask ++ body ++ List.replicate (p - 16 - body.length) 0)
/-- The block that a zero-mask form stands for (R247). -/
def unpackGo : Nat → Nat → List Byte → List Byte
  | 0, _, _ => []
  | n + 1, mask, l =>
    if mask % 2 = 1 then l.headD 0 :: unpackGo n (mask / 2) l.tail else 0 :: unpackGo n (mask / 2) l
/-- Expand a block of `p` bytes (R247). -/
def unpackBlock (l : List Byte) : List Byte := unpackGo 128 (bytesToNat (l.take 16)) (l.drop 16)

/-- Ranges of consecutive virtual bytes from `va` on as segments, one after another from bit `b` on. -/
def chainSegs : Nat → Nat → List (Nat × Nat) → List Seg
  | _, _, [] => []
  | va, b, (pa, n) :: r => { pa := pa, va := va, n := n, bit := b, pte := 0 } :: chainSegs (va + n) (b + 8 * n) r
/-- `n` bytes at offset `o` of a tile's region as segments of a read. -/
def tileSegs (t : TileRef) (o n : Nat) : List Seg :=
  chainSegs (t.reg.base.toNat + o) 0 (runRanges t.frames (t.reg.base.toNat + o) n)
/-- The bytes of a tile's row as segments of a read. -/
def rowSegs (t : TileRef) (i : Nat) : List Seg := tileSegs t (i * t.reg.pitch) t.reg.rb

/-- The blocks of a tile in their zero-mask form of `p` bytes (R246, R247). -/
def packedBlocks (s : State) (c : Nat) (t : TileRef) (p : Nat) : List (Option (List Byte)) :=
  (List.range t.reg.rows).flatMap fun i => (List.range (rowBlocks t.reg)).map fun b =>
    packBlock p (natToBytes 128 ((issueRead s c (rowSegs t i)).1 / 2 ^ (1024 * b)))
/-- The moves that store packed blocks from `sa` on (R247). -/
def packedMoves (f : Frames) (sa : Nat) (l : List (Option (List Byte))) : List Move :=
  (l.flatMap fun b => b.getD []).zipIdx.map fun (b, i) =>
    { dst := framePa f (sa + i) * 8, src := 0, n := 8, lit := some b.toNat }

/-- `tcmp` (R247). -/
def opTcmp (a : TArgs) : OpFn := fun c s =>
  let r := (s.ctx c).arch
  let on := onT r a
  let nm := nameTile s c .tm on a.b .use
  let reads := reading a.pred [a.a]
  let t := nm.ref
  let sa := (readScalar r 0 a.a).toNat
  let p := 16 * a.imm.toNat
  let n := t.reg.rows * rowBlocks t.reg * p
  let main := checkTransfer s c .store 1 sa n
  let f : Frames := (framesOf [main]).flatten
  let early := trapIf (t.reg.defined && !blockTile t.reg) s c .tm .illenc ++ nm.traps
  if !nm.traps.isEmpty || (!on && t.frames.isEmpty) then { slot := .tm, reads := reads, traps := early, waits := nm.waits }
  else
    let blocks := packedBlocks s c t p
    let rows := (List.range t.reg.rows).flatMap (rowSegs t)
    let faults := issueFaults s c .tm rows
    -- the blocks are judged whatever the enable, where they can be read (R15; log 153)
    let judged := early ++ trapIf (faults.isEmpty && blocks.any (·.isNone)) s c .tm .illsched
    let waits := orWait nm.waits (issueReadWaits s c rows)
    let segs := segRanges (segsOf f sa n 0)
    if !on then { slot := .tm, reads := reads, traps := judged, waits := waits }
    else
    { slot := .tm, reads := reads
      traps := judged ++ trapIf (bytesAwaited s c segs) s c .tm .illsched ++
        accessTraps s c .tm .store [(sa, n)] ([main] ++ counterCheck s c r t.reg) ++ faults
      waits := orWait waits (reachWaits s c segs)
      entries := 1
      act := fun s =>
        let tr := newTransfer s c .store [t.tl] (piecesOf true (packedMoves f sa blocks)) (counterPa s c r t.reg)
          (pinsOf s c ((sa, n) :: counterRange r t.reg)) f.leaves
        withhold s c .tm (.tileStore tr t) tr.pins }
/-- `tcmp` (R247). -/
def execTcmp (a : TArgs) (s : State) : Host.Outcome State Fault Refusal := issueAlone (.tcmp a) .tm (opTcmp a) s

/-! ### The record-cache fence (R249) -/

/-- `tsrf` (R249).  R249 and R265 name no right that its page must grant: its line is checked as that of a load (log 185, DESIGN CHOICE). -/
def opTsrf (a : TArgs) : OpFn := fun c s =>
  let r := (s.ctx c).arch
  let reads := reading a.pred [a.a]
  let sa := (readScalar r 0 a.a).toNat
  if !onT r a then { slot := .tm, reads := reads }
  else
    let ck := checkUse s c .load 128 sa 128
    { slot := .tm, reads := reads, traps := accessTraps s c .tm .load [(sa, 128)] [ck], entries := 1
      act := fun s => withhold s c .tm (.tsrf (framePa (framesOf [ck]).flatten sa)) (pinsOf s c [(sa, 128)]) }
/-- `tsrf` (R249). -/
def execTsrf (a : TArgs) (s : State) : Host.Outcome State Fault Refusal := issueAlone (.tsrf a) .tm (opTsrf a) s

end Sys2Proof.Machine
end

