-- ==== Sys2Proof/Machine/Hallmark.lean ====
section
/-! DEFINITION. Hallmarked memory: names, the directory, counts, the release walker and the hallmark instructions (spec 16, R276 to
R282; 17, R284 to R300; 13, R225; 11, R203). -/
namespace Sys2Proof.Machine

/-! ### Names (R276, R284) -/

/-- A name. -/
abbrev Name := BitVec 128
/-- Kind of a name (R284). -/
def nameKind (x : Name) : Nat := (x.extractLsb' 124 4).toNat
/-- A name from kind, probe and digest bits. -/
def makeName (kind probe : Nat) (d : BitVec 120) : Name := BitVec.ofNat 4 kind ++ BitVec.ofNat 4 probe ++ d
/-- The digest bits of a line under a salt: bytes 0 to 14 of SHA-512 (R276). -/
def digestBits (line salt : List Byte) : BitVec 120 := BitVec.ofNat 120 (bytesToNat ((Sha.digest (line ++ salt)).take 15))
/-- The salt of a job (R285). -/
def saltOf (s : State) (j : Nat) : List Byte :=
  natToBytes 8 (s.job j).hmsalt0.toNat ++ natToBytes 8 (s.job j).hmsalt1.toNat
/-- HID of a job (R285). -/
def hidOf (s : State) (j : Nat) : Nat := ((s.job j).hmctl.extractLsb' 48 16).toNat
/-- EVLOCK of a job (R285). -/
def evlockOf (s : State) (j : Nat) : Nat := ((s.job j).hmctl.extractLsb' 32 16).toNat
/-- The job may use hallmark instructions (R285). -/
def hallmarksOn (s : State) (j : Nat) : Bool := (s.job j).hmctl.getLsbD 0 && (nha s).isSome
/-- Child `i` of a node's line (R276). -/
def childOf (line : List Byte) (i : Nat) : Name := BitVec.ofNat 128 (bytesToNat ((line.drop (16 * i)).take 16))

/-! ### The directory (R286 to R290) -/

/-- Home agent of a name (R288). -/
def homeAgent (s : State) (x : Name) : Nat := (x.extractLsb' 0 7).toNat % (nha s).getD 1
/-- Primary bucket of a name (R288). -/
def bucketOf (s : State) (x : Name) : Nat := (x.extractLsb' 7 20).toNat % buckets (s.heap (homeAgent s x))
/-- Physical address of bucket `b` of agent `a`; overflow buckets follow the primary ones (R288). -/
def bucketPa (s : State) (a b : Nat) : Nat := a * 2 ^ 45 + (s.heap a).dbase.toNat + 256 * b
/-- Physical address of heap line `i` of agent `a` (R286). -/
def heapLinePa (s : State) (a i : Nat) : Nat := a * 2 ^ 45 + (s.heap a).hbase.toNat + 128 * i
/-- HRDY of an agent (R286). -/
def heapReady (s : State) (a : Nat) : Bool := (s.heap a).word24.getLsbD 31

/-- The buckets of a chain, the primary first, with at most `n` more (R288). -/
def chainFrom (s : State) (a : Nat) : Nat → Nat → List Nat
  | 0, b => [b]
  | n + 1, b =>
    let link := s.readMem (bucketPa s a b) 8
    if link = 0 then [b] else b :: chainFrom s a n (buckets (s.heap a) + link - 1)
/-- The chain of a name's bucket. -/
def chainOf (s : State) (x : Name) : List Nat := chainFrom s (homeAgent s x) 3 (bucketOf s x)

/-- VALID of a bucket (R289). -/
def bucketValid (s : State) (a b : Nat) : Nat := s.readMem (bucketPa s a b + 8) 1
/-- Address of entry `j` of a bucket (R289). -/
def entryPa (s : State) (a b j : Nat) : Nat := bucketPa s a b + 64 + 24 * j

/-- A directory entry that has been found: place in the chain, bucket, way and heap line (R289, R300). -/
structure Found where
  agent : Nat
  link : Nat
  bucket : Nat
  way : Nat
  line : Nat

/-- The ways of a bucket that hold a name under a HID. -/
def waysOf (s : State) (a b hid : Nat) (x : Name) : List Nat :=
  (List.range 8).filter fun j =>
    (bucketValid s a b).testBit j && s.readMem (entryPa s a b j) 16 == x.toNat &&
    s.readMem (entryPa s a b j + 21) 2 == hid

/-- The entry of a name of a HID, if the name is present (R284). -/
def findName (s : State) (hid : Nat) (x : Name) : Option Found :=
  if 1 < nameKind x ∨ x = 0 then none
  else
    let a := homeAgent s x
    firstSome ((chainOf s x).zipIdx.map fun (b, i) => match waysOf s a b hid x with
      | j :: _ => some { agent := a, link := i, bucket := b, way := j, line := s.readMem (entryPa s a b j + 16) 5 }
      | [] => none)

/-- Physical line number of a present name's heap line. -/
def Found.heapLine (s : State) (f : Found) : Nat := heapLinePa s f.agent f.line / 128
/-- The count of a present name, kept in the line's tag (R225, R294). -/
def countOf (s : State) (f : Found) : Nat := (lineTag s (f.heapLine s)).toNat
/-- Set a count, which stands in the line's tag (R225). -/
def setCount (s : State) (f : Found) (n : Nat) : State := setTag (touch s (f.heapLine s)) (f.heapLine s) (BitVec.ofNat 16 n)
/-- Retain a present line: the count saturates (R294). -/
def retain (s : State) (f : Found) : State := setCount s f (Nat.min (countOf s f + 1) 0xFFFF)

/-- The buckets of a chain that a lookup compares: up to the one that holds the name (R288, R290). -/
def seenBuckets (s : State) (a hid : Nat) (x : Name) : List Nat → List Nat
  | [] => []
  | b :: r => if (waysOf s a b hid x).isEmpty then b :: seenBuckets s a hid x r else [b]
/-- The directory lines that a lookup of a name reads; names of other kinds are in no directory (R284, R288). -/
def lookLines (s : State) (hid : Nat) (x : Name) : List Nat :=
  if 1 < nameKind x ∨ x = 0 then []
  else
    let a := homeAgent s x
    (seenBuckets s a hid x (chainOf s x)).flatMap fun b => linesOf (bucketPa s a b) 256
/-- A hm step at a name's home on another module is one flit out and one flit back (R206, R305; log 148). -/
def homeFlits (s : State) (x : Name) : State :=
  if homeAgent s x / 4 = s.pos then s
  else countFabric (countFabric { s with fabricOut := s.fabricOut ++ [.hmStep (homeAgent s x) x] } evFabTx) evFabRx
/-- A lookup accesses the lines of the buckets that it compares (R263; log 166), at the name's home. -/
def look (s : State) (hid : Nat) (x : Name) : State :=
  let l := lookLines s hid x
  if l.isEmpty then s else touchLines (homeFlits s x) l
/-- A hm step writes a number of the directory (R263). -/
def dirWrite (s : State) (pa n x : Nat) : State := (touchLines s (linesOf pa n)).writeMem pa n x

/-- Bytes of a heap line. -/
def heapBytes (s : State) (f : Found) : List Byte := natToBytes 128 (s.readMem (heapLinePa s f.agent f.line) 128)

/-- The probe under which a line is stored, if it is (R290). -/
def lookupLine (s : State) (hid kind : Nat) (d : BitVec 120) (line : List Byte) : Option (Name × Found) :=
  firstSome ((List.range 16).map fun p =>
    let x := makeName kind p d
    match findName s hid x with
    | some f => if heapBytes s f == line then some (x, f) else none
    | none => none)

/-- The lowest set bit among `n` bits from physical byte address `pa` (R287). -/
def lowestSet (s : State) (pa : Nat) : Nat → Nat → Option Nat
  | 0, _ => none
  | n + 1, i => if Memory.getBit s.mem (pa * 8 + i) then some i else lowestSet s pa n (i + 1)
/-- Set bits among `n` bits (R287, R300). -/
def setBits (s : State) (pa : Nat) : Nat → Nat → Nat
  | 0, _ => 0
  | n + 1, i => (Memory.getBit s.mem (pa * 8 + i)).toNat + setBits s pa n (i + 1)
/-- Physical address of an agent's line map (R287). -/
def lineMapPa (s : State) (a : Nat) : Nat := bucketPa s a (buckets (s.heap a) + overflows (s.heap a))
/-- Physical address of an agent's overflow map (R287). -/
def overflowMapPa (s : State) (a : Nat) : Nat := lineMapPa s a + mapBytes (heapLines (s.heap a))
/-- Write one bit of a map. -/
def setMapBit (s : State) (pa i : Nat) (b : Bool) : State :=
  let s1 := touch s ((pa * 8 + i) / 1024)
  { s1 with mem := Memory.writeBits s1.mem (pa * 8 + i) 1 b.toNat }

/-- A free entry of a chain: link position, bucket, way (R290). -/
def freeEntry (s : State) (a : Nat) (chain : List Nat) : Option (Nat × Nat) :=
  firstSome (chain.map fun b =>
    match (List.range 8).filter fun j => !(bucketValid s a b).testBit j with
    | j :: _ => some (b, j)
    | [] => none)

/-- A place for a new entry, after linking an overflow bucket where that is needed, or none (R290). -/
def placeEntry (s : State) (a : Nat) (chain : List Nat) : Option ((Nat × Nat) × State) :=
  match freeEntry s a chain with
  | some w => some (w, s)
  | none =>
    if 3 < chain.length then none
    else match lowestSet s (overflowMapPa s a) (overflows (s.heap a)) 0 with
      | none => none
      | some o =>
        let s1 := setMapBit s (overflowMapPa s a) o false
        some ((buckets (s.heap a) + o, 0), dirWrite s1 (bucketPa s a (chain.getLastD 0)) 8 (o + 1))

/-- What stops an access of an hm step at a line: its home does not serve it, or its data, where they are read, are bad (R223, R273). -/
def badLine (s : State) (data : Bool) (line : Nat) : Option (Nat × TrapCode) :=
  if tagged s (line * 128) && tagFault s line then some (line, .mchk)
  else if data && s.homes.dataErr.contains line then some (line, .soft)
  else none

/-- Why a line is not stored. -/
inductive StoreStop where
  /-- The code of a fault name: 1 HMPROBE, 2 HMFULL (R284, R290). -/
  | failed (code : Nat)
  /-- A line that the hm step cannot use, and the trap that its entry raises (R223, R273, R301). -/
  | bad (line : Nat) (code : TrapCode)

/-- The lines of maps and new buckets that an allocation reads and writes: the line map up to bit `i`, and for an overflow bucket `b`
that it links, the overflow map up to its bit, and the bucket (R287, R290). -/
def takenLines (s : State) (a : Nat) (chain : List Nat) (b i : Nat) : List Nat :=
  linesOf (lineMapPa s a) (i / 8 + 1) ++
  (if chain.contains b then []
   else linesOf (overflowMapPa s a) ((b - buckets (s.heap a)) / 8 + 1) ++ linesOf (bucketPa s a b) 256)
/-- What an allocation meets at those lines, or at the heap line that it takes, whose old bytes it does not read (R223, R301). -/
def takenFault (s : State) (a : Nat) (chain : List Nat) (b i : Nat) : Option (Nat × TrapCode) :=
  firstSome ((takenLines s a chain b i).map (badLine s true) ++ [badLine s false (heapLinePa s a i / 128)])

/-- Allocate a line under its lowest free probe (R290). -/
def allocate (s : State) (hid kind : Nat) (d : BitVec 120) (line : List Byte) : Sum StoreStop (Name × State) :=
  match (List.range 16).find? fun p => (findName s hid (makeName kind p d)).isNone with
  | none => .inl (.failed 1)
  | some p =>
    let x := makeName kind p d
    let a := homeAgent s x
    match placeEntry s a (chainOf s x) with
    | none => .inl (.failed 2)
    | some ((b, j), s1) =>
      match lowestSet s1 (lineMapPa s1 a) (heapLines (s1.heap a)) 0 with
      | none => .inl (.failed 2)
      | some i => match takenFault s a (chainOf s x) b i with
      | some (l, code) => .inl (.bad l code)
      | none =>
        let s2 := setMapBit s1 (lineMapPa s1 a) i false
        let s3 := dirWrite s2 (heapLinePa s2 a i) 128 (bytesToNat line)
        let s4 := cleanLine (setTag s3 (heapLinePa s3 a i / 128) 1) (heapLinePa s3 a i / 128)
        let s5 := dirWrite s4 (entryPa s4 a b j) 24 (x.toNat + i * 2 ^ 128 + hid * 2 ^ 168)
        .inr (x, dirWrite s5 (bucketPa s5 a b + 8) 1 (bucketValid s5 a b ||| 2 ^ j))

/-- Unlink an overflow bucket that holds no entry (R287). -/
def unlinkEmpty (s : State) (a : Nat) : List Nat → State
  | p :: b :: r =>
    if bucketValid s a b = 0 then
      let s1 := dirWrite s (bucketPa s a p) 8 (s.readMem (bucketPa s a b) 8)
      setMapBit (dirWrite s1 (bucketPa s1 a b) 8 0) (overflowMapPa s1 a) (b - buckets (s.heap a)) true
    else unlinkEmpty s a (b :: r)
  | _ => s

/-- The entry of a name goes, and its line is free (R281, R287, R294). -/
def removeName (s : State) (x : Name) (f : Found) : State :=
  let s1 := setCount s f 0
  let s2 := dirWrite s1 (bucketPa s1 f.agent f.bucket + 8) 1 (bucketValid s1 f.agent f.bucket - 2 ^ f.way)
  let s3 := dirWrite s2 (entryPa s2 f.agent f.bucket f.way) 24 0
  unlinkEmpty (setMapBit s3 (lineMapPa s3 f.agent) f.line true) f.agent (chainOf s3 x)

/-! ### Event records (R294) -/

/-- Send an event record to the job's EVLOCK (R294). -/
def eventRecord (s : State) (j : Nat) (x : Name) (pc code place agent : Nat) : State :=
  sendMail s { locket := evlockOf s j, src := .unit j
               msg := BitVec.ofNat 256 (x.toNat + pc % 2 ^ 64 * 2 ^ 128 + code * 2 ^ 192 + place * 2 ^ 200 + agent * 2 ^ 208) }
/-- The event record of an entry of context `c`. -/
def entryEvent (s : State) (c : Nat) (e : Entry) (x : Name) (code : Nat) : State :=
  eventRecord s e.job x e.pc code (slotNo c * 128 + coreNo (coreOf c)) (agentOf s c)

/-! ### Drops (R281, R294, R295) -/

/-- The group of an entry: the drops that it causes (R295). -/
def groupOf (e : Entry) : Nat := e.life * 2 ^ 40 + e.seq

/-- Children that a freed node gives to the walker, slot 0 first (R281). -/
def nodeChildren (line : List Byte) : List Name := ((List.range 8).map (childOf line)).filter (· != 0)

/-- A move with the bits that it reads taken now. -/
def takeMove (m : List Host.Cell) (x : Move) : Move := match x.lit with
  | some _ => x
  | none => { x with lit := some (Memory.readBits m x.src x.n) }
/-- Moves with what they read taken now. -/
def takeMoves (m : List Host.Cell) (l : List Move) : List Move := l.map (takeMove m)
/-- The `hmget` transfers of a line that is freed keep its bytes: the retain of an `hmget`, which nothing else sees (R292).  Bad data are not
kept, and the piece meets them (R273). -/
def keepForTransfers (s : State) (line : Nat) : State :=
  { s with transfers := s.transfers.map fun t => match t.kind with
    | .hmget l => if l = line && !s.homes.dataErr.contains line then { t with pieces := t.pieces.map fun p => { p with moves := takeMoves s.mem p.moves } } else t
    | _ => t }

/-- No agent holds a copy of a line (R225). -/
def dropCopies (s : State) (line : Nat) : State := (liveAgents s).foldl (fun s a => dropAt s a line) s
/-- A name whose count has reached 0 leaves the directory; every cached copy of its line is gone, also one that was read since its Ack, the
line is free, and its children go to the walker (R225, R281, R294). -/
def freeName (s : State) (j group : Nat) (x : Name) (f : Found) : State :=
  let kids := if nameKind x = 1 then nodeChildren (heapBytes s f) else []
  let line := f.heapLine s
  let s1 := removeName (dropCopies (keepForTransfers s line) line) x f
  s1.modHall fun h => { h with walker := h.walker ++ kids.map fun k => (group, j, k) }
/-- One drop of a name, with what an absent name does (R281, R294). -/
def dropName (s : State) (hid j group : Nat) (x : Name) (absent : State → State) : State :=
  if x = 0 ∨ nameKind x = 15 then s
  else
    let s1 := look s hid x
    match findName s hid x with
    | none => absent s1
    | some f =>
      let n := countOf s f
      if n = 0xFFFF then s1 else if 1 < n then setCount s1 f (n - 1) else freeName s1 j group x f
/-- The names whose counts the drops of a list bring to 0 (R294). -/
def freedBy (s : State) (hid : Nat) (l : List Name) : List Name := l.eraseDups.filter fun x => match findName s hid x with
  | some f => countOf s f != 0xFFFF && decide (countOf s f ≤ l.count x)
  | none => false
/-- The home sends an Inv for every line that a step will free, and the step waits for the Acks (R225). -/
def sendInvs (s : State) (hid j group : Nat) (l : List Name) : State :=
  (l.foldl (fun s x => match findName s hid x with
    | some f => sendInv s (f.heapLine s)
    | none => s) s).modHall fun h => { h with freeing := l.map fun x => (x, group, j) }

/-- What a name's hm step meets in the directory and at the name's heap line, whose bytes it reads or not: MCHK or SOFT, and the line
(R223, R273, R301). -/
def nameFault (s : State) (hid : Nat) (data : Bool) (x : Name) : Option (Nat × TrapCode) :=
  if x = 0 ∨ 1 < nameKind x then none
  else if s.homes.lost.contains (homeAgent s x) then some (bucketPa s (homeAgent s x) (bucketOf s x) / 128, .mchk)
  else match firstSome ((lookLines s hid x).map (badLine s true)) with
    | some e => some e
    | none => match findName s hid x with
      | some f => badLine s data (f.heapLine s)
      | none => none
/-- The lines of the free maps in which freeing names sets bits: those of their heap lines, and of overflow buckets that are empty then
(R287, R294). -/
def freedLines (s : State) (hid : Nat) (l : List Name) : List Nat :=
  let found := l.filterMap (findName s hid)
  found.flatMap fun f =>
    let emptied := (List.range 8).all fun j => !(bucketValid s f.agent f.bucket).testBit j ||
      found.any fun g => g.agent == f.agent && g.bucket == f.bucket && g.way == j
    (lineMapPa s f.agent * 8 + f.line) / 1024 ::
      (if buckets (s.heap f.agent) ≤ f.bucket ∧ emptied then
        [(overflowMapPa s f.agent * 8 + (f.bucket - buckets (s.heap f.agent))) / 1024]
       else [])
/-- What the drops of a list of names meet: at the names, whose bytes are read where a node is freed, and at the maps (R223, R273, R301). -/
def dropFault (s : State) (hid : Nat) (l : List Name) : Option (Nat × TrapCode) :=
  let out := freedBy s hid l
  match firstSome (l.map fun x => nameFault s hid (nameKind x == 1 && out.contains x) x) with
  | some e => some e
  | none => firstSome ((freedLines s hid out).map (badLine s true))
/-- An access of the release walker meets a bad line, and no context waits for it (R223, R273, R301, R393; log 173). -/
def logBad (s : State) (e : Nat × TrapCode) : State := logNoContext s e.1 0
/-- A name's home is ready for an hm step; a name that no directory can hold needs none (R287). -/
def nameReady (s : State) (x : Name) : Bool := x == 0 || decide (1 < nameKind x) || heapReady s (homeAgent s x)

/-- The first child that the walker of job `j` holds, and the others.  R295 orders a walker's drops with nothing: the oldest child of a job
goes first (log 163, DESIGN CHOICE). -/
def takeChild (j : Nat) : List (Nat × Nat × Name) → Option ((Nat × Name) × List (Nat × Nat × Name))
  | [] => none
  | (g, k, x) :: r =>
    if k = j then some ((g, x), r)
    else match takeChild j r with
      | none => none
      | some (y, rest) => some (y, (g, k, x) :: rest)

/-- RELEASE_WALKER_DROP (R295): the walker of a job drops one child by one hm step; a line that its home does not serve is reported, for
no context waits for it (R223, R301). -/
def execReleaseWalkerDrop (job : Nat) (s : State) : Host.Outcome State Fault Refusal :=
  .next (match takeChild job s.hall.walker with
    | none => s
    | some ((g, x), rest) =>
      if !s.hall.freeing.isEmpty || !nameReady s x then s
      else
        let s1 := s.modHall fun h => { h with walker := rest }
        let freed := !(freedBy s (hidOf s job) [x]).isEmpty
        match dropFault s (hidOf s job) [x] with
        | some e => logBad s1 e
        | none =>
          if freed then sendInvs s1 (hidOf s job) job g [x]
          else dropName s1 (hidOf s job) job g x fun s => eventRecord s job x 0 1 0 0)

/-- A group of a job whose entry and drops have all performed (R295). -/
def doneGroup (h : Hallmarks) (job : Nat) : Option Nat :=
  firstSome (h.groups.map fun (g, j, entryDone) =>
    if j == job && entryDone && !h.walker.any (fun (k, _, _) => k == g) && !h.freeing.any (fun (_, k, _) => k == g)
    then some g else none)

/-- WALKER_COUNTER_ADD (R295): one step of the job's walker counter, for a group that is finished. -/
def execWalkerCounterAdd (job : Nat) (s : State) : Host.Outcome State Fault Refusal :=
  .next (match doneGroup s.hall job with
    | none => s
    | some g =>
      let s1 := s.modHall fun h => { h with groups := h.groups.filter fun (k, _, _) => k != g }
      let va := (s.job job).hmwcnt.toNat / 8 * 8
      if va = 0 then s1
      else if vWritable s1 job va then vAtomStep s1 job va 8 fun x => (x + 1) % 2 ^ 64
      else logFault s1 { kind := 0x11, first := va, job := job, vf := (s1.job job).vf })

/-- Note an entry's group, or that the entry itself has performed (R295). -/
def markGroup (s : State) (g j : Nat) (entryDone : Bool) : State :=
  s.modHall fun h => { h with groups := h.groups.filter (fun (k, _, _) => k != g) ++ [(g, j, entryDone)] }

/-! ### Mutations (R278, R279, R281, R282, R290 to R292, R298) -/

/-- The 16-byte name in a row of a tile. -/
def nameRow (s : State) (t : TileRef) (r : Nat) : Name := BitVec.ofNat 128 (bytesToNat (t.rowBytes s r 0 16))
/-- Write a name into a row of a tile. -/
def setNameRow (s : State) (t : TileRef) (r : Nat) (x : Name) : State := t.setRow s r 0 (natToBytes 16 x.toNat)

/-- The fault name of a failure (R284). -/
def faultName (code : Nat) (d : BitVec 120) : Name := makeName 15 code d
/-- The trap of a fault name's code (R284). -/
def faultCode (code : Nat) : TrapCode := match code with
  | 1 => .hmprobe
  | 2 => .hmfull
  | _ => .xlate

/-- The deferred trap of an entry (R291). -/
def hmTrap (s : State) (c : Nat) (e : Entry) (code : TrapCode) (row : Nat) : State :=
  deferTrap s c e { Cause.plain code (some .tm) e.pc 0 0 with row := row, deferred := true }

/-- The names that a lookup of a line compares, up to the hit (R290). -/
def storedProbes (s : State) (hid kind : Nat) (d : BitVec 120) (line : List Byte) : List Name :=
  let l := (List.range 16).map fun p => makeName kind p d
  match lookupLine s hid kind d line with
  | some (x, _) => l.takeWhile (· != x) ++ [x]
  | none => l
/-- A lookup of a line accesses the directory lines of a name, and the heap line whose bytes it compares (R290; log 166). -/
def compare (s : State) (hid : Nat) (x : Name) : State := match findName s hid x with
  | some f => touch (look s hid x) (f.heapLine s)
  | none => look s hid x
/-- Store one line of kind `kind` (R278, R279): the result name, the code of a failure, and the state; or a line that stops the step. -/
def storeLine (s : State) (hid kind : Nat) (salt line : List Byte) (fresh : State → State) :
    Sum (Nat × TrapCode) (Name × Option Nat × State) :=
  if line.all (· == 0) then .inr (0, none, s)
  else
    let d := digestBits line salt
    let s0 := (storedProbes s hid kind d line).foldl (fun s x => compare s hid x) s
    match lookupLine s hid kind d line with
    | some (x, f) => .inr (x, none, retain s0 f)
    | none => match allocate s0 hid kind d line with
      | .inl (.failed code) => .inr (faultName code d, some code, s0)
      | .inl (.bad l code) => .inl (l, code)
      | .inr (x, s1) => .inr (x, none, fresh s1)

/-- `hmput` performs, row by row; the first failure is kept (R278, R291).  A line that it cannot use stops it (R301). -/
def putRows (c : Nat) (e : Entry) (names lines : TileRef) (row : Nat) :
    Nat → Nat → Option (Nat × Nat) → State → Sum (Nat × TrapCode) State
  | 0, _, fail, s => match fail with
    | some (code, r) => .inr (hmTrap s c e (faultCode code) r)
    | none => .inr s
  | n + 1, i, fail, s =>
    let line := lines.rowBytes s i 0 128
    match storeLine s (hidOf s e.job) 0 (saltOf s e.job) line id with
    | .inl bad => .inl bad
    | .inr (x, f, s1) =>
      let fail1 := match fail, f with
        | none, some code => some (code, row + i)
        | o, _ => o
      putRows c e names lines row n (i + 1) fail1 (setNameRow s1 names (row + i) x)

/-- A new node retains its children; an absent child gains nothing (R279, R292). -/
def retainChildren (c : Nat) (e : Entry) : List Name → State → State
  | [], s => s
  | x :: r, s =>
    retainChildren c e r (match findName s (hidOf s e.job) x with
      | some f => retain (look s (hidOf s e.job) x) f
      | none => entryEvent (look s (hidOf s e.job) x) c e x 2)

/-- `hmnode` performs (R279, R292).  A line that it cannot use stops it (R301). -/
def putNode (s : State) (c : Nat) (e : Entry) (names line : TileRef) (row : Nat) : Sum (Nat × TrapCode) State :=
  let q := line.rowBytes s 0 0 128
  let kids := if q.all (· == 0) then [] else nodeChildren q
  match kids.find? fun x => nameKind x == 15 with
  | some x => .inr (setNameRow s names row x)
  | none => match storeLine s (hidOf s e.job) 1 (saltOf s e.job) q (retainChildren c e kids) with
    | .inl bad => .inl bad
    | .inr (x, f, s1) =>
      let s2 := setNameRow s1 names row x
      match f with
      | some code => .inr (hmTrap s2 c e (faultCode code) row)
      | none => .inr s2

/-- `hmhold` performs (R298). -/
def holdRows (c : Nat) (e : Entry) (names : TileRef) : Nat → Nat → State → State
  | 0, _, s => s
  | n + 1, r, s =>
    let x := nameRow s names r
    holdRows c e names n (r + 1) (
      if x = 0 ∨ nameKind x = 15 then s
      else match findName s (hidOf s e.job) x with
        | some f => retain (look s (hidOf s e.job) x) f
        | none => entryEvent (look s (hidOf s e.job) x) c e x 2)

/-- The names of `n` rows from row `r` on. -/
def nameRows (s : State) (names : TileRef) (r n : Nat) : List Name := (List.range n).map fun i => nameRow s names (r + i)
/-- `hmdrop` performs on a list of names (R281). -/
def dropNames (c : Nat) (e : Entry) : List Name → State → State
  | [], s => s
  | x :: l, s => dropNames c e l (dropName s (hidOf s e.job) e.job (groupOf e) x fun s => entryEvent s c e x 1)
/-- The head `hmdrop` performs, all its rows in one hm step (R281, R294). -/
def performDrop (s : State) (c : Nat) (e : Entry) (l : List Name) : State :=
  markGroup (dropNames c e l (popHead s c)) (groupOf e) e.job true

/-- The head entry of a queue is the `hmdrop` of a group: its context, the entry and its names. -/
def waitingDrop (s : State) (group : Nat) : Option (Nat × Entry × List Name) :=
  firstSome (s.ctxs.map fun (c, x) => match x.storeQ.head? with
    | some e => match e.act with
      | .hmdrop names r n => if groupOf e = group then some (c, e, nameRows s names r n) else none
      | _ => none
    | none => none)
/-- The copy whose root's drop waits for Acks (R299). -/
def waitingCopy (s : State) (group : Nat) : Option Transfer := s.transfers.find? fun t => match t.kind with
  | .hmcopy _ g => g == group && t.pieces.isEmpty
  | _ => false
/-- A copy ends once the drop of its root has performed (R295, R299). -/
def endCopy (s : State) (t : Transfer) (group : Nat) : State := markGroup (finishTransfer s t) group t.job true
/-- HEAP_LINE_FREE (R225, R294): every Ack for the oldest of the lines has arrived.  After the last of a step's lines the step performs,
and its lines and probes are free. -/
def execHeapLineFree (s : State) : Host.Outcome State Fault Refusal :=
  .next (match s.hall.freeing with
    | [] => s
    | (x, group, j) :: r =>
      let s1 := s.modHall fun h => { h with freeing := r }
      let s2 := match findName s (hidOf s j) x with
        | some f => takeInv s1 (f.heapLine s)
        | none => s1
      if !r.isEmpty then s2
      else match waitingDrop s group with
        | some (c, e, l) => performDrop s2 c e l
        | none =>
          let s3 := dropName s2 (hidOf s j) j group x id
          match waitingCopy s group with
          | some t => endCopy s3 t group
          | none => s3)

/-- `hmswap` performs: one atom step on the cell (R214, R282, R292). -/
def swapCell (s : State) (c : Nat) (e : Entry) (values : TileRef) (pa : Nat) (pte : W64) (uid : Option Nat) : State :=
  let s1 := markWaiters (pushFor s c e.life)
  let want := (nameRow s1 values 0).toNat
  let new := nameRow s1 values 1
  let hit (old : Nat) : Bool := old == want && nameKind new != 15
  let (old, s2) := atomStep s1 (coreOf c) pa 16 pte fun old => if hit old then new.toNat else old
  let s3 := setNameRow s2 values 0 (BitVec.ofNat 128 old)
  match uid with
  | some u => deliverValue s3 u (hit old).toNat
  | none => s3
/-- The line at which an `hmswap` cannot perform, and why (R223, R273): its cell's, or one that it has to push. -/
def swapFault (s : State) (c pa : Nat) (pte : W64) (reads : List Nat) : Option (Nat × TrapCode) :=
  match reads.find? s.homes.dataErr.contains with
  | some l => some (l, .soft)
  | none =>
  if refused s (agentOf s c) pa pte true then some (pa / 128, .mchk)
  else if dataFault s (coreOf c) pa 16 pte then some (pa / 128, .soft)
  else (badPush s (coreOf c) (l1Lines s (coreOf c))).map fun l => (l, .mchk)

/-- The names that storing a line compares: none for the line of zeros (R278, R279, R290). -/
def lineNames (s : State) (e : Entry) (kind : Nat) (line : List Byte) : List Name :=
  if line.all (· == 0) then []
  else storedProbes s (hidOf s e.job) kind (digestBits line (saltOf s e.job)) line
/-- The children that a new node retains; where the node is present, its count alone goes up (R279). -/
def freshChildren (s : State) (e : Entry) (q : List Byte) : List Name :=
  if (lookupLine s (hidOf s e.job) 1 (digestBits q (saltOf s e.job)) q).isSome then [] else nodeChildren q
/-- The names whose homes an entry needs, each with whether the bytes of its heap line are read (R287, R288, R301). -/
def entryNames (s : State) (e : Entry) : List (Bool × Name) := match e.act with
  | .hmput _ lines _ n => ((List.range n).flatMap fun i => lineNames s e 0 (lines.rowBytes s i 0 128)).map (true, ·)
  | .hmnode _ line _ =>
    let q := line.rowBytes s 0 0 128
    if (nodeChildren q).any fun x => nameKind x == 15 then []
    else (lineNames s e 1 q).map (true, ·) ++ (freshChildren s e q).map (false, ·)
  | .hmhold names r n => (nameRows s names r n).map (false, ·)
  | .hmdrop names r n => (nameRows s names r n).map (false, ·)
  | .hmcopy names r .. => [(false, nameRow s names r)]
  | _ => []
/-- The lines of the scratchpad rows that an hm step reads (R273). -/
def entryReads (e : Entry) : List Nat :=
  let rows (t : TileRef) (r n k : Nat) := (List.range n).flatMap fun i => t.rowLines (r + i) k
  match e.act with
  | .hmput _ lines _ n => rows lines 0 n 128
  | .hmnode _ line _ => rows line 0 1 128
  | .hmhold names r n => rows names r n 16
  | .hmdrop names r n => rows names r n 16
  | .hmcopy names r .. => rows names r 1 16
  | .hmswap values .. => rows values 0 2 16
  | _ => []
/-- The homes of an entry's names are ready (R287). -/
def homesReady (s : State) (e : Entry) : Bool := (entryNames s e).all fun x => nameReady s x.2
/-- What an entry meets: bad data in the rows that it reads, or a name's lost home, faulty tag or bad data (R223, R273, R301). -/
def entryFault (s : State) (e : Entry) : Option (Nat × TrapCode) :=
  match (entryReads e).find? s.homes.dataErr.contains with
  | some l => some (l, .soft)
  | none => match firstSome ((entryNames s e).map fun (d, x) => nameFault s (hidOf s e.job) d x), e.act with
    | some x, _ => some x
    | none, .hmdrop names r n => dropFault s (hidOf s e.job) (nameRows s names r n)
    | none, _ => none
/-- The tile registers that an hm entry names (R277). -/
def hmNamed : Act → List TileRef
  | .hmput names lines _ _ => [names, lines]
  | .hmnode names line _ => [names, line]
  | .hmhold names _ _ => [names]
  | .hmdrop names _ _ => [names]
  | .hmswap values _ _ _ => [values]
  | .hmcopy names .. => [names]
  | _ => []
/-- An earlier mutation of the entry's bead stands in another slot's queue, which the bead has left, and writes a register that the entry
names, or its bytes: the entry comes behind it (R197, R277). -/
def behindWriter (s : State) (c : Nat) (e : Entry) : Bool := s.ctxs.any fun (d, x) => d != c && x.storeQ.any fun w =>
  w.life == e.life && decide (w.seq < e.seq) && (hmNamed e.act).any fun t => awaits t.tl w || willWrite t.ranges [w]
/-- What holds the head hm entry back: Acks that another hm step waits for (R225), a home that is not ready (R287), a `phase` of the other
context (R250), or an earlier writer in another slot (R277). -/
def hmWaits (s : State) (c : Nat) (e : Entry) : Bool :=
  !s.hall.freeing.isEmpty || !homesReady s e || phaseHolds s c || behindWriter s c e

/-- HM (R206, R214): the head hallmark mutation performs at the home of its bucket chain.  An `hmdrop` that brings a count to 0 waits at
the head until the Acks for the lines that it frees have arrived (R225). -/
def execHm (c : Nat) (s : State) : Host.Outcome State Fault Refusal :=
  .next (match headEntry s c with
    | none => s
    | some e =>
      if hmWaits s c e then s
      else
        let bad (x : Nat × TrapCode) : State := lineTrap (popHead s c) c x.1 e x.2
        let go (f : State → State) : State := match entryFault s e with
          | some x => bad x
          | none => f ((entryReads e).foldl findErrors s)
        match e.act with
        | .hmput names lines row n => go fun s => (putRows c e names lines row n 0 none (popHead s c)).elim bad id
        | .hmnode names line row => go fun s => (putNode (popHead s c) c e names line row).elim bad id
        | .hmhold names row n => go fun s => holdRows c e names n row (popHead s c)
        | .hmdrop names row n => go fun s =>
          let l := nameRows s names row n
          let out := freedBy s (hidOf s e.job) l
          if out.isEmpty then performDrop s c e l
          else sendInvs (markGroup s (groupOf e) e.job false) (hidOf s e.job) e.job (groupOf e) out
        | .hmswap values pa uid pte => match swapFault s c pa pte (entryReads e) with
          | some (line, code) => failEntry (popHead s c) c line e uid.toList code
          | none => swapCell (popHead ((entryReads e).foldl findErrors s) c) c e values pa pte uid
        | _ => s)

/-! ### Issue (R277 to R282, R298 to R300) -/

/-- A row operand (R278). -/
def rowOf (r : Arch) (q : Port) : Nat := (readScalar r 0 q).toNat
/-- n of `hmput`, `hmhold` and `hmdrop` (R278). -/
def countT (a : TArgs) : Nat := (a.imm.extractLsb' 0 4).toNat + 1

/-- What all hallmark operations check (R277, R285): named registers with the row sizes they need, row ranges. -/
structure HmCheck where
  traps : List Cause
  waits : Option FreezeCause

/-- The checks of the tile registers of a hallmark operation: port, role, row size, first row and number of rows. -/
def hmTiles (s : State) (c : Nat) (on : Bool) (l : List (Port × Role × Nat × Nat × Nat)) : HmCheck :=
  let names := l.map fun (q, role, rb, r, n) => (nameTile s c .tm on q role, rb, r, n)
  { waits := firstSome (names.map fun (x, _) => x.waits)
    traps :=
      (names.flatMap fun (x, rb, _, _) => trapIf (x.ref.reg.defined && x.ref.reg.rb != rb) s c .tm .illenc) ++
      (names.flatMap fun (x, _, r, n) => x.traps ++
        trapIf (x.ref.reg.defined && decide (x.ref.reg.rows < r + n)) s c .tm .illsched) ++
      trapIf (on && !hallmarksOn s (jobOf s c)) s c .tm .perm }

/-- The tile register of a port, with its frames. -/
def tileRef (s : State) (c : Nat) (q : Port) : TileRef := (nameTile s c .tm true q .mutation).ref

/-- A withheld hallmark mutation (R277). -/
def hmMutation (a : TArgs) (reads : List Nat) (l : List (Port × Role × Nat × Nat × Nat)) (f : State → Act) : OpFn :=
  fun c s =>
    let on := onT (s.ctx c).arch a
    let k := hmTiles s c on l
    if !on then { slot := .tm, reads := reads, traps := k.traps, waits := k.waits }
    else
      { slot := .tm, reads := reads, traps := k.traps, waits := k.waits, entries := 1
        act := fun s => withhold s c .tm (f s) }

/-- `hmput` (R278). -/
def opHmput (a : TArgs) : OpFn := fun c s =>
  let r := rowOf (s.ctx c).arch a.b
  hmMutation a (reading a.pred [a.b]) [(a.dst, .mutation, 16, r, countT a), (a.a, .mutation, 128, 0, countT a)]
    (fun s => .hmput (tileRef s c a.dst) (tileRef s c a.a) r (countT a)) c s
/-- `hmput` (R278). -/
def execHmput (a : TArgs) (s : State) : Host.Outcome State Fault Refusal := issueAlone (.hmput a) .tm (opHmput a) s

/-- `hmnode` (R279). -/
def opHmnode (a : TArgs) : OpFn := fun c s =>
  let r := rowOf (s.ctx c).arch a.b
  hmMutation a (reading a.pred [a.b]) [(a.dst, .mutation, 16, r, 1), (a.a, .mutation, 128, 0, 1)]
    (fun s => .hmnode (tileRef s c a.dst) (tileRef s c a.a) r) c s
/-- `hmnode` (R279). -/
def execHmnode (a : TArgs) (s : State) : Host.Outcome State Fault Refusal := issueAlone (.hmnode a) .tm (opHmnode a) s

/-- `hmhold` (R298). -/
def opHmhold (a : TArgs) : OpFn := fun c s =>
  let r := rowOf (s.ctx c).arch a.b
  hmMutation a (reading a.pred [a.b]) [(a.a, .mutation, 16, r, countT a)]
    (fun s => .hmhold (tileRef s c a.a) r (countT a)) c s
/-- `hmhold` (R298). -/
def execHmhold (a : TArgs) (s : State) : Host.Outcome State Fault Refusal := issueAlone (.hmhold a) .tm (opHmhold a) s

/-- `hmdrop` (R281). -/
def opHmdrop (a : TArgs) : OpFn := fun c s =>
  let r := rowOf (s.ctx c).arch a.b
  hmMutation a (reading a.pred [a.b]) [(a.a, .mutation, 16, r, countT a)]
    (fun s => .hmdrop (tileRef s c a.a) r (countT a)) c s
/-- `hmdrop` (R281). -/
def execHmdrop (a : TArgs) (s : State) : Host.Outcome State Fault Refusal := issueAlone (.hmdrop a) .tm (opHmdrop a) s

/-- Arrival distance of a T64 operation. -/
def distT (a : TArgs) : Nat := arrivalD (a.imm.extractLsb' 0 8)

/-- `hmswap` (R282). -/
def opHmswap (a : TArgs) : OpFn := fun c s =>
  let r := (s.ctx c).arch
  let on := onT r a
  let k := hmTiles s c on [(a.a, .mutation, 16, 0, 2)]
  let reads := reading a.pred [a.b]
  let va := (readScalar r 0 a.b).toNat
  let d := distT a
  if !on then
    { slot := .tm, reads := reads, traps := k.traps ++ trapIf (tooNear s c d [(va, 16)]) s c .tm .illsched, waits := k.waits }
  else
    -- no AtomicOp swaps 16 bytes, so a cell in host memory is refused (R209)
    let ck := checkAtomic s c 16 va .swap
    let f : Frames := (framesOf [ck]).flatten
    let dests := (destOf a.dst).toList
    { slot := .tm, reads := reads, waits := k.waits, entries := 1
      traps := k.traps ++ trapIf (tooNear s c d [(va, 16)]) s c .tm .illsched ++
        accessTraps s c .tm .atomic [(va, 16)] [ck]
      loads := dests.map fun x => (x, d)
      act := fun s =>
        let (us, s1) := startWithheld c .tm d dests s
        withhold s1 c .tm (.hmswap (tileRef s c a.a) (framePa f va) us.head? (frameLeaf f va)) (pinsOf s c [(va, 16)]) }
/-- `hmswap` (R282). -/
def execHmswap (a : TArgs) (s : State) : Host.Outcome State Fault Refusal := issueAlone (.hmswap a) .tm (opHmswap a) s

/-- `hmcopy` (R299). -/
def opHmcopy (a : TArgs) : OpFn := fun c s =>
  let r := (s.ctx c).arch
  let on := onT r a
  let row := (a.imm.extractLsb' 3 13).toNat
  let depth := (a.imm.extractLsb' 0 3).toNat
  let k := hmTiles s c on [(a.a, .use, 16, row, 1)]
  let reads := reading a.pred [a.b]
  if !on then { slot := .tm, reads := reads, traps := k.traps, waits := k.waits }
  else
    let va := (readScalar r 0 a.b).toNat
    let n := 128 * 8 ^ depth
    let ck := checkTransfer s c .store 128 va n
    let f : Frames := (framesOf [ck]).flatten
    let t := (nameTile s c .tm true a.a .mutation).ref
    let segs := segRanges (segsOf f va n 0)
    { slot := .tm, reads := reads, waits := orWait k.waits (reachWaits s c segs), entries := 1
      traps := k.traps ++ trapIf (bytesAwaited s c segs) s c .tm .illsched ++ accessTraps s c .tm .store [(va, n)] ([ck] ++ counterCheck s c r t.reg)
      act := fun s =>
        let tr := newTransfer s c (.hmcopy 0 0) [t.tl] [] (counterPa s c r t.reg)
          (pinsOf s c ((va, n) :: counterRange r t.reg)) f.leaves
        withhold s c .tm (.hmcopy t row depth f.plain va tr) tr.pins }
/-- `hmcopy` (R299). -/
def execHmcopy (a : TArgs) (s : State) : Host.Outcome State Fault Refusal := issueAlone (.hmcopy a) .tm (opHmcopy a) s

/-- `hmget` (R280, R292): a trap names the failing row (R340), and another module's heap line needs the fabric right (R379). -/
def opHmget (a : TArgs) : OpFn := fun c s =>
  let r := (s.ctx c).arch
  let on := onT r a
  let row := rowOf r a.b
  let k := hmTiles s c on [(a.dst, .load, 128, 0, 1), (a.a, .use, 16, row, 1)]
  let reads := reading a.pred [a.b]
  if !on || !k.traps.isEmpty then { slot := .tm, reads := reads, traps := k.traps, waits := k.waits }
  else
    let d := tileRef s c a.dst
    let src := tileRef s c a.a
    let segs := tileSegs src (row * src.reg.pitch) 16
    let x : Name := BitVec.ofNat 128 (issueRead s c segs).1
    let found := findName s (hidOf s (jobOf s c)) x
    let answer := if nameReady s x then none else some FreezeCause.lateData
    let fail (code : TrapCode) : List Cause := [{ causeAt s c .tm code 0 with row := row }]
    let foreign := match found with
      | some f => needsFabric s c (heapLinePa s f.agent f.line)
      | none => false
    let trap :=
      if x = 0 then []
      else if nameKind x = 15 then fail (faultCode (x.extractLsb' 120 4).toNat)
      else match nameFault s (hidOf s (jobOf s c)) false x with
        | some (line, code) => [{ causeAt s c .tm code 0 with log := s.mgmt.flogN, line := some line }]
        | none => if found.isNone then fail .xlate else trapIf foreign s c .tm .perm
    let dst (o : Nat) : Nat := d.pa o * 8
    { slot := .tm, reads := reads
      traps := issueFaults s c .tm segs ++ trap ++ accessTraps s c .tm .atomic (counterRange r d.reg) (counterCheck s c r d.reg)
      waits := orWait k.waits (orWait (issueReadWaits s c segs) answer)
      act := fun s =>
        let s1 := look (issueRead s c segs).2 (hidOf s (jobOf s c)) x
        let (kind, moves) : TransferKind × List Move := match found with
          | some f =>
            let pa := heapLinePa s f.agent f.line
            (.hmget (pa / 128), (List.range 8).map fun i => { dst := dst (16 * i), src := (pa + 16 * i) * 8, n := 128, lit := none })
          | none => (.load, (List.range 8).map fun i => { dst := dst (16 * i), src := dst (16 * i), n := 128, lit := some 0 })
        startTransfer s1 (newTransfer s1 c kind [d.tl] (piecesOf false moves) (counterPa s c r d.reg)
          (pinsOf s c (counterRange r d.reg)) []) }
/-- `hmget` (R280, R292). -/
def execHmget (a : TArgs) (s : State) : Host.Outcome State Fault Refusal := issueAlone (.hmget a) .tm (opHmget a) s

/-- An `hmstat` that has been checked (R203, R300). -/
def hmstatOp (a : TArgs) (reads : List Nat) (traps : List Cause) (waits : Option FreezeCause) (what : State → ReadWhat)
    (before : State → State) : OpFn := fun c s =>
  let dests := (destOf a.dst).toList.map fun x => (x, BitVec.allOnes 1024)
  if !onT (s.ctx c).arch a then { slot := .tm, reads := reads, traps := traps, waits := waits }
  else
    { slot := .tm, reads := reads, traps := traps, waits := waits
      loads := dests.map fun (x, _) => (x, distT a)
      act := fun s => startRead c .tm (distT a) dests (what s) (before s) }

/-- `hmstat` form 0 (R300). -/
def opHmstatDirectory (a : TArgs) : OpFn := fun c s =>
  let r := (s.ctx c).arch
  let on := onT r a
  let row := rowOf r a.b
  let k := hmTiles s c on [(a.a, .use, 16, row, 1)]
  let t := tileRef s c a.a
  let segs := tileSegs t (row * t.reg.pitch) 16
  hmstatOp a (reading a.pred [a.b]) (trapIf (decide (distT a < 10)) s c .tm .illsched ++ k.traps ++
      if on && k.traps.isEmpty then issueFaults s c .tm segs else [])
    (orWait k.waits (if on && k.traps.isEmpty then issueReadWaits s c segs else none))
    (fun s => .directory (BitVec.ofNat 128 (issueRead s c segs).1) (hidOf s (jobOf s c)))
    (fun s => (issueRead s c segs).2) c s
/-- `hmstat` form 0 (R300). -/
def execHmstatDirectory (a : TArgs) (s : State) : Host.Outcome State Fault Refusal :=
  issueAlone (.hmstatDirectory a) .tm (opHmstatDirectory a) s

/-- `hmstat` form 1 (R203). -/
def opHmstatLineTag (a : TArgs) : OpFn := fun c s =>
  let r := (s.ctx c).arch
  let on := onT r a
  let va := (readScalar r 0 a.a).toNat
  let ck := checkUse s c .load 1 va 1
  hmstatOp a (reading a.pred [a.a])
    (trapIf (tooNear s c (distT a) [(va, 1)]) s c .tm .illsched ++
      if on then accessTraps s c .tm .load [(va, 1)] [ck] else []) none (fun _ => .lineTag (framePa (framesOf [ck]).flatten va)) id c s
/-- `hmstat` form 1 (R203). -/
def execHmstatLineTag (a : TArgs) (s : State) : Host.Outcome State Fault Refusal :=
  issueAlone (.hmstatLineTag a) .tm (opHmstatLineTag a) s

/-- `hmstat` form 2 (R300). -/
def opHmstatFree (a : TArgs) : OpFn := fun c s =>
  let r := (s.ctx c).arch
  let on := onT r a
  let agent := (readScalar r 0 a.a).toNat % 128
  hmstatOp a (reading a.pred [a.a])
    (trapIf (decide (distT a < 10)) s c .tm .illsched ++ trapIf (on && !hallmarksOn s (jobOf s c)) s c .tm .perm) none
    (fun _ => .freeCounts agent) id c s
/-- `hmstat` form 2 (R300). -/
def execHmstatFree (a : TArgs) (s : State) : Host.Outcome State Fault Refusal :=
  issueAlone (.hmstatFree a) .tm (opHmstatFree a) s

/-! ### What `hmstat` lands (R203, R300) -/

/-- The directory state of a name (R300). -/
def directoryState (s : State) (hid : Nat) (x : Name) : Nat :=
  if x = 0 ∨ nameKind x = 15 then 0
  else
    let base := homeAgent s x * 2 ^ 41 + bucketOf s x * 2 ^ 16
    match findName s hid x with
    | some f => base + 2 ^ 63 + f.way * 2 ^ 38 + f.link * 2 ^ 36 + countOf s f
    | none => base
/-- The free lines and buckets of an agent (R300). -/
def freeState (s : State) (a : Nat) : Nat :=
  if (nha s).getD 0 ≤ a then 0
  else
    let h := s.heap a
    sat (2 ^ 32 - 1) (setBits s (lineMapPa s a) (heapLines h) 0) * 2 ^ 32 +
    sat (2 ^ 32 - 1) (setBits s (overflowMapPa s a) (overflows h) 0)
/-- The tag of the line of an address; a scratchpad address has none (R203). -/
def tagState (s : State) (pa : Nat) : Nat := if tagged s pa then (lineTag s (pa / 128)).toNat else 0

/-! ### The hm step of `hmcopy` (R299) -/

/-- Heap lines of the leaves of a subtree of height `l` under a name, in leaf order, none where zeros are written; and the names whose
kind does not match their depth (R293, R299).  What a copy writes for a child of the right kind that is absent, R299 does not say: zeros,
with no event (log 164, DESIGN CHOICE). -/
def copyTree (s : State) (hid : Nat) : Nat → Name → List (Option Nat) × List Name
  | 0, x =>
    if x != 0 && nameKind x != 0 then ([none], [x])
    else match findName s hid x with
      | some f => ([some (heapLinePa s f.agent f.line)], [])
      | none => ([none], [])
  | l + 1, x =>
    if x = 0 then (List.replicate (8 ^ (l + 1)) none, [])
    else if nameKind x != 1 then (List.replicate (8 ^ (l + 1)) none, [x])
    else match findName s hid x with
      | none => (List.replicate (8 ^ (l + 1)) none, [])
      | some f =>
        let kids := (List.range 8).map fun i => copyTree s hid l (childOf (heapBytes s f) i)
        (kids.flatMap (·.1), kids.flatMap (·.2))
/-- A name has the kind of its depth, with `l` levels below it: the walk of a copy looks no other name up (R299). -/
def kindFits (l : Nat) (x : Name) : Bool := nameKind x == (if l = 0 then 0 else 1)
/-- What the walk of a copy meets in the directory and at the nodes whose children it reads (R223, R273, R301). -/
def copyFault (s : State) (hid : Nat) : Nat → Name → Option (Nat × TrapCode)
  | 0, x => if kindFits 0 x then nameFault s hid false x else none
  | l + 1, x =>
    if !kindFits (l + 1) x then none
    else match nameFault s hid true x, findName s hid x with
    | some e, _ => some e
    | none, some f => firstSome ((List.range 8).map fun i => copyFault s hid l (childOf (heapBytes s f) i))
    | none, none => none
/-- The walk of a copy accesses the lines of the names that it looks up, and of the nodes whose children it reads (R263; log 166). -/
def copyLook (hid : Nat) : Nat → Name → State → State
  | 0, x, s => if kindFits 0 x then look s hid x else s
  | l + 1, x, s =>
    if !kindFits (l + 1) x then s
    else match findName s hid x with
    | some f =>
      let line := heapBytes s f
      (List.range 8).foldl (fun s i => copyLook hid l (childOf line i) s) (touch (look s hid x) (f.heapLine s))
    | none => look s hid x

end Sys2Proof.Machine
end

