-- ==== Sys2Proof/Machine/System.lean ====
section
/-! DEFINITION. The SY slot: clasps and fences, leaving the context, counters and markers, starting, messaging and cancelling work,
channels, traps and supervisor operations (spec 11, R199 to R202; 14, R251, R252; 21, R345 to R359; 22, R368, R370; 23, R380 to
R384). -/
namespace Sys2Proof.Machine

/-! ### Operands and checks (R345) -/

/-- The enable of a Y48 operation (R345). -/
def onY (r : Arch) (a : YArgs) : Bool := enabledS r a.pred false
/-- A scalar operand of a Y48 operation; 0xE2 reads imm20 zero-extended (R345, R347, R351). -/
def srcY (r : Arch) (a : YArgs) (q : Port) : W64 := readScalar r (a.imm.zeroExtend 64) q

/-- The check of a counter or clasp (R251, R348, R350): as a load or a store, with PERM in a scratchpad window or in host
memory, and for a clasp on a home-01 line. -/
def checkPlace (s : State) (c : Nat) (u : Use) (align va n : Nat) (clasp : Bool) : Sum (TrapCode × Nat) Frames :=
  let bad := match translate s (coreOf c) (jobOf s c) va with
    | some (pa, e) => isWindow s pa || isHost s pa || (clasp && Pte.home e == 1)
    | none => false
  match checkUse s c u align va n with
  | .inr f => if bad then .inl (.perm, va) else .inr f
  | .inl (.hmwrite, a) => .inl (if bad then (.perm, va) else (.hmwrite, a))
  | .inl e => .inl e

/-- A withheld Y48 operation with checks of its own (R345). -/
def withheldY (a : YArgs) (srcs : List Port) (always : State → Nat → List Cause) (enabled : State → Nat → List Cause)
    (what : State → Nat → Act) (pins : State → Nat → List (Nat × Nat × Nat)) : OpFn := fun c s =>
  let reads := reading a.pred srcs
  if !onY (s.ctx c).arch a then { slot := .sy, reads := reads, traps := always s c }
  else
    { slot := .sy, reads := reads, traps := always s c ++ enabled s c, entries := 1
      act := fun s => withhold s c .sy (what s c) (pins s c) }

/-! ### Clasps and fences (R199 to R202, R251, R252) -/

/-- The clasp address. -/
def claspVa (s : State) (c : Nat) (a : YArgs) : Nat := (readScalar (s.ctx c).arch 0 a.a).toNat
/-- The check of a clasp. -/
def claspCheck (s : State) (c : Nat) (a : YArgs) : Sum (TrapCode × Nat) Frames :=
  checkPlace s c .store 32 (claspVa s c a) 32 true
/-- Traps of a clasp instruction. -/
def claspTraps (a : YArgs) (s : State) (c : Nat) : List Cause :=
  accessTraps s c .sy .store [(claspVa s c a, 32)] [claspCheck s c a]
/-- Physical address of the clasp. -/
def claspPa (s : State) (c : Nat) (a : YArgs) : Nat := framePa (framesOf [claspCheck s c a]).flatten (claspVa s c a)
/-- The leaf of the clasp's page. -/
def claspPte (s : State) (c : Nat) (a : YArgs) : W64 := frameLeaf (framesOf [claspCheck s c a]).flatten (claspVa s c a)
/-- A withheld clasp instruction (R199). -/
def claspOp (a : YArgs) (srcs : List Port) (more : State → Nat → List Cause) (what : State → Nat → Act) : OpFn :=
  withheldY a (a.a :: srcs) (fun _ _ => []) (fun s c => more s c ++ claspTraps a s c) what
    fun s c => pinsOf s c [(claspVa s c a, 32)]

/-- `cbind` (R199). -/
def opCbind (a : YArgs) : OpFn :=
  let base (s : State) (c : Nat) : W64 := readScalar (s.ctx c).arch 0 a.b
  claspOp a [a.b] (fun s c => trapIf ((base s c).toNat % 128 != 0) s c .sy .align (base s c).toNat)
    fun s c => .cbind (claspPa s c a) (base s c) (128 * a.imm.toNat) (claspPte s c a)
/-- `cbind` (R199). -/
def execCbind (a : YArgs) (s : State) : Host.Outcome State Fault Refusal := issueAlone (.cbind a) .sy (opCbind a) s

/-- `cacq` (R199, R200). -/
def opCacq (a : YArgs) : OpFn := claspOp a [] (fun _ _ => []) fun s c => .cacq (claspPa s c a) (claspPte s c a)
/-- `cacq` (R199, R200). -/
def execCacq (a : YArgs) (s : State) : Host.Outcome State Fault Refusal := issueAlone (.cacq a) .sy (opCacq a) s

/-- `crel` (R199, R201). -/
def opCrel (a : YArgs) : OpFn :=
  claspOp a [] (fun _ _ => []) fun s c => .crel (claspPa s c a) (a.imm.getLsbD 0) (claspPte s c a)
/-- `crel` (R199, R201). -/
def execCrel (a : YArgs) (s : State) : Host.Outcome State Fault Refusal := issueAlone (.crel a) .sy (opCrel a) s

/-- `ctry` (R252). -/
def opCtry (a : YArgs) : OpFn := fun c s =>
  let reads := reading a.pred [a.a]
  let d := arrivalD (a.imm.extractLsb' 0 8)
  let dests := (destOf a.b).toList
  let near := trapIf (tooNear s c d [(claspVa s c a, 32)]) s c .sy .illsched
  if !onY (s.ctx c).arch a then { slot := .sy, reads := reads, traps := near }
  else
    { slot := .sy, reads := reads, entries := 1
      traps := near ++ claspTraps a s c
      loads := dests.map fun x => (x, d)
      act := fun s =>
        let (us, s1) := startWithheld c .sy d dests s
        withhold s1 c .sy (.ctry (claspPa s c a) us.head? (claspPte s c a)) (pinsOf s c [(claspVa s c a, 32)]) }
/-- `ctry` (R252). -/
def execCtry (a : YArgs) (s : State) : Host.Outcome State Fault Refusal := issueAlone (.ctry a) .sy (opCtry a) s

/-- `fence` (R199, R202). -/
def opFence (a : YArgs) : OpFn :=
  withheldY a [] (fun _ _ => []) (fun _ _ => []) (fun _ _ => .fence a.imm.toNat) fun _ _ => []
/-- `fence` (R199, R202). -/
def execFence (a : YArgs) (s : State) : Host.Outcome State Fault Refusal := issueAlone (.fence a) .sy (opFence a) s

/-! ### Leaving the context (R317, R346 to R349) -/

/-- A bead suspends with its state saved and joins the tail of its queue with a new BUDGET (R317, R347). -/
def leaveYield (c : Nat) (budget : Nat) (s : State) : State :=
  match (s.ctx c).run with
  | none => s
  | some b =>
    let pc := (s.ctx c).pc
    let s1 := writeBack (saveBead s c b) b pc 1
    let s2 := setBeadWord s1 b.job b.addr 4 (putBits (beadWord s1 b.job b.addr 4) 32 32 budget)
    enqueue s2 b.queue b.job b.addr

/-- A bead suspends until a counter meets its condition (R317, R348). -/
def leaveWait (c : Nat) (va op v : Nat) (s : State) : State :=
  match (s.ctx c).run with
  | none => s
  | some b =>
    let pc := (s.ctx c).pc
    let s1 := writeBack (saveBead s c b) b pc 3
    let s2 := setBeadWord s1 b.job b.addr 5 (va / 8 * 8 + op)
    let s3 := setBeadWord s2 b.job b.addr 4 (putBits (beadWord s2 b.job b.addr 4) 0 32 v)
    markWaiters ((vSee s3 b.job (va / 8 * 8) 8).modHub fun h => { h with waiters := h.waiters ++ [(b.job, b.addr, false)] })

/-- A bead ends its issue: it completes once its queue has drained (R165, R197, R349). -/
def leaveDone (c : Nat) (s : State) : State :=
  match (s.ctx c).run with
  | none => s
  | some b =>
    let x := s.ctx c
    let s1 := charge (addEnergy (writeBack s b x.pc 4) b) b.queue x.spent
    let s2 := s1.modHub fun h => { h with
      completing := h.completing ++
        [{ job := b.job, addr := b.addr, life := b.life, launch := launchOf s1 b.job b.addr b.launch, ctx := c }] }
    s2.modCtx c fun x => { vacate x with slotJob := some b.job }

/-- `yield` (R346, R347). -/
def opYield (a : YArgs) : OpFn := fun c s =>
  let r := (s.ctx c).arch
  { slot := .sy, reads := reading a.pred [a.a], leaves := true
    leave := if onY r a then leaveYield c ((srcY r a a.a).toNat % 2 ^ 32) else id }
/-- `yield` (R346, R347). -/
def execYield (a : YArgs) (s : State) : Host.Outcome State Fault Refusal := issueAlone (.yield a) .sy (opYield a) s

/-- `wait` (R346, R348). -/
def opWait (a : YArgs) : OpFn := fun c s =>
  let r := (s.ctx c).arch
  let va := (readScalar r 0 a.a).toNat
  let on := onY r a
  { slot := .sy, reads := reading a.pred [a.a, a.b], leaves := true
    traps := if on then accessTraps s c .sy .load [(va, 8)] [checkPlace s c .load 8 va 8 false] else []
    leave := if on then leaveWait c va (a.imm.toNat % 4) ((readScalar r 0 a.b).toNat % 2 ^ 32) else id }
/-- `wait` (R346, R348). -/
def execWait (a : YArgs) (s : State) : Host.Outcome State Fault Refusal := issueAlone (.wait a) .sy (opWait a) s

/-- `done` (R346, R349). -/
def opDone (a : YArgs) : OpFn := fun c s =>
  { slot := .sy, reads := reading a.pred [], leaves := true
    leave := if onY (s.ctx c).arch a then leaveDone c else id }
/-- `done` (R346, R349). -/
def execDone (a : YArgs) (s : State) : Host.Outcome State Fault Refusal := issueAlone (.done a) .sy (opDone a) s

/-! ### Counters and markers (R350, R351) -/

/-- `sig` (R350). -/
def opSig (a : YArgs) : OpFn :=
  let va (s : State) (c : Nat) : Nat := (readScalar (s.ctx c).arch 0 a.a).toNat
  let ck (s : State) (c : Nat) := checkPlace s c .store 8 (va s c) 8 false
  withheldY a [a.a, a.b] (fun _ _ => []) (fun s c => accessTraps s c .sy .store [(va s c, 8)] [ck s c])
    (fun s c => .sig (framePa (framesOf [ck s c]).flatten (va s c)) (a.imm.toNat % 4) (readScalar (s.ctx c).arch 0 a.b)
      (frameLeaf (framesOf [ck s c]).flatten (va s c)))
    fun s c => pinsOf s c [(va s c, 8)]
/-- `sig` (R350). -/
def execSig (a : YArgs) (s : State) : Host.Outcome State Fault Refusal := issueAlone (.sig a) .sy (opSig a) s

/-- A signed number saturated to 32 bits (R369). -/
def sat32 (v : Int) : Nat := (if v < -2 ^ 31 then -2 ^ 31 else if 2 ^ 31 ≤ v then 2 ^ 31 - 1 else v) % 2 ^ 32 |>.toNat
/-- The drift of a `mark` (R351). -/
def driftOf (r : Arch) (a : YArgs) : Int := (BitVec.ofNat 64 r.cc - srcY r a a.a).toInt

/-- `mark` (R351, R368 to R370): one record, and TRARM at the next context cycle when the drift exceeds the threshold. -/
def opMark (a : YArgs) : OpFn := fun c s =>
  let r := (s.ctx c).arch
  let v := driftOf r a
  let late := decide ((((s.job (jobOf s c)).mkthr.toNat : Nat) : Int) < v)
  { slot := .sy, reads := reading a.pred [a.a]
    lands := if onY r a && late then [landLatch (.creg 0x003) 1 2 2] else []
    act := fun s => match (s.ctx c).run, onY r a with
      | some b, true => driftRecord s c b (s.ctx c).pc (s.ctx c).arch.cc (sat32 v) 1 0
      | _, _ => s }
/-- `mark` (R351). -/
def execMark (a : YArgs) (s : State) : Host.Outcome State Fault Refusal := issueAlone (.mark a) .sy (opMark a) s

/-! ### Starting, messaging and cancelling work (R352 to R354) -/

/-- `spawn` (R352). -/
def opSpawn (a : YArgs) : OpFn :=
  let va (s : State) (c : Nat) : Nat := (readScalar (s.ctx c).arch 0 a.a).toNat
  withheldY a [a.a] (fun _ _ => [])
    (fun s c => accessTraps s c .sy .load [(va s c, 64)] [checkUse s c .load 64 (va s c) 64])
    (fun s c => .spawn (va s c)) fun _ _ => []
/-- `spawn` (R352). -/
def execSpawn (a : YArgs) (s : State) : Host.Outcome State Fault Refusal := issueAlone (.spawn a) .sy (opSpawn a) s

/-- `post` (R353). -/
def opPost (a : YArgs) : OpFn := fun c s =>
  let r := (s.ctx c).arch
  let on := onY r a
  let nm := nameTile s c .sy on a.b .use
  let reads := reading a.pred [a.a]
  let x := readScalar r 0 a.a
  let m := (x.extractLsb' 16 5).toNat
  let early := trapIf (nm.ref.reg.defined && decide (nm.ref.reg.rb < 32)) s c .sy .illenc ++ nm.traps
  if !on || !nm.traps.isEmpty then { slot := .sy, reads := reads, traps := early, waits := nm.waits }
  else
    let segs := tileSegs nm.ref 0 32
    { slot := .sy, reads := reads, entries := 1
      traps := early ++ issueFaults s c .sy segs ++ trapIf (m != s.pos && !(s.job (jobOf s c)).fab) s c .sy .perm
      waits := orWait nm.waits (issueReadWaits s c segs)
      act := fun s =>
        let (v, s1) := issueRead s c segs
        withhold s1 c .sy (.post (x.extractLsb' 0 16).toNat m (BitVec.ofNat 256 v)) }
/-- `post` (R353). -/
def execPost (a : YArgs) (s : State) : Host.Outcome State Fault Refusal := issueAlone (.post a) .sy (opPost a) s

/-- `cancel` (R354). -/
def opCancelInstr (a : YArgs) : OpFn :=
  withheldY a [a.a] (fun s c => trapIf (a.imm.toNat == 4 && !supOf s c) s c .sy .priv) (fun _ _ => [])
    (fun s c => .cancel a.imm.toNat (readScalar (s.ctx c).arch 0 a.a)) fun _ _ => []
/-- `cancel` (R354). -/
def execCancelInstr (a : YArgs) (s : State) : Host.Outcome State Fault Refusal :=
  issueAlone (.cancelInstr a) .sy (opCancelInstr a) s

/-! ### Channels (R355, R380 to R384) -/

/-- A channel entry (R381). -/
structure ChanEntry where
  va : Nat
  v : Bool
  peerAgent : Nat
  peerCore : Nat
  depth : Nat
  comb : Nat
  nsrc : Nat
  cidx : Nat
  timeout : Nat
  record : Nat
  slots : Nat
  status : Nat
  sent : Nat

/-- The fields of a channel entry's bytes (R381). -/
def ChanEntry.ofBytes (va x : Nat) : ChanEntry :=
  { va := va, v := bitsOf x 63 1 == 1, peerAgent := bitsOf x 56 7, peerCore := bitsOf x 49 7, depth := bitsOf x 40 8
    comb := bitsOf x 36 4, nsrc := bitsOf x 24 8, cidx := bitsOf x 16 8, timeout := bitsOf x 0 16
    record := bitsOf x 64 64, slots := bitsOf x 128 64, status := bitsOf x 192 64, sent := bitsOf x 256 32 }

/-- Contributors of a channel: 0 means 1 (R381). -/
def ChanEntry.sources (e : ChanEntry) : Nat := Nat.max 1 e.nsrc
/-- Elements received (R381). -/
def ChanEntry.deliv (e : ChanEntry) : Nat := e.status % 2 ^ 32
/-- The timeout in nanoseconds; 0 means 1000 µs (R381). -/
def ChanEntry.timeoutNs (e : ChanEntry) : Nat := 1000 * (if e.timeout = 0 then 1000 else e.timeout)

/-- Entry `ch` of job `j` (R380, R381). -/
def chanEntry (s : State) (j ch : Nat) : ChanEntry := ChanEntry.ofBytes (chanVa s j ch) (vRead s j (chanVa s j ch) 64)
/-- The element record of a channel (R381). -/
def chanRecord (s : State) (j : Nat) (e : ChanEntry) : Record := Record.ofBits (BitVec.ofNat 1024 (vRead s j e.record 128))
/-- The format of a channel's elements. -/
def chanFormat (s : State) (j : Nat) (e : ChanEntry) : Option ETy := ETy.ofCode (chanRecord s j e).fmtCode
/-- The channel exists: the job has a table that reaches it, and its entry is valid (R380, R381). -/
def chanExists (s : State) (j ch : Nat) : Bool :=
  (s.job j).chtab.toNat / 2 ^ 16 != 0 && decide (ch ≤ (s.job j).chtab.toNat % 4096) && (chanEntry s j ch).v
/-- The channel can be used (R380, R382). -/
def chanValid (s : State) (j ch : Nat) : Bool :=
  let t := (s.job j).chtab.toNat
  let e := chanEntry s j ch
  t / 2 ^ 16 != 0 && decide (ch ≤ t % 4096) && e.v && e.depth != 0 && e.slots != 0 && decide (e.comb ≤ 4) &&
  (if e.comb = 0 then decide (e.nsrc ≤ 1)
   else match chanFormat s j e with
     | some f => !f.isTap && f != .sc8 && (e.comb != 4 || f.isInt)
     | none => false)
/-- A tile has the shape and format of a channel's elements (R355). -/
def chanFits (s : State) (j ch : Nat) (t : TileReg) : Bool :=
  let e := chanEntry s j ch
  let q := chanRecord s j e
  chanFormat s j e == some t.fmt && t.rows == q.ext 1 && t.cols == q.ext 0

/-- What a read of the hub for a bead's instruction meets: MCHK at a line that its home does not serve, or SOFT at bad data (R223, R273). -/
def hubFaults (s : State) (c : Nat) (k : Slot) (va n : Nat) : List Cause :=
  let bad (code : TrapCode) (a line : Nat) : Option Cause := some { causeAt s c k code a with log := s.mgmt.flogN, line := some line }
  ((granules va n).flatMap fun (_, a, m) => match translateHub s (jobOf s c) a with
    | some (pa, e) => (linesOf pa m).filterMap fun l =>
      if refused s (paAgent (l * 128)) (l * 128) e false then bad .mchk a l
      else if s.homes.dataErr.contains l then bad .soft a l else none
    | none => []).take 1
/-- What the hub meets as it reads a channel's entry and its element record. -/
def chanFaults (s : State) (c ch : Nat) : List Cause :=
  (hubFaults s c .sy (chanVa s (jobOf s c) ch) 64 ++ hubFaults s c .sy (chanEntry s (jobOf s c) ch).record 128).take 1
/-- The hub reads a channel's entry and its element record (R7, R355). -/
def seeChannel (s : State) (j ch : Nat) : State := vSee (vSee s j (chanVa s j ch) 64) j (chanEntry s j ch).record 128
/-- Checks of a channel instruction at issue (R355): the shape is judged whatever the enable, where it can be read (R15; log 153). -/
def chanTraps (s : State) (c ch : Nat) (on : Bool) (t : TileReg) : List Cause :=
  let j := jobOf s c
  let faults := chanFaults s c ch
  if !faults.isEmpty then (if on then faults else [])
  else if !chanValid s j ch then trapIf on s c .sy .perm
  else trapIf (t.defined && !chanFits s j ch t) s c .sy .illsched

/-- `chsend` (R355, R379, R383). -/
def opChsend (a : YArgs) : OpFn := fun c s =>
  let r := (s.ctx c).arch
  let on := onY r a
  let nm := nameTile s c .sy on a.a .use
  let ch := a.imm.toNat
  let reads := reading a.pred []
  let early := nm.traps ++ chanTraps s c ch on nm.ref.reg
  if !on then { slot := .sy, reads := reads, traps := early, waits := nm.waits }
  else
    let e := chanEntry s (jobOf s c) ch
    { slot := .sy, reads := reads, waits := nm.waits, entries := 1
      traps := early ++
        trapIf (e.peerAgent / 4 != s.pos && !(s.job (jobOf s c)).fab) s c .sy .perm ++
        accessTraps s c .sy .atomic (counterRange r nm.ref.reg) (counterCheck s c r nm.ref.reg)
      act := fun s =>
        let t := newTransfer s c (.chsend (jobOf s c) ch e.peerAgent e.peerCore e.cidx 0 e.depth []) [nm.ref.tl] []
          (counterPa s c r nm.ref.reg) (pinsOf s c (counterRange r nm.ref.reg)) []
        withhold (seeChannel s (jobOf s c) ch) c .sy (.chsend ch nm.ref e.va t) t.pins }
/-- `chsend` (R355). -/
def execChsend (a : YArgs) (s : State) : Host.Outcome State Fault Refusal := issueAlone (.chsend a) .sy (opChsend a) s

/-- A `chrecv` of another context is pending on a channel (R384). -/
def chanTaken (s : State) (c ch : Nat) : Bool := s.transfers.any fun t => match t.kind with
  | .chrecv j k _ => j == jobOf s c && k == ch && t.ctx != some c
  | _ => false

/-- `chrecv` (R355, R384). -/
def opChrecv (a : YArgs) : OpFn := fun c s =>
  let r := (s.ctx c).arch
  let on := onY r a
  let nm := nameTile s c .sy on a.a .load
  let ch := a.imm.toNat
  let reads := reading a.pred []
  let early := nm.traps ++ chanTraps s c ch on nm.ref.reg
  if !on then { slot := .sy, reads := reads, traps := early, waits := nm.waits }
  else
    { slot := .sy, reads := reads
      waits := orWait nm.waits (if chanTaken s c ch then some .pendingTile else none)
      traps := early ++
        accessTraps s c .sy .atomic (counterRange r nm.ref.reg) (counterCheck s c r nm.ref.reg)
      act := fun s =>
        let k := chanKey (jobOf s c) ch
        let x := s.chans.get k Chan.reset
        let s1 := { s with chans := s.chans.set k { x with recvs := x.recvs ++ [(s.uid, s.hub.timebase.toNat)] } }
        startTransfer (seeChannel s1 (jobOf s c) ch) (newTransfer s1 c (.chrecv (jobOf s c) ch nm.ref) [nm.ref.tl] [] (counterPa s c r nm.ref.reg)
          (pinsOf s c (counterRange r nm.ref.reg)) []) }
/-- `chrecv` (R355). -/
def execChrecv (a : YArgs) (s : State) : Host.Outcome State Fault Refusal := issueAlone (.chrecv a) .sy (opChrecv a) s

/-! ### Traps and supervisor operations (R356 to R359) -/

/-- `trap` (R356). -/
def opTrap (a : YArgs) : OpFn := fun c s =>
  { slot := .sy, reads := reading a.pred [], traps := trapIf (onY (s.ctx c).arch a) s c .sy .brk }
/-- `trap` (R356). -/
def execTrap (a : YArgs) (s : State) : Host.Outcome State Fault Refusal := issueAlone (.trap a) .sy (opTrap a) s

/-- `eret` (R357). -/
def opEret (a : YArgs) : OpFn :=
  let va (s : State) (c : Nat) : Nat := (readScalar (s.ctx c).arch 0 a.a).toNat
  withheldY a [a.a] (fun _ _ => []) (fun s c => trapIf (va s c % 64 != 0) s c .sy .align (va s c))
    (fun s c => .eret (va s c)) fun _ _ => []
/-- `eret` (R357). -/
def execEret (a : YArgs) (s : State) : Host.Outcome State Fault Refusal := issueAlone (.eret a) .sy (opEret a) s

/-- `tlbinv` (R358). -/
def opTlbinv (a : YArgs) : OpFn :=
  withheldY a [a.a] (fun s c => trapIf (!supOf s c) s c .sy .priv) (fun _ _ => [])
    (fun s c => .tlbinv (a.imm.toNat % 4) (s.ctx c).jobsel.toNat (readScalar (s.ctx c).arch 0 a.a)) fun _ _ => []
/-- `tlbinv` (R358). -/
def execTlbinv (a : YArgs) (s : State) : Host.Outcome State Fault Refusal := issueAlone (.tlbinv a) .sy (opTlbinv a) s

/-- `qset` (R359). -/
def opQset (a : YArgs) : OpFn :=
  withheldY a [a.a, a.b] (fun s c => trapIf (a.imm.toNat % 4 == 0 && !supOf s c) s c .sy .priv) (fun _ _ => [])
    (fun s c => .qset ((readScalar (s.ctx c).arch 0 a.a).toNat % 8192) (a.imm.toNat % 4) (readScalar (s.ctx c).arch 0 a.b))
    fun _ _ => []
/-- `qset` (R359). -/
def execQset (a : YArgs) (s : State) : Host.Outcome State Fault Refusal := issueAlone (.qset a) .sy (opQset a) s

end Sys2Proof.Machine
end

