-- ==== Sys2Proof/Machine/Experts.lean ====
section
/-! DEFINITION. Predictor tables and pendant rows: `eplook`, `epupd`, `epcfg`, `mtag`, `mresolve`, `mcombine` (spec 07, R134 to R138;
10, R178 to R191). -/
namespace Sys2Proof.Machine

/-! ### Predictor tables (R134, R178, R180, R186 to R188) -/

/-- Set a predictor table of the die of context `c`. -/
def setPredictor (s : State) (c t : Nat) (x : Predictor) : State :=
  { s with pred := s.pred.set (dieOf (coreOf c) * 64 + t) x }
/-- An entry of a table. -/
def predEntry (x : Predictor) (i : Nat) : BitVec 52 := x.entries.get i 0

/-- `eplook` (R186), which reads its entry at issue (log 138). -/
def opEplook (a : YArgs) : OpFn := fun c s =>
  let r := (s.ctx c).arch
  let t := a.imm.toNat % 64
  let on := onY r a
  let v := predEntry (predictor s c t) ((readScalar r 0 a.b).toNat % 4096)
  { slot := .sy, reads := reading a.pred [a.b], traps := trapIf (on && !boundHere s c t) s c .sy .perm
    lands := if on then landPort a.a 8 (v.zeroExtend 1024) else [] }
/-- `eplook` (R186). -/
def execEplook (a : YArgs) (s : State) : Host.Outcome State Fault Refusal := issueAlone (.eplook a) .sy (opEplook a) s

/-- The experts of slots 0 to `k - 1`, each once (R134, R187). -/
def actualExperts (x k : Nat) : List Nat := ((List.range k).map fun j => bitsOf x (13 * j) 10).eraseDups

/-- `epupd` (R187). -/
def opEpupd (a : YArgs) : OpFn :=
  let t := a.imm.toNat % 64
  let k := bitsOf a.imm.toNat 8 2 + 1
  withheldY a [a.a, a.b] (fun _ _ => []) (fun s c => trapIf (!boundHere s c t) s c .sy .perm)
    (fun s c => .epupd t ((readScalar (s.ctx c).arch 0 a.a).toNat % 4096)
      (actualExperts (readScalar (s.ctx c).arch 0 a.b).toNat k)) fun _ _ => []
/-- `epupd` (R187). -/
def execEpupd (a : YArgs) (s : State) : Host.Outcome State Fault Refusal := issueAlone (.epupd a) .sy (opEpupd a) s

/-- `epcfg` (R188). -/
def opEpcfg (a : YArgs) : OpFn :=
  let t := a.imm.toNat % 64
  withheldY a [a.a, a.b] (fun _ _ => [])
    (fun s c => trapIf ((predictor s c t).bound && (predictor s c t).job != jobOf s c) s c .sy .perm)
    (fun s c => .epcfg t (bitsOf a.imm.toNat 6 2) (readScalar (s.ctx c).arch 0 a.a)
      ((readScalar (s.ctx c).arch 0 a.b).extractLsb' 0 16)) fun _ _ => []
/-- `epcfg` (R188). -/
def execEpcfg (a : YArgs) (s : State) : Host.Outcome State Fault Refusal := issueAlone (.epcfg a) .sy (opEpcfg a) s

/-- A slot of an entry: expert and confidence (R134). -/
def predSlots (x : BitVec 52) : List (Nat × Nat) :=
  (List.range 4).map fun j => (bitsOf x.toNat (13 * j) 10, bitsOf x.toNat (13 * j + 10) 3)
/-- The entry of four slots. -/
def ofSlots (l : List (Nat × Nat)) : BitVec 52 := BitVec.ofNat 52 (unfields 13 (l.map fun (e, k) => e + k * 1024))
/-- Step 1 of an update (R134). -/
def trainSlot (actual : List Nat) (p : Nat × Nat) : Nat × Nat :=
  (p.1, if actual.contains p.1 then Nat.min 7 (p.2 + 1) else p.2 - 1)
/-- The lowest slot that is not actual and has confidence 0 takes an expert (R134). -/
def replaceSlot (actual : List Nat) (e : Nat) : List (Nat × Nat) → List (Nat × Nat)
  | [] => []
  | p :: r => if !actual.contains p.1 && p.2 == 0 then (e, 1) :: r else p :: replaceSlot actual e r
/-- Step 2 of an update (R134). -/
def placeExperts (actual : List Nat) : List Nat → List (Nat × Nat) → List (Nat × Nat)
  | [], l => l
  | e :: r, l => placeExperts actual r (if l.any (fun p => p.1 == e) then l else replaceSlot actual e l)
/-- An entry after an update (R134). -/
def updateEntry (x : BitVec 52) (actual : List Nat) : BitVec 52 :=
  ofSlots (placeExperts actual actual ((predSlots x).map (trainSlot actual)))

/-- PREDICTOR_UPDATE_RELEASE (R180, R187). -/
def execPredictorUpdateRelease (c : Nat) (s : State) : Host.Outcome State Fault Refusal :=
  .next (match headEntry s c with
    | some e => match e.act with
      | .epupd t i actual =>
        let x := predictor s c t
        let s1 := popHead s c
        if x.bound && x.job == e.job then
          setPredictor s1 c t { x with entries := x.entries.set i (updateEntry (predEntry x i) actual) }
        else s1
      | _ => s
    | none => s)

/-- A table after an `epcfg` performs (R188).  An `epcfg` of op 0 that is released while another job has bound the table keeps its entries, as
the rule's steps say, though its text says that a table never passes entries from one job to another (log 183, DEDUCED). -/
def configure (x : Predictor) (job op : Nat) (seed : W64) (layer : BitVec 16) : Predictor :=
  if op = 2 then { x with bound := false }
  else
    let other := match x.lastJob with
      | some j => j != job
      | none => false
    { bound := true, job := job, lastJob := some job, layer := layer, seed := seed
      entries := if (!x.bound && other) || op == 1 then [] else x.entries }

/-- PREDICTOR_BIND_RELEASE (R180, R188). -/
def execPredictorBindRelease (c : Nat) (s : State) : Host.Outcome State Fault Refusal :=
  .next (match headEntry s c with
    | some e => match e.act with
      | .epcfg t op seed layer => setPredictor (popHead s c) c t (configure (predictor s c t) e.job op seed layer)
      | _ => s
    | none => s)

/-! ### Pendant rows (R184, R189) -/

/-- `mtag` (R135, R189). -/
def opMtag (a : MArgs) : OpFn := fun c s =>
  let x := arrayOf s c
  let r := a.row.toNat
  let v := readScalar (s.ctx c).arch 0 a.tile
  { slot := .mx, reads := readCodes a.tile
    traps := ownTraps s c [] [r] ++ trapIf ((accRow x r).state == 1 || rowOpen x (slotNo c) r) s c .mx .illsched
    act := fun s => modArray s c fun x =>
      setAcc x r { elems := 0, tag := (2 : BitVec 2) ++ v.extractLsb' 0 28, load := none } }
/-- `mtag` (R135, R189). -/
def execMtag (a : MArgs) (s : State) : Host.Outcome State Fault Refusal := issueAlone (.mtag a) .mx (opMtag a) s

/-- slot(i, r) with the rank counted from 0 (R137). -/
def stagingRow (sb i r : Nat) : Nat := sb + 4 * i + r
/-- The staging rows of `n` tokens and `k` ranks. -/
def stagingRows (sb n k : Nat) : List Nat := (List.range n).flatMap fun i => (List.range k).map fun r => stagingRow sb i r
/-- Fields of a tag (R159). -/
def AccRow.token (x : AccRow) : Nat := (x.tag.extractLsb' 0 16).toNat
/-- EXPERT of a tag. -/
def AccRow.expert (x : AccRow) : Nat := (x.tag.extractLsb' 16 10).toNat
/-- RANK of a tag. -/
def AccRow.rank (x : AccRow) : Nat := (x.tag.extractLsb' 26 2).toNat
/-- A tag from its fields. -/
def makeTag (st rank expert token : Nat) : BitVec 30 :=
  BitVec.ofNat 30 (token % 2 ^ 16 + expert % 1024 * 2 ^ 16 + rank % 4 * 2 ^ 26 + st * 2 ^ 28)

/-- A router word (R137). -/
def routerWord (words : List (List Nat)) (i r : Nat) : Nat := (words.getD i []).getD r 0
/-- The expert of a router word (R190). -/
def wordExpert (w : Nat) : Nat := w % 1024
/-- The gate of a router word as f32 (R190). -/
def wordGate (w : Nat) : FVal := decodeF .f32 (w / 2 ^ 16 * 2 ^ 16)

/-- The rank at which a tentative row is confirmed, if any (R190). -/
def hitRank (a : MxArray) (words : List (List Nat)) (sb k : Nat) (x : AccRow) : Option Nat :=
  if x.state = 2 ∧ x.token < words.length then
    (List.range k).find? fun r => wordExpert (routerWord words x.token r) == x.expert &&
      (accRow a (stagingRow sb x.token r)).state != 1
  else none

/-- `mresolve` examines one row (R137, R190). -/
def resolveRow (words : List (List Nat)) (sb k : Nat) (a : MxArray) (r : Nat) : MxArray :=
  let x := accRow a r
  if x.state < 2 then a
  else
    let a1 := match hitRank a words sb k x with
      | some h =>
        let g := wordGate (routerWord words x.token h)
        setAcc a (stagingRow sb x.token h)
          ({ elems := 0, tag := makeTag 1 h x.expert x.token, load := none : AccRow }.withList
            (x.list.map fun v => (mulF .f32 .rne g (decodeF .f32 v)).1))
      | none => a
    setAcc a1 r AccRow.clear

/-- The miss list (R137, R190). -/
def missList (a : MxArray) (words : List (List Nat)) (sb k : Nat) : List Nat :=
  (List.range words.length).flatMap fun i => (List.range k).filterMap fun r =>
    if (accRow a (stagingRow sb i r)).state = 1 then none
    else some (i + wordExpert (routerWord words i r) * 2 ^ 16 + r * 2 ^ 26)

/-- Lists of `n` elements at a time, `m` of them; what is missing is zero. -/
def inRows (n : Nat) : Nat → List Nat → List (List Nat)
  | 0, _ => []
  | m + 1, l => (l.take n ++ List.replicate (n - l.length) 0) :: inRows n m (l.drop n)

/-- `mresolve` (R137, R139, R190). -/
def opMresolve (a : MArgs) : OpFn := fun c s =>
  let x := arrayOf s c
  let n := slotNo c
  let k := a.mode.toNat + 1
  let sb := a.row.toNat
  let tr := nameTile s c .mx true a.tile .use
  let tm := nameTile s c .mx true (.tl a.imm) .use
  let t := tr.ref
  let u := tm.ref
  let rows := t.reg.rows
  let past := decide (255 < sb + 4 * rows - 1)
  let bad := (t.reg.defined && (decide (t.reg.cols < k) || t.reg.fmt != .n32 || past)) ||
    (u.reg.defined && u.reg.fmt != .n32) ||
    (t.reg.defined && u.reg.defined && decide (u.reg.rows * u.reg.cols < 1 + 4 * rows))
  let staging := if t.reg.defined && !past then stagingRows sb rows k else []
  let lines := (List.range rows).flatMap fun i => t.elemLines i 0 k
  { slot := .mx, entries := 1
    waits := orWait tr.waits tm.waits
    traps := trapIf bad s c .mx .illenc ++ ownTraps s c [] staging ++ tr.traps ++ tm.traps ++
      trapIf (staging.any (fun r => decide (2 ≤ (accRow x r).state)) || (openSeqs x n).any (·.isSome)) s c .mx .illsched ++
      tileFaults s c .mx t lines
    act := fun s0 =>
      let s := seeLines s0 lines
      let words := (List.range rows).map fun i => (List.range k).map fun r => t.elem s i r
      let x := ((List.range 256).filter fun r => ownsRow (arrayOf s c) n r).foldl (resolveRow words sb k) (arrayOf s c)
      let miss := missList x words sb k
      let out := (inRows u.reg.cols u.reg.rows (miss.length :: miss)).zipIdx.map fun (l, i) => (i, l)
      modArray (withhold s c .mx (.mxWrite u.tl false (tileBytes s u out))) c fun _ => x }
/-- `mresolve` (R137, R139, R190). -/
def execMresolve (a : MArgs) (s : State) : Host.Outcome State Fault Refusal :=
  issueAlone (.mresolve a) .mx (opMresolve a) s

/-- The sum of a token's slots in rank order (R138, R191).  One slot alone gives its bits unchanged, a NaN's too, as R191 says and R118 does
not (log 177, DEDUCED). -/
def combineRows : List (List Nat) → List Nat
  | [] => []
  | x :: r => r.foldl (fun acc y => List.zipWith (fun p q => (addF .f32 .rne (decodeF .f32 p) (decodeF .f32 q)).1) acc y) x
/-- A list of rows becomes clear. -/
def clearList : List Nat → MxArray → MxArray
  | [], a => a
  | r :: l, a => clearList l (setAcc a r AccRow.clear)

/-- `mcombine` (R138, R191). -/
def opMcombine (a : MArgs) : OpFn := fun c s =>
  let x := arrayOf s c
  let n := slotNo c
  let k := a.mode.toNat + 1
  let sb := a.row.toNat
  let nm := nameTile s c .mx true a.tile .use
  let t := nm.ref
  let rows := t.reg.rows
  let bad := t.reg.defined && (t.reg.fmt != .f32 || decide (512 < t.reg.cols) || decide (255 < sb + 4 * rows - 1))
  let staging := if t.reg.defined && !bad then stagingRows sb rows k else []
  { slot := .mx, entries := 1, waits := nm.waits
    traps := trapIf bad s c .mx .illenc ++ ownTraps s c [] staging ++ nm.traps ++
      trapIf (staging.any fun r => (accRow x r).state != 1 || (accRow x r).rank != (r - sb) % 4 || rowOpen x n r)
        s c .mx .illsched
    act := fun s =>
      let x := arrayOf s c
      let out := (List.range rows).map fun i =>
        (i, (combineRows ((List.range k).map fun r => (accRow x (stagingRow sb i r)).list)).take t.reg.cols)
      modArray (withhold s c .mx (.mxWrite t.tl false (tileBytes s t out))) c (clearList staging) }
/-- `mcombine` (R138, R191). -/
def execMcombine (a : MArgs) (s : State) : Host.Outcome State Fault Refusal :=
  issueAlone (.mcombine a) .mx (opMcombine a) s

end Sys2Proof.Machine
end

