-- ==== Sys2Proof/Machine/Sched.lean ====
section
/-! DEFINITION. Beads, queues, the arbiter, dispatch and preemption, launches, graphs, cancels, lockets and handler instances (spec 18,
R310; 19, R313 to R331, R402; 20, R337, R343; 22, R372, R376; 09, R163 to R165). -/
namespace Sys2Proof.Machine

/-! ### Atom steps on a job's words -/

/-- An atom step at the home of an `n`-byte word of job `j` (R206), after which the waiters of its value are woken (R348); an unmapped word
is left alone. -/
def vAtom (s : State) (j va n : Nat) (f : Nat → Nat) : State := markWaiters (vAtomStep s j va n f)
/-- An atom step with the old value, where the word is mapped and its home serves it. -/
def vAtomOld (s0 : State) (j va n : Nat) (f : Nat → Nat) : Option Nat × State :=
  let s := hubWalk s0 j va
  match translateHub s j va with
  | some (pa, e) =>
    if refused s (paAgent pa) pa e true then (none, logNoContext s (pa / 128) 0)
    else if inHeap s pa then (none, s)
    else
      let (x, s1) := cpAtomOld s (paAgent pa) pa e n f
      (some x, markWaiters s1)
  | none => (none, logWalk s j va)
/-- A bead of a life has been cancelled (R200, R324, R343). -/
def endLife (s : State) (life : Nat) : State :=
  s.modHub fun h => { h with ended := if h.ended.contains life then h.ended else h.ended ++ [life] }
/-- Advance a completion counter by 1, and mark it CANCELLED if the completion is one (R321, R324). -/
def advanceCount (canc : Bool) (v : Nat) : Nat :=
  (v % 2 ^ 63 + 1) % 2 ^ 63 + (if canc || decide (2 ^ 63 ≤ v) then 2 ^ 63 else 0)
/-- Set CANCELLED in a counter. -/
def markCancelled (v : Nat) : Nat := v % 2 ^ 63 + 2 ^ 63

/-! ### Records and queues (R313, R315, R327) -/

/-- The bead of a record (R313); a JOB of 0 stands for the job of the queue. -/
def beadOf (s : State) (j va : Nat) : Bead :=
  let w1 := beadWord s j va 1
  let w3 := beadWord s j va 3
  let own := bitsOf w1 16 16
  { addr := va, job := if own = 0 then j else own, sup := bitsOf w1 56 1 == 1, queue := bitsOf w1 32 13
    rank := bitsOf w1 52 4, save := beadWord s j va 2, launch := w3 / 2 ^ 32, index := w3 % 2 ^ 32
    budget := beadWord s j va 4 / 2 ^ 32, life := 0 }
/-- What a saved bead keeps beside its save area. -/
def savedAt (s : State) (j save : Nat) : Option Saved := s.hub.saved.get? (saveKey j save)

/-- The beads of a queue from a record on, the first first, at most `n` (R313). -/
def queueFrom (s : State) (j : Nat) : Nat → Nat → List Nat
  | 0, _ => []
  | n + 1, va => if va = 0 then [] else va :: queueFrom s j n (beadWord s j va 6)
/-- Bound on the beads of a queue that the model follows. -/
def queueMax : Nat := 2 ^ 20
/-- The beads of queue `q`. -/
def queueBeads (s : State) (q : Nat) : List Nat := queueFrom s (queue s q).job queueMax (queue s q).head.toNat

/-- The record before `va` in a list of records. -/
def before (va : Nat) : List Nat → Option Nat
  | p :: x :: r => if x = va then some p else before va (x :: r)
  | _ => none
/-- A bead leaves its queue, whose records the hub reads (R7, R324 step 1). -/
def unqueue (s0 : State) (q va : Nat) : State :=
  let l := queueBeads s0 q
  let j := (queue s0 q).job
  let s := l.foldl (fun s x => vSee s j x 64) s0
  if !l.contains va then s
  else
    let next := beadWord s j va 6
    let prev := before va l
    let s1 := match prev with
      | some p => setBeadWord s j p 6 next
      | none => modQueue s q fun d => { d with head := BitVec.ofNat 64 next }
    if next = 0 then modQueue s1 q fun d => { d with tail := BitVec.ofNat 64 (prev.getD 0) } else s1

/-- The core belongs to the queue's core set (R327). -/
def inCoreSet (q : Queue) (k : Nat) : Bool :=
  q.word24.getLsbD (28 + dieOf k) && q.word24.getLsbD (20 + coreNo k / 16) && q.word24.getLsbD (4 + coreNo k % 16)

/-! ### The arbiter (R315, R316, R329) -/

/-- The head bead can be dispatched at all (R315). -/
def headOk (s : State) (q : Nat) : Bool :=
  let d := queue s q
  let va := d.head.toNat
  beadState s d.job va == 1 && beadWord s d.job va 0 % 64 == 0 && beadQueue s d.job va == q
/-- The context condition of R316, and the wait of R197 for the queue of another core.  Of a bead that the hub has not saved, such as one
that was cancelled or is done, no rule says which halves its save area holds: with ARR = 1 both must be unowned (log 175). -/
def fits (s : State) (c q : Nat) : Bool :=
  let d := queue s q
  let b := beadOf s d.job d.head.toNat
  let w := beadWord s d.job b.addr 1
  let arr := bitsOf w 58 1 == 1
  let a := (s.core (coreOf c)).arr
  (!arr || bitsOf w 57 1 == slotNo c) && (bitsOf w 59 1 == 1 || match savedAt s b.job b.save with
    | none => !arr || (a.lo.isNone && a.hi.isNone)
    | some v =>
      (match v.array with
       | some x =>
         let m := slotNo v.ctx
         !(ownsLo x m || ownsHi x m) || (bitsOf w 57 1 == slotNo c && halvesFree a x (slotNo c))
       | none => true) &&
      !s.ctxs.any fun (o, x) => coreOf o != coreOf c && x.storeQ.any fun e => e.life == v.life)

/-- Some context slot's store queue still holds an entry that a bead of a life released (R197). -/
def hasQueued (s : State) (life : Nat) : Bool := s.ctxs.any fun (_, x) => x.storeQ.any fun e => e.life == life

/-- Enabled, non-empty queues whose core set contains core `k`, in queue-number order. -/
def liveQueues (s : State) (k : Nat) : List Nat :=
  (s.hub.queues.filter fun (_, d) => d.en && d.head != 0 && inCoreSet d k).map (·.1)
/-- The hub reads the record of a queue's head (R7). -/
def seeHead (s : State) (q : Nat) : State := vSee s (queue s q).job (queue s q).head.toNat 64
/-- A queue whose head bead cannot be dispatched is disabled and logged (R315, R393). -/
def dropBadHead (s : State) (q : Nat) : State :=
  let d := queue s q
  if headOk s q then s
  else logFault (modQueue s q fun d => { d with word24 := d.word24 &&& ~~~((1 : W64) <<< 59) })
    { kind := 0x07, first := d.head.toNat, detail := q, job := d.job, vf := (s.job d.job).vf }
/-- The candidates for context `c` (R329). -/
def candidates (s : State) (c : Nat) : List Nat := (liveQueues s (coreOf c)).filter fun q =>
  headOk s q && (s.job (queue s q).job).vf == (s.core (coreOf c)).vf && fits s c q
/-- BUDGET of a queue's head. -/
def headBudget (s : State) (q : Nat) : Nat := beadWord s (queue s q).job (queue s q).head.toNat 4 / 2 ^ 32
/-- Key of a rank's rotating pointer at a die's arbiter. -/
def rotateKey (die rank : Nat) : Nat := die * 16 + rank
/-- The first queue of a list at or after a pointer, wrapping from 8191 to 0. -/
def firstFrom (p : Nat) : List Nat → Option Nat
  | [] => none
  | q :: r => match firstFrom p r with
    | none => some q
    | some x => if (x + 8192 - p) % 8192 < (q + 8192 - p) % 8192 then some x else some q
/-- The largest of a list. -/
def maxOf (l : List Nat) : Nat := l.foldl Nat.max 0
/-- The queue of highest rank, then the first from its rank's pointer on. -/
def byRank (s : State) (die : Nat) (l : List Nat) : Option Nat :=
  let top := maxOf (l.map fun q => (queue s q).rank)
  firstFrom (s.hub.rotate.get (rotateKey die top) 0) (l.filter fun q => (queue s q).rank == top)
/-- The arbiter's choice among candidates (R329). -/
def chooseQueue (s : State) (die : Nat) (l : List Nat) : Option Nat :=
  let f := l.filter fun q => decide (headBudget s q ≤ (queue s q).left.toNat)
  if f.isEmpty then
    let top := maxOf (l.map fun q => (queue s q).left.toNat)
    byRank s die (l.filter fun q => (queue s q).left.toNat == top)
  else byRank s die f

/-- A context slot is idle, and no choice for it waits for its dispatch. -/
def slotIdle (s : State) (c : Nat) : Bool := (s.ctx c).run.isNone && (s.hub.chosen.get? c).isNone
/-- The arbiters dispatch (R392, R395). -/
def arbitersOn (s : State) : Bool := s.mgmt.ready && !s.mgmt.halt
/-- The number of a context slot of the module. -/
def isContext (c : Nat) : Bool := decide (c < 2 * Config.coresPerDie * Config.dies)

/-- ARBITER_CHOICE (R329): the arbiter of a die chooses a queue for an idle slot; context 0 of the core is served first. -/
def execArbiterChoice (c : Nat) (s : State) : Host.Outcome State Fault Refusal :=
  .next (
    if !arbitersOn s || !isContext c || !slotIdle s c || !s.hub.chosen.isEmpty then s
    else
      let s0 := startRound s
      let s1 := (liveQueues s0 (coreOf c)).foldl (fun s q => dropBadHead (seeHead s q) q) s0
      if slotNo c = 1 ∧ slotIdle s1 (c - 1) ∧ !(candidates s1 (c - 1)).isEmpty then s1
      else
        let die := dieOf (coreOf c)
        match chooseQueue s1 die (candidates s1 c) with
        | none => s1
        | some q => s1.modHub fun h => { h with
            chosen := h.chosen.set c q, rotate := h.rotate.set (rotateKey die (queue s1 q).rank) ((q + 1) % 8192) })

/-! ### Dispatch (R316) -/

/-- s1 to s4 at a first dispatch (R316, R326, R338). -/
def firstArgs (s : State) (b : Bead) : List Nat :=
  match s.hub.launches.get? (launchOf s b.job b.addr b.launch) with
  | none => []
  | some l => match l.kind with
    | .locket n slot => [bitsOf (s.hub.lockets.get n 0).toNat 140 52 * 4096 + 32 * slot, n]
    | .trap a v => [a, v]
    | _ => if l.args = 0 then [] else (List.range 4).map fun i => vRead s b.job (l.args + 32 * b.index + 8 * i) 8
/-- The hub reads the arguments of a bead's first dispatch (R7, R316). -/
def seeArgs (s : State) (b : Bead) : State := match s.hub.launches.get? (launchOf s b.job b.addr b.launch) with
  | some l => match l.kind with
    | .locket .. | .trap .. => s
    | _ => if l.args = 0 then s else vSee s b.job (l.args + 32 * b.index) 32
  | none => s
/-- Put values in s1 and up. -/
def setArgs (a : Arch) (l : List Nat) : Arch :=
  (l.zipIdx).foldl (fun a (x, i) => setSReg a (BitVec.ofNat 6 (i + 1)) (BitVec.ofNat 64 x)) a

/-- The state of a first dispatch (R316). -/
def firstArch (s : State) (b : Bead) : Arch :=
  setArgs { Arch.fresh with rqpos := BitVec.ofNat 64 (beadWord s b.job b.addr 7) } (firstArgs s b)

/-- A bead enters a context for the first time, as a checkpoint at its entry bundle (R316). -/
def startFirst (s : State) (c : Nat) (b : Bead) (pc : Nat) : State :=
  let (life, s1) := (seeArgs s b).fresh
  let a := firstArch s1 b
  let s2 := s1.modCtx c fun x => { x with
    run := some { b with life := life }, arch := a, shadow := a, ckpt := pc, ckptUid := s1.uid, pc := pc
    jobsel := BitVec.ofNat 16 b.job }
  setBeadWord (modArray s2 c fun r => snapArray r (slotNo c)) b.job b.addr 1
    (putBits (beadWord s2 b.job b.addr 1) 59 1 0)

/-- The registers of a saved bead's shadow set, taken from the shadow image in its save area (R341). -/
def loadShadow (s : State) (b : Bead) (a : Arch) : Arch := allRegisters.foldl (fun a code =>
  let (off, n) := registerImage code
  let kept := if code < 0x40 then (a.s.getD code 0).toNat
    else if code < 0x80 then (a.v.getD (code - 0x40) 0).toNat else (a.p.getD (code - 0x80) 0).toNat
  setRegister a code (savedNumber s b (shadowImage + off) n kept)) a
/-- Word `i` of the counter registers in a save area (R341), without the reserved bits of its register `n` (R4). -/
def counterWord (s : State) (b : Bead) (i n : Nat) (kept : W64) : W64 :=
  BitVec.ofNat 64 (savedNumber s b (0x40 + 8 * i) 8 kept.toNat) &&& controlBits n
/-- The parts of a save area that a resumption loads: the counter registers, the current image but for its registers, and the shadow image
(R7, R341). -/
def seeImages (s : State) (b : Bead) : State :=
  [(0x40, 960), (currentImage, 0x200), (currentImage + 0x500, 0x1300), (currentImage + 0x3800, 0x7800), (shadowImage, 0xB000)].foldl
    (fun s (off, n) => vSee s b.job (b.save + off) n) s
/-- The stall cycles still owed, in a save area (R310, R341); none tells that the context stands at a boundary. -/
def owedIn (s : State) (b : Bead) (kept : Option Nat) : Option Nat :=
  let n := savedNumber s b (0x40 + 8 * 18) 8 (kept.getD 0)
  if n = 0 then kept.map fun _ => 0 else some n
/-- A bead resumes (R310, R341): everything but its registers, which are fetched at their first reads (R50), is loaded from its save
area; the withhold buffer and the array, which software never writes, are those that were saved (log 13). -/
def startAgain (s0 : State) (c : Nat) (b : Bead) (pc : Nat) (v : Saved) : State :=
  let s := seeImages s0 b
  let s1 := s.modCtx c fun x => { x with
    run := some { b with life := v.life }, arch := readImage s b currentImage v.arch
    shadow := loadShadow s b (readImage s b shadowImage v.shadow), ckpt := v.ckpt, ckptUid := v.ckptUid, pc := pc
    owed := owedIn s b v.owed, withheld := v.withheld, issued := Nat.max x.issued v.issued, unfetched := allRegisters
    pendTraps := v.pendTraps, pmctl := counterWord s b 0 0x040 v.pmctl, pmlock := counterWord s b 1 0x041 v.pmlock
    pmsel := Vector.ofFn fun i => counterWord s b (2 + i.val) (0x048 + i.val) v.pmsel[i]
    pmcnt := Vector.ofFn fun i => counterWord s b (10 + i.val) (0x050 + i.val) v.pmcnt[i], jobsel := BitVec.ofNat 16 b.job
    stopSkip := v.stopSkip }
  let s2 := match v.array with
    | some a => modArray s1 c fun r => restoreHalves r a (slotNo v.ctx) (slotNo c)
    | none => s1
  let s3 := s2.modHub fun h => { h with saved := h.saved.erase (saveKey b.job b.save) }
  setBeadWord s3 b.job b.addr 1 (putBits (beadWord s3 b.job b.addr 1) 58 1 0)

/-- Entries of a write-timing buffer in an image, the first first; what the layout does not describe of them is that of a plain result
(R341; log 175). -/
def imageEntries (s : State) (b : Bead) (base pc : Nat) : List Landing :=
  ((List.range 192).takeWhile fun i => bitsOf (savedNumber s b (base + 0x3800 + 160 * i) 160 0) 1032 1 == 1).map fun _ =>
    { uid := 0, due := 0, dest := .flagsOnly, value := 0, mask := BitVec.allOnes 1024, flags := 0, enables := 0, pc := pc, slot := .s,
      load := false, waiting := false, deadline := false, faulty := none, lines := 0 }
/-- What a save area alone holds of a bead that the hub has not saved: its images and counters, with nothing withheld, its checkpoint at the
bundle of its record, and no array state (R316, R341; log 175). -/
def savedByArea (s : State) (c : Nat) (b : Bead) (pc life : Nat) : Saved :=
  { arch := { Arch.fresh with wtb := imageEntries s b currentImage pc }, shadow := { Arch.fresh with wtb := imageEntries s b shadowImage pc }
    ckpt := pc, ckptUid := s.uid, withheld := [], issued := 0, owed := none, pendTraps := [], pmctl := 0, pmlock := 0
    pmsel := Vector.replicate 8 0, pmcnt := Vector.replicate 8 0, addr := b.addr, life := life, ctx := c, array := none, stopSkip := [] }
/-- A bead whose FIRST is 0 and that the hub has not saved resumes from its save area (R310, R316, R341). -/
def startSaved (s : State) (c : Nat) (b : Bead) (pc : Nat) : State :=
  let (life, s1) := s.fresh
  startAgain s1 c b pc (savedByArea s1 c b pc life)

/-- Array state that a bead of another job left in a slot is cleared, and its halves are released (R165). -/
def enterJob (s : State) (c j : Nat) : State :=
  if (s.ctx c).slotJob = some j then s else modArray s c fun a => releaseHalves a (slotNo c)

/-- A bead moves from the head of queue `q` into context `c` (R316). -/
def dispatch (s0 : State) (c q : Nat) : State :=
  let s := seeHead s0 q
  let d := queue s q
  let b := beadOf s d.job d.head.toNat
  let pc := beadWord s d.job b.addr 0
  let first := bitsOf (beadWord s d.job b.addr 1) 59 1 == 1
  let link := beadWord s d.job b.addr 6
  let s1 := setBeadState (modQueue s q fun d => { d with head := BitVec.ofNat 64 link }) d.job b.addr 2
  let s2 := (enterJob s1 c b.job).modCore (coreOf c) fun k => { k with icache := [] }
  match first, savedAt s2 b.job b.save with
  | true, _ => startFirst s2 c b pc
  | false, some v => startAgain s2 c b pc v
  | false, none => startSaved s2 c b pc

/-- BEAD_DISPATCH (R316, R329, R392): the head bead of the chosen queue enters the slot, unless the arbiters have been stopped; a choice
that no longer holds is dropped. -/
def execBeadDispatch (c : Nat) (s : State) : Host.Outcome State Fault Refusal :=
  .next (match s.hub.chosen.get? c with
    | none => s
    | some q =>
      let s1 := s.modHub fun h => { h with chosen := h.chosen.erase c }
      if !arbitersOn s then s
      else if (s1.ctx c).run.isSome || (queue s1 q).head == 0 || !headOk s1 q || !fits s1 c q then s1 else dispatch s1 c q)

/-- ROUND_START (R328). -/
def execRoundStart (s : State) : Host.Outcome State Fault Refusal := .next (startRound s)

/-! ### Launches (R318 to R320) -/

/-- Word `i` of a launch descriptor (R318). -/
def descWord (s : State) (j desc i : Nat) : Nat := vRead s j (desc + 8 * i) 8
/-- The job of a template's beads (R319). -/
def templateJob (s : State) (j t : Nat) : Nat :=
  let own := bitsOf (beadWord s j t 1) 16 16
  if own = 0 then j else own

/-- Write a bead as a copy of a template (R319, R402), for the job of the bead, with its queue. -/
def makeBead (s : State) (j t rec save lid idx : Nat) (q : Nat) : State :=
  let bj := templateJob s j t
  let w (i : Nat) : Nat := beadWord s j t i
  let w1 := putBits (putBits (putBits (putBits (w 1) 60 4 1) 59 1 1) 16 16 bj) 32 13 q
  let words := [w 0, w1, save % 2 ^ 64, idx % 2 ^ 32 + lid % 2 ^ 32 * 2 ^ 32, w 4, w 5, 0, w 7]
  words.zipIdx.foldl (fun s (x, i) => setBeadWord s bj rec i x) s

/-- Beads `i` up of a launch are written and join the queue, in index order (R319 steps 3 and 4). -/
def makeBeads (j t beads sbase stride lid q : Nat) : Nat → Nat → State → State
  | 0, _, s => s
  | n + 1, i, s =>
    let rec_ := beads + 64 * i
    let s1 := makeBead s j t rec_ (sbase + stride * i) lid i q
    makeBeads j t beads sbase stride lid q n (i + 1) (enqueue s1 q (templateJob s j t) rec_)

/-- A node of a graph has completed, and the walker will count it (R323). -/
def finishNode (s : State) (g j : Nat) (canc : Bool) : State := match s.hub.graphs.get? g with
  | none => s
  | some x => s.modHub fun h => { h with graphs := h.graphs.set g { x with finished := x.finished ++ [(j, canc)] } }

/-- A launch stays known until each of its beads has counted. -/
def keepLaunch (s : State) (lid : Nat) (l : Launch) : State := s.modHub fun h => { h with
  launches := if l.ended && decide (l.n ≤ l.count) then h.launches.erase lid else h.launches.set lid l }
/-- A launch completes (R321): what it belongs to is told.  A graph node's launch counts as cancelled as soon as any of its beads has been,
which R324 does not settle for a cancel of one bead (log 161, DESIGN CHOICE). -/
def completeLaunch (s : State) (lid : Nat) (l : Launch) : State :=
  let s1 := keepLaunch s lid { l with ended := true }
  match l.kind with
  | .node g j => finishNode s1 g j l.cancelled
  | .locket n slot => s1.modHub fun h => { h with handlersDone := h.handlersDone ++ [(n, slot)] }
  | _ => s1

/-- The count of a launch: the word at its CCNT, or the count of the hub where CCNT is 0 (R320, R321) or names no word that can be read
(R7, R223). -/
def launchCount (s : State) (l : Launch) : Nat := if l.ccnt = 0 then l.count else vReadOr s l.job l.ccnt 8 l.count % 2 ^ 63
/-- The hub reads the counter of a launch (R7). -/
def seeCount (s : State) (l : Launch) : State := if l.ccnt = 0 then s else vSee s l.job l.ccnt 8
/-- Every launch whose count has reached N completes (R321), whatever has advanced its counter. -/
def settleLaunches (s : State) : State := s.hub.launches.foldl (fun s (lid, l) =>
  if l.ended then s
  else
    let s1 := seeCount s l
    if l.n ≤ launchCount s1 l then completeLaunch s1 lid l else s1) s
/-- A bead of a launch completes or is cancelled (R320, R321, R324 step 4). -/
def advanceLaunch (s : State) (lid : Nat) (canc : Bool) : State := match s.hub.launches.get? lid with
  | none => s
  | some l =>
    let s1 := if l.ccnt = 0 then s else vAtom s l.job l.ccnt 8 (advanceCount canc)
    settleLaunches (keepLaunch s1 lid { l with count := l.count + 1, cancelled := l.cancelled || canc })

/-- The hub reads a launch descriptor and its template (R7, R318). -/
def seeLaunch (s : State) (j desc : Nat) : State := vSee (vSee s j desc 64) j (descWord s j desc 0) 64
/-- A launch starts (R319, R375). -/
def startLaunch (s0 : State) (j desc : Nat) (kind : LaunchKind) : State :=
  let s := seeLaunch s0 j desc
  let w (i : Nat) : Nat := descWord s j desc i
  let t := w 0
  let n := w 1 / 2 ^ 32
  let id := s.hub.launchId + 1
  let lid := id.toNat
  let ccnt := w 6
  let l : Launch :=
    { job := j, beadJob := templateJob s j t, desc := desc, n := n, ccnt := ccnt, args := w 5, count := 0
      cancelled := false, kind := kind, beads := w 2, ended := false }
  let s1 := vWrite (s.modHub fun h => { h with launchId := id, launches := h.launches.set lid l }) j (desc + 8) 8
    (n * 2 ^ 32 + lid)
  let s2 := if ccnt = 0 then s1 else vAtom (vAtom s1 j ccnt 8 fun _ => 0) j (ccnt + 8) 8 fun _ => 0
  if n = 0 then completeLaunch s2 lid l
  else makeBeads j t (w 2) (w 3) (w 4 % 2 ^ 32) lid (beadQueue s j t) n 0 s2

/-! ### Handler instances (R402) -/

/-- Record of instance `i` of a template. -/
def instanceRec (t i : Nat) : Nat := t + 64 * (1 + i)
/-- The lowest-numbered free instance of a trap handler's template (R402). -/
def freeInstance (s : State) (j t : Nat) : Option Nat :=
  let h := Nat.max 1 (beadWord s j t 3 % 2 ^ 32)
  (List.range h).find? fun i => (beadState s (templateJob s j t) (instanceRec t i)) ∈ [0, 4, 5]

/-- The queue that a handler's bead joins: the locket's, or the template's (R325, R338). -/
def handlerQueue (s : State) (j t : Nat) : LaunchKind → Nat
  | .locket n _ => bitsOf (s.hub.lockets.get n 0).toNat 192 13
  | _ => beadQueue s j t
/-- A handler starts in instance `i` (R402): a one-bead launch without a descriptor. -/
def startInstance (s0 : State) (j t i : Nat) (kind : LaunchKind) (launch : Nat) : State :=
  let s := vSee s0 j t 64
  let id := s.hub.launchId + 1
  let q := handlerQueue s j t kind
  let bj := templateJob s j t
  let rec_ := instanceRec t i
  let l : Launch :=
    { job := j, beadJob := bj, desc := 0, n := 1, ccnt := 0, args := 0, count := 0, cancelled := false, kind := kind
      beads := rec_, ended := false }
  let s1 := s.modHub fun h => { h with launchId := id, launches := h.launches.set id.toNat l }
  let s2 := makeBead s1 j t rec_ (beadSave s j t + 0x240000 * i) (if launch = 0 then id.toNat else launch) i q
  enqueue s2 q bj rec_

/-- LAUNCH_START (R319, R402): the oldest launch that waits starts; a trap handler without a free instance waits at the hub. -/
def execLaunchStart (s : State) : Host.Outcome State Fault Refusal :=
  .next (match s.hub.starts with
    | [] => s
    | x :: r =>
      let s1 := s.modHub fun h => { h with starts := r }
      match x with
      | .launch j desc kind => startLaunch s1 j desc kind
      | .handler j t kind (some i) _ lid => startInstance s1 j t i kind lid
      | .handler _ _ _ none _ _ => s1.modHub fun h => { h with handlerWait := h.handlerWait ++ [x] })

/-- The first waiting handler whose template has a free instance: of each template only the oldest is served (R402). -/
def takeHandler (s : State) : List (Nat × Nat) → List Start → Option ((Start × Nat) × List Start)
  | _, [] => none
  | seen, x :: r =>
    let skip (seen : List (Nat × Nat)) := match takeHandler s seen r with
      | none => none
      | some (y, rest) => some (y, x :: rest)
    match x with
    | .launch .. => skip seen
    | .handler j t _ _ _ _ =>
      if seen.contains (j, t) then skip seen
      else match freeInstance s j t with
        | some i => some ((x, i), r)
        | none => skip ((j, t) :: seen)

/-- The hub reads a handler's template and the records of its instances (R7, R402). -/
def seeInstances (s : State) (j t : Nat) : State :=
  let s1 := vSee s j t 64
  (List.range (Nat.max 1 (beadWord s1 j t 3 % 2 ^ 32))).foldl (fun s i => vSee s (templateJob s j t) (instanceRec t i) 64) s1
/-- The hub reads the templates and instances of the handlers that wait. -/
def seeHandlers (s : State) : State := s.hub.handlerWait.foldl (fun s x => match x with
  | .handler j t .. => seeInstances s j t
  | .launch .. => s) s
/-- HANDLER_INSTANCE_START (R402). -/
def execHandlerInstanceStart (s0 : State) : Host.Outcome State Fault Refusal :=
  let s := seeHandlers s0
  .next (match takeHandler s [] s.hub.handlerWait with
    | some ((.handler j t kind _ _ lid, i), r) =>
      startInstance (s.modHub fun h => { h with handlerWait := r }) j t i kind lid
    | _ => s)

/-! ### Completion (R197, R349) -/

/-- BEAD_COMPLETE (R197, R321, R374): a bead that issued `done` completes once its queue has drained. -/
def execBeadComplete (i : Nat) (s : State) : Host.Outcome State Fault Refusal :=
  .next (match s.hub.completing[i]? with
    | none => s
    | some x =>
      if hasQueued s x.life then s
      else
        let s1 := s.modHub fun h => { h with
          completing := h.completing.eraseIdx i, pmDefer := h.pmDefer.filter fun e => e.1 != x.life }
        advanceLaunch s1 x.launch false)

/-- LOCKET_HANDLER_COMPLETE (R326): INUSE decreases. -/
def execLocketHandlerComplete (i : Nat) (s : State) : Host.Outcome State Fault Refusal :=
  .next (match s.hub.handlersDone[i]? with
    | none => s
    | some (n, _) => s.modHub fun h =>
        let x := (h.lockets.get n 0).toNat
        { h with
          handlersDone := h.handlersDone.eraseIdx i
          lockets := h.lockets.set n (BitVec.ofNat 256 (putBits x 224 16 (bitsOf x 224 16 - 1))) })

/-- WAIT_WAKE (R317, R348): a waiting bead whose condition has come to hold joins the tail of its queue; WOP shows that its wait is
over. -/
def execWaitWake (i : Nat) (s : State) : Host.Outcome State Fault Refusal :=
  .next (match (markWaiters s).hub.waiters[i]? with
    | some (j, va, true) => makeReady ((markWaiters s).modHub fun h => { h with waiters := h.waiters.eraseIdx i }) j va
    | _ => s)

/-! ### Graphs (R322, R323) -/

/-- Address of node `j` of a graph. -/
def nodeVa (desc j : Nat) : Nat := desc + 32 + 32 * j
/-- Word `i` of node `j` (R322). -/
def nodeWord (s : State) (x : Graph) (j i : Nat) : Nat := vRead s x.job (nodeVa x.desc j + 8 * i) 8
/-- NNODES. -/
def nodesOf (s : State) (x : Graph) : Nat := vRead s x.job x.desc 8 % 65536
/-- GCNT. -/
def graphCounter (s : State) (x : Graph) : Nat := vRead s x.job (x.desc + 8) 8
/-- PCNT. -/
def phaseCounter (s : State) (x : Graph) : Nat := vRead s x.job (x.desc + 16) 8

/-- Bytes of a copy as moves, in runs within 64 KiB granules and lines; an untranslated byte is left out. -/
def copyMoves (s : State) (j : Nat) : Nat → Nat → Nat → Nat → List Move
  | 0, _, _, _ => []
  | fuel + 1, src, dst, n =>
    if n = 0 then []
    else
      let k := Nat.min n (Nat.min (128 - src % 128) (128 - dst % 128))
      let rest := copyMoves s j fuel (src + k) (dst + k) (n - k)
      match translateHub s j src, translateHub s j dst with
      | some (a, _), some (b, _) => { dst := b * 8, src := a * 8, n := 8 * k, lit := none } :: rest
      | _, _ => rest
/-- Leaves of the granules of `n` bytes. -/
def copyLeaves (s : State) (j va n : Nat) : List (Nat × W64) :=
  (List.range (n / 2 ^ 16 + 2)).filterMap fun i => match translateHub s j (Nat.min (va / 2 ^ 16 * 2 ^ 16 + 2 ^ 16 * i) (va + n - 1)) with
    | some (pa, e) => some (pa / 2 ^ 16, e)
    | none => none

/-- The walker stops a graph (R323): CANCELLED in GCNT, and a fault-log entry. -/
def stopGraph (s : State) (g : Nat) (x : Graph) (j : Nat) : State :=
  let s1 := vAtom s x.job (graphCounter s x) 8 markCancelled
  logFault (s1.modHub fun h => { h with graphs := h.graphs.erase g })
    { kind := 0x08, first := x.desc, detail := j, job := x.job, vf := (s.job x.job).vf }
/-- Some byte of a copy lies on another module, and its job has no fabric right (R379). -/
def copyBarred (s : State) (j : Nat) (l : List Move) : Bool :=
  !(s.job j).fab && l.any fun m => paAgent (m.dst / 8) / 4 != s.pos || paAgent (m.src / 8) / 4 != s.pos

/-- A node runs (R323): it starts its launch, copies, or completes at once when empty.  The pieces of a copy act for the agent of the
walker's die, which no rule names (log 133); a copy that its job may not make stops the graph (R379; log 144). -/
def runNode (s : State) (g : Nat) (x : Graph) (j : Nat) : State :=
  let body := nodeWord s x j 1
  match bitsOf (nodeWord s x j 0) 56 8 with
  | 1 => pushStart s (.launch x.job body (.node g j))
  | 2 =>
    let src := vRead s x.job body 8
    let dst := vRead s x.job (body + 8) 8
    let n := vRead s x.job (body + 16) 8
    let l := copyMoves s x.job (n / 64 + 3) src dst n
    let t : Transfer :=
      { uid := 0, ctx := none, life := 0, job := x.job, agent := 4 * s.pos + x.die, pc := 0, kind := .graphCopy g j, order := 0
        tiles := [], pieces := piecesOf true l, after := 0, counter := none
        pins := [(x.job, src, n), (x.job, dst, n)], leaves := copyLeaves s x.job dst n ++ copyLeaves s x.job src n }
    if copyBarred s x.job l then stopGraph s g x j else startTransfer s t
  | _ => finishNode s g j false

/-- LEFT of a node's first word goes down, unless it is 0. -/
def lessLeft (v : Nat) : Nat := if bitsOf v 0 16 = 0 then v else putBits v 0 16 (bitsOf v 0 16 - 1)
/-- LEFT of a node goes down by one atom step (R206, R323): what it held before, and the state; a word that cannot be read holds 0. -/
def takeLeft (s : State) (x : Graph) (j : Nat) : Nat × State :=
  let (old, s1) := vAtomOld s x.job (nodeVa x.desc j) 8 lessLeft
  (bitsOf (old.getD 0) 0 16, s1)
/-- LEFT := PRED for every node, each by an atom step on the word that holds both (R206, R323). -/
def resetLefts (x : Graph) : Nat → State → State
  | 0, s => s
  | n + 1, s => vAtom (resetLefts x n s) x.job (nodeVa x.desc n) 8 fun v => putBits v 0 16 (bitsOf v 16 16)
/-- The walker reads a node's 32 bytes (R7, R322). -/
def seeNode (s : State) (x : Graph) (j : Nat) : State := vSee s x.job (nodeVa x.desc j) 32
/-- Run the nodes without predecessors, in node order. -/
def runFirst (g : Nat) (x : Graph) : List Nat → State → State
  | [], s => s
  | j :: r, s0 =>
    let s := seeNode s0 x j
    runFirst g x r (if bitsOf (nodeWord s x j 0) 16 16 = 0 then runNode s g x j else s)

/-- GRAPH_START (R323). -/
def execGraphStart (die job desc : Nat) (s : State) : Host.Outcome State Fault Refusal :=
  .next (if Config.dies ≤ die then s
    else
      let x : Graph := { die := die, job := job, desc := desc, finished := [], gone := [], cancelled := false }
      let (g, s1) := s.fresh
      let s2 := s1.modHub fun h => { h with graphs := h.graphs.set g x }
      let n := nodesOf s2 x
      let s3 := vAtom (resetLefts x n (vSee s2 job desc 32)) job (graphCounter s2 x) 8 fun _ => 0
      runFirst g x (List.range n) s3)

/-- Successors of a completed node, in array order (R323, R324): LEFT goes down; a successor of a cancelled node does not run and
counts as complete and cancelled. -/
def successors (g : Nat) (canc : Bool) : List Nat → State → State
  | [], s => s
  | j :: r, s => match s.hub.graphs.get? g with
    | none => s
    | some x =>
      let (left, s1) := if nodesOf s x ≤ j then (0, s) else takeLeft s x j
      if left = 0 then stopGraph s1 g x j
      else
        successors g canc r (
          if x.gone.contains j then s1
          else if canc then
            s1.modHub fun h => { h with
              graphs := h.graphs.set g { x with gone := x.gone ++ [j], finished := x.finished ++ [(j, true)] } }
          else if left = 1 then runNode (seeNode s1 x j) g x j
          else s1)

/-- The graph completes when GCNT reaches NNODES; its phase counter goes up (R321, R323). -/
def closeGraph (s : State) (g : Nat) : State := match s.hub.graphs.get? g with
  | none => s
  | some x =>
    if vRead s x.job (graphCounter s x) 8 % 2 ^ 63 = nodesOf s x then
      let s1 := s.modHub fun h => { h with graphs := h.graphs.erase g }
      if phaseCounter s x = 0 then s1 else vAtom s1 x.job (phaseCounter s x) 8 (advanceCount false)
    else s

/-- The first mark of a node, and the others. -/
def takeNode (j : Nat) : List (Nat × Bool) → Option (Bool × List (Nat × Bool))
  | [] => none
  | (k, b) :: r =>
    if k = j then some (b, r)
    else match takeNode j r with
      | none => none
      | some (y, rest) => some (y, (k, b) :: rest)

/-- GRAPH_NODE_COMPLETE (R323, R324). -/
def execGraphNodeComplete (g j : Nat) (s : State) : Host.Outcome State Fault Refusal :=
  .next (match s.hub.graphs.get? g with
    | none => s
    | some x => match takeNode j x.finished with
      | none => s
      | some (canc, rest) =>
        let s1 := vAtom (s.modHub fun h => { h with graphs := h.graphs.set g { x with finished := rest } }) x.job
          (graphCounter s x) 8 (advanceCount false)
        let s2 := seeNode s1 x j
        let w := nodeWord s2 x j 0
        let succ := (List.range (bitsOf w 32 16)).map fun i => vRead s1 x.job (nodeWord s1 x j 2 + 2 * i) 2
        closeGraph (successors g (canc || x.cancelled) succ (vSee s2 x.job (nodeWord s2 x j 2) (2 * bitsOf w 32 16))) g)

/-! ### Lockets (R325, R326, R353, R376, R391, R397) -/

/-- Byte 10 of a capture record (R376). -/
def mailCode : MailSource → Nat
  | .host _ | .physicalFunction => 0
  | .peer _ => 1
  | .bead _ | .unit _ => 2
/-- One record in the capture ring of the locket's job (R376; the ring's form is log 18). -/
def capture (s : State) (j n : Nat) (msg : BitVec 256) (src : MailSource) (dropped : Bool) : State :=
  let x := s.job j
  if !x.capture then s
  else
    let r := s.hub.timebase.toNat + n * 2 ^ 64 + mailCode src * 2 ^ 80 + (if dropped then 1 else 0) * 2 ^ 88 + msg.toNat * 2 ^ 256
    (hubWrite s 0 (sharedPa (x.ring + 64 * x.captured)) 64 r).modJob j fun x => { x with captured := x.captured + 1 }
/-- The message does not reach a locket of its own (R326, R353, R391).  VF names a virtual function, from which the physical function differs
always; only the management locket is its own (R397). -/
def foreignMail (x : Nat) : MailSource → Bool
  | .host vf => bitsOf x 48 6 != vf
  | .physicalFunction => true
  | .unit _ => false
  | .peer j | .bead j => bitsOf x 32 16 != j

/-- A locket message arrives (R326). -/
def arrive (s : State) (n : Nat) (msg : BitVec 256) (src : MailSource) : State :=
  let x := (s.hub.lockets.get n 0).toNat
  let j := bitsOf x 32 16
  let logd := bitsOf x 128 4
  let inuse := bitsOf x 224 16
  if bitsOf x 63 1 = 0 ∨ 7 < logd ∨ (s.job j).cancelled ∨ foreignMail x src then
    capture (logFault s { kind := 0x09, first := 32 * n, detail := n, job := j, vf := if bitsOf x 63 1 = 0 then 0xFF else bitsOf x 48 6 })
      j n msg src true
  else if inuse = 2 ^ logd then
    let drops := bitsOf x 240 16
    capture (s.modHub fun h => { h with lockets := h.lockets.set n (BitVec.ofNat 256 (putBits x 240 16 (sat 0xFFFF (drops + 1)))) })
      j n msg src true
  else
    let slot := bitsOf x 208 16 % 2 ^ logd
    let x1 := putBits (putBits x 208 16 ((slot + 1) % 2 ^ logd)) 224 16 (inuse + 1)
    let s1 := vWrite s j (bitsOf x 140 52 * 4096 + 32 * slot) 32 msg.toNat
    let s2 := s1.modHub fun h => { h with lockets := h.lockets.set n (BitVec.ofNat 256 x1) }
    pushStart (capture s2 j n msg src false) (.handler j (bitsOf x 64 64) (.locket n slot) (some slot) false 0)

/-- The oldest message on its way to a locket, and the others. -/
def takeMail (n : Nat) : List Mail → Option (Mail × List Mail)
  | [] => none
  | m :: r =>
    if m.locket = n then some (m, r)
    else match takeMail n r with
      | none => none
      | some (y, rest) => some (y, m :: rest)

/-- A message reaches locket `n`.  Locket 0xFFFF is the management locket: only the physical function writes it, and the management
processor serves it (R397). -/
def mailTo (s : State) (n : Nat) (msg : BitVec 256) (src : MailSource) : State :=
  if n = 0xFFFF then match src with
    | .physicalFunction => s.modHub fun h => { h with resync := h.resync ++ [msg] }
    | _ => logFault s { kind := 0x09, first := 32 * n, detail := n }
  else arrive s n msg src
/-- LOCKET_MESSAGE (R326, R397): a message of the host or of a peer arrives, or the oldest one that this module has sent to the
locket. -/
def execLocketMessage (n : Nat) (msg : BitVec 256) (src : MailSource) (s : State) : Host.Outcome State Fault Refusal :=
  .next (
    if 65536 ≤ n then s
    else match src with
      | .bead _ | .unit _ => match takeMail n s.hub.mail with
        | some (m, r) => if m.msg = msg ∧ m.src = src then mailTo (s.modHub fun h => { h with mail := r }) n msg src else s
        | none => s
      | .peer _ => mailTo (countFabric s evFabRx) n msg src
      | .host _ | .physicalFunction => mailTo s n msg src)

/-! ### The host at its functions (R325, R391, R392) -/

/-- Who a function is. -/
def functionOf : Option Nat → MailSource
  | some vf => .host vf
  | none => .physicalFunction
/-- A write of a function's locket window: 32 bytes on a 32-byte boundary are a message, any other write is dropped and logged (R325,
R391, R393). -/
def writeLocket (s : State) (vf : Option Nat) (off : Nat) (bytes : List Byte) : State :=
  if bytes.length = 32 ∧ off % 32 = 0 ∧ off < 2 ^ 21 then mailTo s (off / 32) (BitVec.ofNat 256 (bytesToNat bytes)) (functionOf vf)
  else logFault s { kind := 0x0F, first := off, detail := bytes.length, vf := vf.getD 0xFF }
/-- The fields of a locket entry that are not reserved (R325). -/
def locketFields : BitVec 256 := BitVec.ofNat 256 (
  (0x803FFFFF00000000 : Nat) + (2 ^ 64 - 1) * 2 ^ 64 + (2 ^ 64 - 1 - 0xFF0) * 2 ^ 128 + (2 ^ 64 - 1 - 0xE000) * 2 ^ 192)
/-- The host acts (R325, R391, R392): through BAR0 it writes any register of the management window that the window lets it write. -/
def hostAct (s : State) : HostAct → State
  | .bar0 off bytes => mgmtWrite s (bytes.zipIdx.map fun (b, i) => (off + i, b))
  | .bar2 vf off bytes => writeLocket s vf off bytes
  | .register n x =>
    if n < 0xFFFF then s.modHub fun h => { h with lockets := h.lockets.set n (x &&& locketFields) } else s
/-- What the host does up to now (R391, R392), at most `n` acts. -/
def hostActs : Nat → State → State
  | 0, s => s
  | n + 1, s => match s.hostIn with
    | (t, a) :: r => if t ≤ s.hub.timebase.toNat then hostActs n (hostAct { s with hostIn := r } a) else s
    | [] => s

/-! ### Preemption (R310, R317, R324, R372) -/

/-- Nothing that a landing-part entry waits for is on its way (R310 step 2); a withheld atomic has not begun (R208). -/
def settled (x : Ctx) : Bool := x.arch.wtb.all fun l => !l.waiting || l.deadline
/-- The context stops here for a preemption: for an overrun only at a bundle boundary (R310, R317). -/
def stopsHere (x : Ctx) : Bool := match x.preempt with
  | none => false
  | some .overrun => x.owed.isNone
  | some _ => true

/-- BUDGET_OVERRUN (R317). -/
def execBudgetOverrun (c : Nat) (s : State) : Host.Outcome State Fault Refusal :=
  .next (match (s.ctx c).run with
    | none => s
    | some b =>
      if b.budget < (s.ctx c).spent ∧ (s.ctx c).preempt.isNone then s.modCtx c fun x => { x with preempt := some .overrun }
      else s)

/-- WORLD_SWITCH (R310): every context of the core that runs a bead of another virtual function is to be preempted, if it is not
already. -/
def execWorldSwitch (k vf : Nat) (s : State) : Host.Outcome State Fault Refusal :=
  .next (
    if Config.coresPerDie * Config.dies ≤ k then s
    else [2 * k, 2 * k + 1].foldl (fun s c => match (s.ctx c).run with
      | some b =>
        if (s.job b.job).vf = vf ∨ (s.ctx c).preempt.isSome then s else s.modCtx c fun x => { x with preempt := some .worldSwitch }
      | none => s) (s.modCore k fun x => { x with vf := vf }))

/-- A KIND 01 comparator of the core stops the bead before the bundle at its pc (R372). -/
def debugStops (s : State) (c : Nat) : Bool := (stopsAt s c).any fun i => !(skipped (s.ctx c)).contains i

/-- The context stands before its next bundle: no stall cycle is owed (R58, R310). -/
def beforeBundle (x : Ctx) : Bool := x.owed.getD 0 == 0
/-- DEBUG_STOP (R372): the bead is to be preempted before its bundle. -/
def execDebugStop (c : Nat) (s : State) : Host.Outcome State Fault Refusal :=
  .next (if (s.ctx c).run.isSome && (s.ctx c).preempt.isNone && beforeBundle (s.ctx c) && debugStops s c then
      s.modCtx c fun x => { x with preempt := some .debugStop }
    else s)

/-- The trap record of a cancel (R340, R343). -/
def cancelRecord (s : State) (b : Bead) (pc cc : Nat) : State :=
  vWrite s b.job b.save 64 (trapRecord (Cause.plain .cancel none 0 cc 0) pc b.launch b.index)
/-- A bead's launch counts its cancel (R324 step 4). -/
def countCancel (s : State) (b : Bead) : State := advanceLaunch s (launchOf s b.job b.addr b.launch) true

/-- A running bead has become cancelled: its withheld entries go, its slot empties, and the halves that it owns are released, for it
never resumes (R164, R324, R343). -/
def leaveCancelled (s0 : State) (c : Nat) (b : Bead) : State :=
  let s := leaveFreeze s0 c
  let x := s.ctx c
  let s1 := cancelRecord (charge (addEnergy (writeBack s b x.pc 5) b) b.queue x.spent) b x.pc x.arch.cc
  let s2 := s1.modCtx c fun x => { vacate x with slotJob := some b.job }
  countCancel (modArray (endLife s2 b.life) c fun a => forgetSnaps (releaseHalves a (slotNo c)) (slotNo c)) b

/-- FORCED_PREEMPTION (R310): the context has stopped and its landing data has arrived, which a cancelled bead does not need (R200); the
bead is saved and leaves.  Until the data has arrived the context stays frozen (R48, R310 step 2). -/
def execForcedPreemption (c : Nat) (s : State) : Host.Outcome State Fault Refusal :=
  .next (
    let x := s.ctx c
    match x.run, x.preempt with
    | some b, some why =>
      if !stopsHere x then s
      else if why != .cancelled && !settled x then waitFrozen s c
      else match why with
        | .cancelled => leaveCancelled s c b
        | .worldSwitch => enqueue (writeBack (saveBead s c b) b x.pc 1) b.queue b.job b.addr
        | .overrun =>
          let s1 := writeBack (saveBead s c b) b x.pc 1
          let w := beadWord s1 b.job b.addr 1
          enqueue (setBeadWord s1 b.job b.addr 1 (putBits w 0 16 (sat 0xFFFF (bitsOf w 0 16 + 1)))) b.queue b.job b.addr
        | .debugStop =>
          let s1 := saveBead (s.modCtx c fun x => { x with stopSkip := Table.set x.stopSkip x.pc (skipped x ++ stopsAt s c) }) c b
          let s2 := vWrite s1 b.job b.save 64 (trapRecord (Cause.plain .brk none x.pc x.arch.cc 0) x.pc b.launch b.index)
          setBeadWop (writeBack s2 b x.pc 3) b.job b.addr 3
    | _, _ => s)

/-! ### Cancel (R324, R343, R354) -/

/-- Records that a cancel of launch `lid` acts on, job and address: those whose beads still belong to it (R313, R321, R324). -/
def launchBeads (s : State) (lid : Nat) (l : Launch) : List (Nat × Nat) :=
  ((List.range l.n).map fun i => (l.beadJob, l.beads + 64 * i)).filter fun (j, va) =>
    launchOf s j va (beadWord s j va 3 / 2 ^ 32) == lid
/-- Every bead of a job: running, saved, queued, or with its issue over and entries of its still queued (R197). -/
def jobBeads (s : State) (n : Nat) : List (Nat × Nat) :=
  ((s.ctxs.filterMap fun (_, x) => match x.run with
      | some b => if b.job = n then some (n, b.addr) else none
      | none => none) ++
    (s.hub.saved.filterMap fun (k, v) => if k / 2 ^ 64 = n then some (n, v.addr) else none) ++
    (s.hub.completing.filterMap fun x => if x.job = n then some (n, x.addr) else none) ++
    ((s.hub.queues.filter fun (_, d) => d.job == n).flatMap fun (q, _) => (queueBeads s q).map fun va => (n, va))).eraseDups
/-- Launches of the nodes of a graph. -/
def graphLaunches (s : State) (g : Nat) : Table Launch := s.hub.launches.filter fun (_, l) => match l.kind with
  | .node h _ => h == g
  | _ => false

/-- A bead whose issue is over, and whose queued entries are not, is cancelled: it completes all the same, and a wait of its `cacq` ends (R200,
R324; log 98). -/
def endCompleting (s : State) (j va : Nat) : State :=
  (s.hub.completing.filter fun x => x.job == j && x.addr == va).foldl (fun s x => endLife s x.life) s
/-- One bead becomes cancelled, or is to be preempted for it (R324 steps 1 and 2). -/
def cancelBead (s0 : State) (p : Nat × Nat) : State :=
  let (j, va) := p
  let s := vSee s0 j va 64
  let st := beadState s j va
  let b := beadOf s j va
  let out (s : State) : State :=
    let (cc, t) := match savedAt s b.job b.save with
      | some v => (v.arch.cc, endLife s v.life)
      | none => (0, s)
    let s1 := cancelRecord (setBeadWop (setBeadState t j va 5) j va 0) b (beadWord s j va 0) cc
    countCancel (s1.modHub fun h => { h with
      saved := h.saved.erase (saveKey b.job b.save), waiters := h.waiters.filter fun w => !(w.1 == j && w.2.1 == va) }) b
  match st with
  | 1 => out (unqueue s b.queue va)
  | 2 =>
    let mine (x : Ctx) : Bool := match x.run with
      | some r => r.job == b.job && r.addr == va
      | none => false
    (s.ctxs.filter fun (_, x) => mine x).foldl (fun s (c, x) => match x.run with
      | some r => endLife (s.modCtx c fun x => { x with preempt := some .cancelled }) r.life
      | none => s) s
  | 3 => out s
  | 4 => endCompleting s j va
  | _ => s

/-- CANCELLED in the counters of a graph, up to the cancelled level (R324 step 4): 2 graph, 3 phase, 4 job. -/
def markGraph (level : Nat) (s : State) (p : Nat × Graph) : State :=
  let (g, x) := p
  let s1 := vAtom s x.job (graphCounter s x) 8 markCancelled
  let s2 := if 3 ≤ level ∧ phaseCounter s x ≠ 0 then vAtom s1 x.job (phaseCounter s x) 8 markCancelled else s1
  let s3 := if 4 ≤ level ∧ (s.job x.job).jcnt ≠ 0 then vAtom s2 x.job (s.job x.job).jcnt.toNat 8 markCancelled else s2
  s3.modHub fun h => { h with
    graphs := h.graphs.set g { x with cancelled := true }
    starts := h.starts.filter fun y => match y with
      | .launch _ _ (.node k _) => k != g
      | _ => true }

/-- Nodes whose launches have not started when their graph is cancelled count as cancelled (R324). -/
def unstarted (s : State) (g : Nat) : List Nat := s.hub.starts.filterMap fun y => match y with
  | .launch _ _ (.node k j) => if k = g then some j else none
  | _ => none

/-- Cancel graphs at a level. -/
def cancelGraphs (level : Nat) (l : List (Nat × Graph)) (s : State) : State :=
  l.foldl (fun s p =>
    let w := unstarted s p.1
    let s1 := w.foldl (fun s j => finishNode s p.1 j true) (match s.hub.graphs.get? p.1 with
      | some x => markGraph level s (p.1, x)
      | none => s)
    ((graphLaunches s1 p.1).flatMap fun (lid, l) => launchBeads s1 lid l).foldl cancelBead s1) s

/-- The launches of a job that have been asked for and have not started: they start, so that the cancel counts their beads and their
counters wake their waiters (R324); handlers that wait go. -/
def startPending (s : State) (n : Nat) : State :=
  let mine : Start → Bool
    | .launch j _ _ => j == n
    | .handler j _ _ _ _ _ => j == n
  let l := s.hub.starts.filter mine
  l.foldl (fun s x => match x with
    | .launch j desc kind => startLaunch s j desc kind
    | .handler j t kind (some i) _ lid => startInstance s j t i kind lid
    | .handler _ _ _ none _ _ => s)
    (s.modHub fun h => { h with
      starts := h.starts.filter fun x => !mine x, handlerWait := h.handlerWait.filter fun x => !mine x })
/-- CANCELLED in the job counter (R324 step 4; log 115). -/
def markJob (s : State) (n : Nat) : State :=
  if (s.job n).jcnt = 0 then s else vAtom s n (s.job n).jcnt.toNat 8 markCancelled

/-- A kill also disables the job's queues and lockets, unbinds its tables and releases array halves (R165, R343). -/
def killJob (s : State) (n : Nat) : State :=
  let s1 := (s.modJob n fun j => { j with cancelled := true }).modHub fun h => { h with
    queues := List.map (fun (p : Nat × Queue) =>
      if p.2.job = n then (p.1, { p.2 with word24 := p.2.word24 &&& ~~~((1 : W64) <<< 59) }) else p) h.queues
    lockets := List.map (fun (p : Nat × BitVec 256) =>
      if bitsOf p.2.toNat 32 16 = n && p.1 != 0xFFFF then (p.1, p.2 &&& ~~~((1 : BitVec 256) <<< 63)) else p) h.lockets }
  let s2 := { s1 with pred := List.map (fun (p : Nat × Predictor) =>
    if p.2.job = n then (p.1, { p.2 with bound := false }) else p) s1.pred }
  s2.ctxs.foldl (fun s (c, x) =>
    if x.slotJob = some n ∧ x.run.isNone then modArray s c fun a => releaseHalves a (slotNo c) else s) s2

/-- A cancel acts (R324, R354); a level that has completed or has been cancelled is not found any more. -/
def cancelLevel (s : State) : CancelTarget → State
  | .unit j va => cancelBead s (j, va)
  | .launch id => match s.hub.launches.get? id with
    | some l => if l.ended then s else (launchBeads s id l).foldl cancelBead s
    | none => s
  | .graph g => cancelGraphs 2 (s.hub.graphs.filter fun (k, x) => k == g && !x.cancelled) s
  | .phase j counter => cancelGraphs 3 (s.hub.graphs.filter fun (_, x) => x.job == j && !x.cancelled && phaseCounter s x == counter) s
  | .job n kill =>
    if (s.job n).cancelled then s else
    let s0 := startPending s n
    let s1 := cancelGraphs 4 (s0.hub.graphs.filter fun (_, x) => x.job == n && !x.cancelled) s0
    let s2 := markJob ((jobBeads s1 n).foldl cancelBead s1) n
    if kill then killJob s2 n else s2

/-- The job whose collectives a cancel touches, if the level is still there to cancel (R324 step 3, R354). -/
def cancelJob (s : State) : CancelTarget → Option Nat
  | .unit j va => if beadState s j va ∈ [1, 2, 3] then some j else none
  | .launch id => match s.hub.launches.get? id with
    | some l => if l.ended then none else some l.beadJob
    | none => none
  | .graph g => match s.hub.graphs.get? g with
    | some x => if x.cancelled then none else some x.job
    | none => none
  | .phase j counter =>
    if s.hub.graphs.any fun (_, x) => x.job == j && !x.cancelled && phaseCounter s x == counter then some j else none
  | .job n _ => if (s.job n).cancelled then none else some n

/-- CANCEL (R324, R343): the oldest cancel that has started acts. -/
def execCancel (s : State) : Host.Outcome State Fault Refusal :=
  .next (match s.hub.cancels with
    | [] => s
    | t :: r =>
      let told := (cancelJob s t).toList
      cancelLevel (s.modHub fun h => { h with cancels := r, aborts := (h.aborts ++ told).eraseDups }) t)

/-! ### Trap delivery (R291, R337, R338) -/

/-- A pending trap with the context cycle of the boundary at which it is raised, for a queue step's trap (R291, R340). -/
def stampTrap (cc : Nat) (x : Cause) : Cause := if x.cc = 0 then { x with cc := cc } else x
/-- The pending traps that are due: those of queue steps, transfers and hallmark entries, which carry no cycle yet, only at a bundle
boundary (R291, R336). -/
def dueTraps (x : Ctx) : List Cause := x.pendTraps.filter fun y => beforeBundle x || (!y.deferred && y.cc != 0)
/-- Results are due at the context's cycle that have not landed: their traps fall due with those that are pending (R337).  An atomic that is
past its deadline lands nothing there (R208). -/
def landsFirst (x : Ctx) : Bool := x.arch.wtb.any fun l => decide (l.due ≤ x.arch.cc) && !l.deadline
/-- The pending trap that is reported next. -/
def nextTrap (x : Ctx) : Option Cause := chooseTrap (dueTraps x)
/-- Deliver a pending trap once the results due at its cycle have landed and the data that the shadow waits for has arrived (R310, R337,
R338); a bead that a cancel preempts takes none (R324, R343). -/
def deliverNext (s : State) (c : Nat) (deferred : Bool) : State :=
  match (s.ctx c).run, nextTrap (s.ctx c) with
  | some b, some x =>
    if landsFirst (s.ctx c) || shadowWaits s c || x.deferred != deferred || (s.ctx c).preempt == some .cancelled then s
    else deliverTrap (s.modCtx c fun k => { k with pendTraps := k.pendTraps.filter (· != x) }) c b (stampTrap (s.ctx c).arch.cc x)
  | _, _ => s
/-- TRAP_DELIVERY (R337, R338). -/
def execTrapDelivery (c : Nat) (s : State) : Host.Outcome State Fault Refusal := .next (deliverNext s c false)
/-- HM_FAULT_TRAP (R291): at the context's bundle boundary. -/
def execHmFaultTrap (c : Nat) (s : State) : Host.Outcome State Fault Refusal :=
  .next (if beforeBundle (s.ctx c) then deliverNext s c true else s)

end Sys2Proof.Machine
end

