-- ==== Sys2Proof/Machine/Transform.lean ====
section
/-! DEFINITION. The transform engine and the move of the L1 split (spec 14, R245, R250). -/
namespace Sys2Proof.Machine

/-- A transform of tiles: what the engine's operations share (R245).  It is pending until TRANSFORM_COMPLETE. -/
def transformOp (a : TArgs) (reads : List Nat) (illegal clash : Bool) (names : List Named) (dst : TileRef)
    (kind : State → TransferKind) (moves : List Move) : OpFn := fun c s =>
  let r := (s.ctx c).arch
  let on := onT r a
  let waits := firstSome (names.map (·.waits))
  let early := trapIf illegal s c .tm .illenc ++ names.flatMap (·.traps) ++ trapIf clash s c .tm .illsched
  if !on then { slot := .tm, reads := reads, traps := early, waits := waits }
  else
    { slot := .tm, reads := reads, waits := waits
      traps := early ++ accessTraps s c .tm .atomic (counterRange r dst.reg) (counterCheck s c r dst.reg)
      act := fun s => startTransfer s (newTransfer s c (kind s) (names.map fun n => n.ref.tl)
        (if moves.isEmpty then [] else [{ line := 0, store := true, moves := moves, expand := none }])
        (counterPa s c r dst.reg) (pinsOf s c (counterRange r dst.reg)) []) }

/-- The moves that copy source element `f i j` to destination element (i, j). -/
def elementMoves (dst src : TileRef) (f : Nat → Nat → Nat × Nat) : List Move :=
  (List.range dst.reg.rows).flatMap fun i => (List.range dst.reg.cols).flatMap fun j =>
    let (p, q) := f i j
    runMoves (plainPa src.frames) (plainPa dst.frames)
      (elemVa src.reg p q) (elemVa dst.reg i j) dst.reg.bits

/-- Both tile registers are defined, so that their shapes can be compared. -/
def bothDefined (d u : TileRef) : Bool := d.reg.defined && u.reg.defined

/-- `tcopy` (R245). -/
def opTcopy (a : TArgs) : OpFn := fun c s =>
  let on := onT (s.ctx c).arch a
  let d := nameTile s c .tm on a.dst .use
  let u := nameTile s c .tm on a.a .use
  let same := d.ref.reg.rows == u.ref.reg.rows && d.ref.reg.cols == u.ref.reg.cols && d.ref.reg.fmt == u.ref.reg.fmt
  transformOp a (reading a.pred []) (bothDefined d.ref u.ref && !same) (d.ref.meets u.ref) [d, u] d.ref (fun _ => .transform)
    (elementMoves d.ref u.ref fun i j => (i, j)) c s
/-- `tcopy` (R245). -/
def execTcopy (a : TArgs) (s : State) : Host.Outcome State Fault Refusal := issueAlone (.tcopy a) .tm (opTcopy a) s

/-- `ttrans` (R245). -/
def opTtrans (a : TArgs) : OpFn := fun c s =>
  let on := onT (s.ctx c).arch a
  let d := nameTile s c .tm on a.dst .use
  let u := nameTile s c .tm on a.a .use
  let turned := d.ref.reg.rows == u.ref.reg.cols && d.ref.reg.cols == u.ref.reg.rows && d.ref.reg.fmt == u.ref.reg.fmt
  transformOp a (reading a.pred []) (bothDefined d.ref u.ref && !turned) (d.ref.meets u.ref) [d, u] d.ref
    (fun _ => .transform) (elementMoves d.ref u.ref fun i j => (j, i)) c s
/-- `ttrans` (R245). -/
def execTtrans (a : TArgs) (s : State) : Host.Outcome State Fault Refusal := issueAlone (.ttrans a) .tm (opTtrans a) s

/-- The pairs of types that `vcvt` accepts (R104). -/
def convertible (t u : ETy) : Bool :=
  t != u && t != .sc8 && u != .sc8 && !(t.isTap && u.isTap) && !(t.isTap && u.isInt) && !(t.isInt && u.isTap)
/-- The rounding code of a mode (R25). -/
def rmCode : Rm → BitVec 3
  | .rne => 1
  | .rtz => 2
  | .rdn => 3
  | .rup => 4

/-- `tconv` (R245). -/
def opTconv (a : TArgs) : OpFn := fun c s =>
  let on := onT (s.ctx c).arch a
  let d := nameTile s c .tm on a.dst .use
  let u := nameTile s c .tm on a.a .use
  let ok := d.ref.reg.rows == u.ref.reg.rows && d.ref.reg.cols == u.ref.reg.cols &&
    convertible d.ref.reg.fmt u.ref.reg.fmt && (!d.ref.reg.fmt.isTap || decide (a.imm.toNat ≤ 1))
  transformOp a (reading a.pred []) (bothDefined d.ref u.ref && !ok) (d.ref.meets u.ref) [d, u] d.ref
    (fun s => .convert d.ref u.ref (rmCode (modeOf (s.ctx c).arch (a.imm.extractLsb' 0 3)))) [] c s
/-- `tconv` (R245). -/
def execTconv (a : TArgs) (s : State) : Host.Outcome State Fault Refusal := issueAlone (.tconv a) .tm (opTconv a) s

/-- The element that an integer fills a tile with (R245). -/
def fillValue (t : ETy) (v : Int) : Nat :=
  if t.isTap then (encodeTap t (ofInt v)).1 % 2 ^ storedBits t else constLane t v
/-- The code that `tfill` writes (R245). -/
def fillCode (r : Arch) (a : TArgs) (t : ETy) : Nat := match a.a with
  | .const k => fillValue t (constVal k)
  | .imm => fillValue t a.imm.toInt
  | q => (readScalar r 0 q).toNat % 2 ^ storedBits t

/-- The moves that write a code to every element of a tile (R245). -/
def fillTile (d : TileRef) (v : Nat) : List Move :=
  (List.range d.reg.rows).flatMap fun i => (List.range d.reg.cols).flatMap fun j =>
    fillMoves v (runMoves (plainPa d.frames) (plainPa d.frames) (elemVa d.reg i j) (elemVa d.reg i j) d.reg.bits)

/-- `tfill` (R245). -/
def opTfill (a : TArgs) : OpFn := fun c s =>
  let r := (s.ctx c).arch
  let on := onT r a
  let d := nameTile s c .tm on a.dst .use
  let v := fillCode r a d.ref.reg.fmt
  transformOp a (reading a.pred [a.a]) (d.ref.reg.defined && d.ref.reg.fmt == .sc8) false [d] d.ref (fun _ => .transform)
    (fillTile d.ref v) c s
/-- `tfill` (R245). -/
def execTfill (a : TArgs) (s : State) : Host.Outcome State Fault Refusal := issueAlone (.tfill a) .tm (opTfill a) s

/-! ### Moving the L1 split (R250) -/

/-- The part of a window that changes role lies between two split sizes. -/
def splitPart (u v : Nat) : Nat × Nat := (Nat.min u v * 2 ^ 18, Nat.max u v * 2 ^ 18)
/-- Some byte ranges of a core's window lie in the part that changes role. -/
def inPart (s : State) (k u v : Nat) (l : List (Nat × Nat)) : Bool :=
  let (lo, hi) := splitPart u v
  let w := windowBase (agentOfCore s k) (coreNo k)
  rangesMeet l [(w + lo, hi - lo)] && decide (lo < hi)
/-- The frames under a tile's rows and its scale array, wherever they lie. -/
def anyFrames (s : State) (c : Nat) (t : TileReg) : List (Nat × Nat) :=
  [(t.base.toNat, t.span), (t.base.toNat + t.scale, t.scaleBytes)].flatMap fun (va, n) =>
    match translateRange s (coreOf c) (jobOf s c) va n with
    | .inr f => f.plain
    | .inl _ => []
/-- A defined tile register of the context has its region in the part that changes role. -/
def regionInPart (s : State) (c u v : Nat) : Bool :=
  (s.ctx c).arch.tiles.toList.any fun t => t.defined &&
    inPart s (coreOf c) u v ({ tl := 0, reg := t, frames := anyFrames s c t } : TileRef).ranges
/-- A released entry is a tile store or an `append` that will write some of the given bytes. -/
def queuedWrites (l : List (Nat × Nat)) (e : Entry) : Bool := match e.act with
  | .tileStore t _ => t.writes l
  | _ => rangesMeet l (appendArea e)
/-- A tile transfer will write into the part that changes role. -/
def transferInPart (s : State) (k u v : Nat) : Bool :=
  let (lo, hi) := splitPart u v
  let w := windowBase (agentOfCore s k) (coreNo k)
  decide (lo < hi) && (s.transfers.any (·.writes [(w + lo, hi - lo)]) ||
    s.ctxs.any fun (_, x) => x.storeQ.any (queuedWrites [(w + lo, hi - lo)]))

/-- `phase` (R250). -/
def opPhase (a : TArgs) : OpFn := fun c s =>
  let k := coreOf c
  let u := (a.imm.extractLsb' 0 3).toNat
  let old := (s.core k).u
  let d := (a.imm.extractLsb' 8 8).toNat
  let cc := (s.ctx c).arch.cc
  { slot := .tm, needsCkpt := true
    traps := trapIf (decide (d < 16 + 32 * (Nat.max u old - Nat.min u old))) s c .tm .illsched ++
      trapIf (regionInPart s c u old) s c .tm .perm
    waits := if transferInPart s k u old || (s.core k).phase.isSome then some .recordOrPhase else none
    act := fun s =>
      let s1 := dropLines (pushAll s k) k (l1Lines s k)
      (s1.modCore k fun x => { x with phase := some (u, c, cc + d) }).modCtx c fun x =>
        { x with phaseWin := some (cc, cc + d) } }
/-- `phase` (R250). -/
def execPhase (a : TArgs) (s : State) : Host.Outcome State Fault Refusal := issueAlone (.phase a) .tm (opPhase a) s

end Sys2Proof.Machine
end

