-- ==== Sys2Proof/Machine/Order.lean ====
section
/-! DEFINITION. The steps of the ordering machine: landings and reads, the store queue's memory entries, the L1's own steps and tile
transfers (spec 03, R41 to R47; 11, R196; 12, R204 to R212; 13, R223; 14, R228, R244 to R250; 15, R273; 06, R127). -/
namespace Sys2Proof.Machine

/-! ### Landing (R41, R45, R46, R127, R208, R337) -/

/-- The entries that land at the current context cycle. -/
def dueNow (a : Arch) : List Landing := a.wtb.filter fun l => decide (l.due ≤ a.cc)
/-- None of them lands in a control register, which has an event of its own (R91). -/
def plainDue (l : List Landing) : Bool := l.all fun e => (cregOf e).isNone

/-- The entry writes only some of its register's bits. -/
def keepsBits (l : Landing) : Bool := match l.dest with
  | .s _ => l.mask.extractLsb' 0 64 != BitVec.allOnes 64
  | .v _ => l.mask != BitVec.allOnes 1024
  | .p _ => l.mask.extractLsb' 0 128 != BitVec.allOnes 128
  | _ => false
/-- An entry lands: the saved image of its register counts no more, and is fetched first where some of its bits stay (R50). -/
def landOne (s : State) (c : Nat) (l : Landing) : State :=
  let s1 := if keepsBits l then fetchRegister s c l.dest.code else s
  s1.modCtx c fun x => { x with arch := landArch x.arch l, unfetched := x.unfetched.filter (· != l.dest.code) }

/-- The flags of an entry that its operation had enabled (R127). -/
def raisedBy (l : Landing) : Flags := l.flags &&& l.enables
/-- The one ARITH of a context cycle (R127, R340). -/
def arithCause (cc : Nat) (l : List Landing) : List Cause := match l.filter fun e => raisedBy e != 0 with
  | [] => []
  | e :: r => [{ Cause.plain .arith (some e.slot) e.pc cc 0 with aflags := (e :: r).foldl (fun f x => f ||| raisedBy x) 0 }]
/-- SOFT and MCHK of entries whose data is bad (R223, R273). -/
def faultCauses (cc : Nat) (l : List Landing) : List Cause := l.filterMap fun e => match e.faulty with
  | some (code, a, n) => some { Cause.plain code (some e.slot) e.pc cc a with log := n }
  | none => none

/-- The due entries land, their lines count at this cycle, after what its bundle reads (R305, R306), and their traps are raised. -/
def landDue (s : State) (c : Nat) (l : List Landing) : State :=
  let cc := (s.ctx c).arch.cc
  let s1 := s.modArch c fun a => { a with wtb := a.wtb.filter fun e => !decide (e.due ≤ a.cc) }
  let s2 := l.foldl (fun s e => countFrom (landOne s c e) (lifeOf s c) cc evL2 e.lines) s1
  s2.modCtx c fun x => { x with pendTraps := x.pendTraps ++ faultCauses cc l ++ arithCause cc l }

/-- A freeze for late data ends (R46). -/
def endLate (s : State) (c : Nat) : State := match (s.ctx c).freeze with
  | some (.lateData, _) | some (.otherPhase, _) => endFreeze s c
  | _ => s

/-- A trap of a bundle itself, which names no slot (R340). -/
def bundleCause (s : State) (c : Nat) (code : TrapCode) (addr log : Nat) : Cause :=
  { Cause.plain code none (s.ctx c).pc (s.ctx c).arch.cc addr with log := log }
/-- A register's image cannot be fetched: the bead is reported as MCHK to the supervisor's handler, once the data that its shadow waits
for has arrived, and the fault log names its save area (R342, R393).  A bead that a cancel is about to take takes no trap (R343). -/
def missFault (s : State) (c port : Nat) (b : Bead) : State :=
  if shadowWaits s c || (s.ctx c).preempt == some .cancelled then s
  else
    let n := s.mgmt.flogN
    let s1 := logFault s (logAt s c { kind := 0x0E, first := b.save, second := (s.ctx c).pc, detail := port })
    deliverTrap s1 c { b with sup := true } (bundleCause s c .mchk (b.save + currentImage + (registerImage port).1) n)
/-- The register of a due entry that keeps some of its bits and whose image cannot be fetched (R50, R342). -/
def heldBack (s : State) (c : Nat) (l : List Landing) : Option (Bead × Nat) := match (s.ctx c).run with
  | none => none
  | some b => ((l.filter keepsBits).find? fun e => (s.ctx c).unfetched.contains e.dest.code && !canFetch s b e.dest.code).map
      fun e => (b, e.dest.code)

/-- RESULT_LAND (R41, R46, R48): the context freezes for late data, or results due land, after those in control registers. -/
def execResultLand (c : Nat) (s : State) : Host.Outcome State Fault Refusal :=
  .next (
    let x := s.ctx c
    let l := dueNow x.arch
    if x.run.isNone || l.isEmpty then s
    else if lateDue x.arch then freezeNow s c (if phaseHolds s c then .otherPhase else .lateData)
    else if !plainDue l || l.any (·.deadline) then s
    else match heldBack s c l with
      | some (b, port) => missFault s c port b
      | none => landDue (endLate s c) c l)

/-- ATOMIC_RELEASE_DEADLINE (R208): the context has reached the landing cycle of an atomic that is still withheld.  What lands there
lands, and ILLSCHED stands beside the traps of those results (R337); its record names the bundle there and no slot (R336, R340; log 80,
DEDUCED).  R208 lets a checkpoint at c + D itself release the atomic, and raises ILLSCHED where the context reaches c + D with it withheld:
here the second comes first, before the bundle at c + D issues (log 80). -/
def execAtomicReleaseDeadline (c : Nat) (s : State) : Host.Outcome State Fault Refusal :=
  .next (
    let x := s.ctx c
    let l := dueNow x.arch
    if x.run.isNone || lateDue x.arch || !plainDue l || !l.any (·.deadline) then s
    else match heldBack s c (l.filter fun e => !e.deadline) with
      | some (b, port) => missFault s c port b
      | none => (landDue (endLate s c) c (l.filter fun e => !e.deadline)).modCtx c fun k => { k with
          pendTraps := k.pendTraps ++ [Cause.plain .illsched none x.pc x.arch.cc 0] })

/-! ### Reads (R196, R203, R207, R209, R228, R300) -/

/-- Bytes of a list in host memory. -/
def hostBytes (s : State) (l : List (Nat × Byte)) : List (Nat × Byte) := l.filter fun (a, _) => isHost s a

/-- A pending read cannot take place yet: an atomic or acquire before it (R207), bytes not formed (R139), the other context's `phase`
(R250), a host step before it (R209), or entries and a heap that a hallmark read waits for (R287, R300). -/
def readWaits (s : State) (c : Nat) (r : Read) : Bool :=
  let x := s.ctx c
  readsHeld s c r.life r.releasedBefore || match r.what with
  | .bytes l _ => meetsUnformed x r.issuedBefore l || phaseHolds s c ||
      (l.any (fun g => isHost s g.pa) && anyBefore x r.releasedBefore (hostStep s))
  | .lineTag _ => false
  | .directory n _ => anyBefore x r.releasedBefore (fun _ => true) ||
      (n != 0 && decide (nameKind n ≤ 1) && !heapReady s (homeAgent s n))
  | .freeCounts a => anyBefore x r.releasedBefore (fun _ => true) || (decide (a < (nha s).getD 0) && !heapReady s a)

/-- What a read of bytes meets (R223, R273): a line that its home does not serve, bad data kept from before, or an error found now. -/
def readError (s : State) (c before : Nat) (l : List Seg) (err : MemErr) : Option (TrapCode × Seg) :=
  match segFault s c before l with
  | some x => some x
  | none => match err, l.head? with
    | .tagBad, some g => if tagged s g.pa then some (.mchk, g) else none
    | .bad, some g => some (.soft, g)
    | _, _ => none

/-- An error in the codes of a line that a read of a context finds is logged, with the job of the read, or kept (R223, R273, R393). -/
def noteError (s : State) (c job line : Nat) (err : MemErr) : State := match err with
  | .clean => s
  | .corrected n => logFault s (logAt s c (ofJob s job { kind := 0x01, corrected := true, first := line * 128, detail := n }))
  | .bad => markData s line
  | .tagCorrected => logFault s (logAt s c (ofJob s job { kind := 0x03, corrected := true, first := line * 128 }))
  | .tagBad => if tagged s (line * 128) then markTag s line else s

/-- A read fails at a line: its entry lands with the trap, or its bead takes it at its next boundary where it has no entry (R223, R273,
R336). -/
def failRead (s : State) (c : Nat) (r : Read) (code : TrapCode) (line va : Nat) : State :=
  let n := s.mgmt.flogN
  let s1 := logFault s (logAt s c (ofJob s r.job (lineError s code line r.pc)))
  match r.uid with
  | some u => deliver s1 u fun l => { l with waiting := false, faulty := some (code, va, n) }
  | none => trapLife s1 r.life { Cause.plain code (some r.slot) r.pc 0 va with log := n }

/-- A read has taken place: its value waits in its entry (R46), or its lines count at c + D (R374). -/
def endRead (s : State) (r : Read) (v lines : Nat) : State := match r.uid with
  | some u => deliver s u fun l => { l with value := BitVec.ofNat 1024 v, waiting := false, lines := lines }
  | none => countFrom s r.life r.due evL2 lines

/-- The oldest pending read takes place (R207). -/
def takeRead (s : State) (c : Nat) (r : Read) (err : MemErr) : State := match r.what with
  | .bytes l hint =>
    let s1 := match l with
      | g :: _ => noteError s c r.job (g.pa / 128) err
      | [] => s
    match readError s1 c r.issuedBefore l err with
    | some (code, g) => failRead s1 c r code (g.pa / 128) g.va
    | none =>
      let (v, lines, s2) := readSegs c r.life r.issuedBefore hint l (0, [], s1)
      endRead s2 r v lines.length
  | .lineTag pa =>
    let s1 := noteError s c r.job (pa / 128) err
    if tagged s1 pa && tagFault s1 (pa / 128) then failRead s1 c r .mchk (pa / 128) 0 else endRead s1 r (tagState s1 pa) 0
  | .directory n hid => match nameFault s hid false n with
    | some (line, code) => failRead s c r code line 0
    | none => endRead (look s hid n) r (directoryState s hid n) 0
  | .freeCounts a => endRead s r (freeState s a) 0

/-- LOAD_DATA_ARRIVE (R46, R207): the oldest read of the context takes place and its data arrives. -/
def execLoadDataArrive (c : Nat) (err : MemErr) (s : State) : Host.Outcome State Fault Refusal :=
  .next (match (s.ctx c).reads with
    | [] => s
    | r :: rest =>
      if readWaits s c r then s else takeRead (s.modCtx c fun x => { x with reads := rest }) c r err)

/-! ### Stores (R196, R206, R209, R232) -/

/-- The first stored byte whose line the agent must request and cannot get. -/
def drainFault (s : State) (k : Nat) (ptes : List (Nat × W64)) (l : List (Nat × Byte)) : Option Nat :=
  (l.find? fun (a, _) =>
    (Pte.home (pteOf ptes a) == 1 || (s.core k).u == 0) && refused s (agentOfCore s k) a (pteOf ptes a) true).map (·.1 / 128)
/-- Bytes go to where they stand, line by line, or are read there as well (R224, R254). -/
def sendHome (s : State) (q : Nat) (reads : Bool) (l : List (Nat × Byte)) : State :=
  ((l.map (·.1 / 128)).eraseDups).foldl (fun s line => homeAccess s q line reads (l.filter fun (a, _) => a / 128 == line)) s
/-- Stored bytes of home-01 lines go to their homes, and those of another module's windows to it (R224, R254, R263, R272). -/
def touchHome (s : State) (k : Nat) (ptes : List (Nat × W64)) (l : List (Nat × Byte)) : State :=
  sendHome s (agentOfCore s k) false
    (l.filter fun (a, _) => if tagged s a then Pte.home (pteOf ptes a) == 1 else paAgent a / 4 != s.pos)

/-- A step of a bead on a word at the coherent point, or on a register of the management window (R206, R254): the old value and the
state. -/
def pointAtom (s : State) (q pa : Nat) (e : W64) (n : Nat) (f : Nat → Nat) : Nat × State :=
  if ownMgmt s pa then
    let old := mgmtRead s (mgmtOff pa) n
    (old, mgmtWrite s (bytesAt (mgmtOff pa) n (f old)))
  else cpAtomOld s q pa e n f

/-- A store drains: its bytes go to the scratchpad, the L1, their homes or the management window (R196, R232, R392). -/
def drainStore (s : State) (c : Nat) (e : Entry) (l : List (Nat × Byte)) (ptes : List (Nat × W64)) : State :=
  let k := coreOf c
  match drainFault s k ptes l with
  | some line => tagTrap (popHead s c) c line e
  | none =>
    let s1 := drainBytes (touchHome s k ptes l) k ptes (l.filter fun (a, _) => !ownMgmt s a)
    mgmtWrite (popHead (written s1 (byteBits (l.filter fun (a, _) => !cacheable s a (pteOf ptes a)))) c)
      ((l.filter fun (a, _) => ownMgmt s a).map fun (a, b) => (mgmtOff a, b))

/-- DRAIN (R166, R196, R232). -/
def execDrain (c : Nat) (s : State) : Host.Outcome State Fault Refusal :=
  .next (match headEntry s c with
    | none => s
    | some e => match e.act with
      | .store l ptes => if hostStep s e || phaseHolds s c then s else drainStore s c e l ptes
      | .mxWrite _ true b =>
        if phaseHolds s c then s else popHead (written { s with mem := Memory.writeCells s.mem b } (byteBits b)) c
      | _ => s)

/-- An eviction clears the exclusive mark of a line (R206). -/
def clearExcl (s : State) (k line : Nat) : State := match l1Line s k line with
  | some x => setL1 s k line { x with excl := false }
  | none => s
/-- L1_PUSH (R196): an eviction push; no context waits for an error that it finds (R223, R273). -/
def execL1Push (k : Nat) (l : FoundLine) (s : State) : Host.Outcome State Fault Refusal :=
  .next (match l1Line s k l.line with
    | none => s
    | some x =>
      if x.dirty = 0 then s
      else if l.err = .tagBad then ownError s l.line 1 l.err
      else ownError (clearExcl (pushLine s k l.line) k l.line) l.line 1 l.err)
/-- L1_DROP (R196, R206). -/
def execL1Drop (k line : Nat) (s : State) : Host.Outcome State Fault Refusal :=
  .next (match l1Line s k line with
    | none => s
    | some x => if pushFault s k line x then logNoContext s line 1 else dropLine s k line)

/-- The old value of an atomic lands in its entries, `acas16`'s in two; without an entry its line counts at c + D (R208, R236, R374). -/
def landAtomic (s : State) (e : Entry) (uids : List Nat) (due n old lines : Nat) : State :=
  let land (s : State) (u v k : Nat) : State :=
    deliver s u fun l => { l with value := BitVec.ofNat 1024 v, waiting := false, lines := k }
  match uids with
  | [] => countFrom s e.life due evL2 lines
  | [u] => land s u (old % 2 ^ (8 * n)) lines
  | u :: v :: _ => land (land s u (old % 2 ^ 64) lines) v (old / 2 ^ 64) 0
/-- Reads that the context issued before the checkpoint which released an entry are still to take place: the read of a `ctry` and the wait
of a `cacq` come after them (R207). -/
def readsFirst (x : Ctx) (e : Entry) : Bool := x.reads.any fun r => decide (r.releasedBefore ≤ e.released)
/-- Reads that the context issued before an atomic are still to take place: they come before its read half, and those that it issued between
the atomic and its releasing checkpoint are not ordered with it (R207, R208). -/
def readsBefore (x : Ctx) (e : Entry) : Bool := x.reads.any fun r => decide (r.issuedBefore ≤ e.seq)

/-- ATOM (R206, R207, R208, R235). -/
def execAtom (c : Nat) (s : State) : Host.Outcome State Fault Refusal :=
  .next (match headEntry s c with
    | none => s
    | some e => match e.act with
      | .atomic op pa n v expected uids due pte =>
        let new (old : Nat) : Nat := atomicNew op n old v expected
        if isHost s pa || phaseHolds s c || readsBefore (s.ctx c) e then s
        else if refused s (agentOf s c) pa pte true then failEntry (popHead s c) c (pa / 128) e uids .mchk
        else if dataFault s (coreOf c) pa n pte then failEntry (popHead s c) c (pa / 128) e uids .soft
        else if ownMgmt s pa then
          let (old, s1) := pointAtom (popHead s c) (agentOf s c) pa pte n new
          landAtomic s1 e uids due n old 0
        else
          let lines := if cacheable s pa pte && lacks s (coreOf c) pa n then 1 else 0
          let (old, s1) := atomStep (popHead s c) (coreOf c) pa n pte new
          landAtomic s1 e uids due n old lines
      | _ => s)

/-- Bytes leave for host memory, the latest host step of the context (R209, R210), across the fabric where it is another module's (R254). -/
def toHost (s0 : State) (c : Nat) (reads : Bool) (l : List (Nat × Byte)) : State := match l with
  | [] => s0
  | (a, _) :: _ =>
    let s := sendHome s0 (agentOf s0 c) reads l
    { s with mem := Memory.writeCells s.mem l }.modCtx c fun x => { x with hostAddr := some a }
/-- HOST (R206, R209): the head store's host bytes leave, or its AtomicOp performs; a `phase` of the other context holds it back (R250). -/
def execHost (c : Nat) (s : State) : Host.Outcome State Fault Refusal :=
  .next (match headEntry s c with
    | none => s
    | some e =>
      if !hostStep s e || phaseHolds s c then s
      else match e.act with
        | .store l ptes =>
          let s1 := toHost s c false (hostBytes s l)
          let rest := l.filter fun (a, _) => !isHost s a
          if rest.isEmpty then popHead s1 c else setHead s1 c { e with act := .store rest ptes }
        | .atomic op pa n v expected uids due _ =>
          if readsBefore (s.ctx c) e then s
          else
            let old := s.readMem pa n
            let new := atomicNew op n old v expected
            landAtomic (popHead (toHost s c true (bytesAt pa n new)) c) e uids due n old 0
        | _ => s)

/-! ### Tile transfers (R206, R211, R212, R240 to R244, R247) -/

/-- Rows of an `append` that fit below LIMIT, as moves (R244). -/
def appendMoves (src : TileRef) (frames : List (Nat × Nat)) (va tail limit pitch : Nat) : List Move :=
  (List.range src.reg.rows).flatMap fun r =>
    if tail + r < limit then
      runMoves (plainPa src.frames) (plainPa frames) ((src.reg.base.toNat + r * src.reg.pitch) * 8)
        ((va + 128 + (tail + r) * pitch) * 8) (src.reg.cols * src.reg.bits)
    else []

/-- Bit ranges that a piece writes. -/
def Piece.writes (p : Piece) : List (Nat × Nat) := (p.moves.map fun m => (m.dst, m.n)) ++ (match p.expand with
  | some (_, d) => d.map fun a => (8 * a, 8)
  | none => [])
/-- Bit ranges that a piece reads. -/
def Piece.reads (p : Piece) : List (Nat × Nat) :=
  ((p.moves.filter fun m => m.lit.isNone).map fun m => (m.src, m.n)) ++ (match p.expand with
    | some (d, _) => d.map fun a => (8 * a, 8)
    | none => [])
/-- Byte ranges as bit ranges. -/
def bitRanges (l : List (Nat × Nat)) : List (Nat × Nat) := l.map fun (a, n) => (8 * a, 8 * n)
/-- The lines under bit ranges. -/
def linesUnder (l : List (Nat × Nat)) : List Nat :=
  (l.flatMap fun (b, n) => if n = 0 then [] else (List.range ((b + n - 1) / 1024 - b / 1024 + 1)).map (b / 1024 + ·)).eraseDups
/-- A hand step reads lines of a region in the scratchpad: bad data stop it and raise SOFT, and the entry moves nothing (R273, R336). -/
def handReads (s : State) (c : Nat) (e : Entry) (lines : List Nat) (f : State → State) : State :=
  match lines.find? s.homes.dataErr.contains with
  | some l => lineTrap (popHead s c) c l e .soft
  | none => f (popHead (lines.foldl findErrors s) c)
/-- HAND (R206, R242, R244): the head tile store reads its region and moves to the tile queue; an `append` reserves its rows.  A `phase` of
the other context holds it back (R250). -/
def execHand (c : Nat) (s : State) : Host.Outcome State Fault Refusal :=
  .next (match headEntry s c with
    | none => s
    | some e =>
      if phaseHolds s c then s
      else match e.act with
      | .tileStore t _ => handReads s c e (linesUnder (t.pieces.flatMap Piece.reads)) fun s =>
        queueTransfer s { t with pieces := t.pieces.map fun p => { p with moves := takeMoves s.mem p.moves }, after := 0 }
      | .append t src hdr pitch limit frames va => match atomFault s t.agent hdr (pteOf t.leaves hdr) with
        | some code => lineTrap (popHead s c) c (hdr / 128) e code
        | none => handReads s c e (linesUnder (bitRanges src.ranges)) fun s0 =>
          let (tail, s1) := pointAtom s0 t.agent hdr (pteOf t.leaves hdr) 4 fun x => (x + src.reg.rows) % 2 ^ 32
          queueTransfer s1 { t with
            pieces := piecesOf true (takeMoves s1.mem (appendMoves src frames va tail limit pitch)), after := 0 }
      | _ => s)

/-- Bit ranges that a transfer has still to write. -/
def Transfer.toWrite (t : Transfer) : List (Nat × Nat) := t.pieces.flatMap Piece.writes ++ (match t.kind with
  | .convert dst _ _ => bitRanges dst.ranges
  | .chrecv _ _ dst => bitRanges dst.ranges
  | _ => [])
/-- Bit ranges that a transfer has still to read. -/
def Transfer.toRead (t : Transfer) : List (Nat × Nat) := t.pieces.flatMap Piece.reads ++ (match t.kind with
  | .convert _ src _ => bitRanges src.ranges
  | _ => [])

/-- The transfer of a name. -/
def transferOf (s : State) (u : Nat) : Option Transfer := s.transfers.find? (·.uid == u)
/-- Replace a transfer. -/
def setTransfer (s : State) (t : Transfer) : State :=
  { s with transfers := s.transfers.map fun x => if x.uid = t.uid then t else x }
/-- Transfer `u` was issued before transfer `t` (R211). -/
def issuedFirst (u t : Transfer) : Bool := decide (u.order < t.order) || (u.order == t.order && decide (u.uid < t.uid))
/-- Transfers that were issued before a transfer by its context, or by its bead in another slot (R211). -/
def earlier (s : State) (t : Transfer) : List Transfer := s.transfers.filter fun u =>
  u.ctx.isSome && t.ctx.isSome && (u.ctx == t.ctx || u.life == t.life) && issuedFirst u t
/-- Entries that a transfer's context has released, that its bead has left in another slot, or that its bead still withholds. -/
def entriesOf (s : State) (t : Transfer) : List Entry :=
  (s.ctxs.flatMap fun (d, x) =>
    (if t.ctx == some d then x.storeQ else x.storeQ.filter fun e => e.life == t.life) ++ x.withheld.filter fun e => e.life == t.life) ++
  s.hub.saved.flatMap fun (_, v) => v.withheld.filter fun e => e.life == t.life
/-- Bit ranges that a queued entry will touch as a transfer. -/
def entryBits (e : Entry) : List (Nat × Nat) := match e.act with
  | .tileStore t _ => t.toWrite ++ t.toRead
  | .append _ src .. => bitRanges (appendArea e ++ src.ranges)
  | .hmcopy _ _ depth frames va _ => bitRanges (runRanges frames va (128 * 8 ^ depth))
  | .chsend _ src .. => bitRanges src.ranges
  | _ => []
/-- The transfer moves bytes piece by piece; a transform, and a channel operation, acts in an event of its own. -/
def hasPieces (t : Transfer) : Bool := match t.kind with
  | .load | .store | .append .. | .hmget _ | .hmcopy .. | .graphCopy .. => true
  | _ => false
/-- A tile load, which follows what its context's store queue held at its issue (R211, R355). -/
def followsQueue (t : Transfer) : Bool := match t.kind with
  | .load | .hmget _ | .chrecv .. => true
  | _ => false
/-- A transfer may act on bits (R200, R211, R250, R253): the entries before a load have drained, those too that its bead has left in another
slot, and what its context issued before, in the tile queue, in the store queue or withheld, has done what touches the same bits. -/
def mayTouch (s : State) (t : Transfer) (l : List (Nat × Nat)) : Bool :=
  (match t.ctx with
   | some c => !phaseHolds s c && ((s.ctx c).storeQ.all fun e => !followsQueue t || decide (t.after ≤ e.released)) &&
      (s.ctxs.all fun (d, x) => d == c || x.storeQ.all fun e => !followsQueue t || e.life != t.life || decide (t.order ≤ e.seq)) &&
      (entriesOf s t).all fun e => decide (t.order ≤ e.seq) || !rangesMeet l (entryBits e)
   | none => true) &&
  (earlier s t).all fun u => !rangesMeet l (u.toWrite ++ u.toRead)
/-- A piece may take place (R211). -/
def pieceReady (s : State) (t : Transfer) (p : Piece) : Bool := mayTouch s t (p.writes ++ p.reads)
/-- A transfer that acts as a whole may take place (R211). -/
def wholeReady (s : State) (t : Transfer) : Bool := mayTouch s t (t.toWrite ++ t.toRead)

/-- The bytes of bit ranges. -/
def bytesUnder (l : List (Nat × Nat)) : List Nat := (l.flatMap fun (b, n) => byteRange (b / 8) ((b % 8 + n + 7) / 8)).eraseDups
/-- Memory under bit ranges as an access sees it: registers of this module's management window stand at their addresses (R254). -/
def withWindow (s : State) (l : List (Nat × Nat)) : List Host.Cell :=
  if l.any fun (b, _) => ownMgmt s (b / 8) then
    (bytesUnder l).foldl (fun m a => if ownMgmt s a then Memory.set m a (mgmtByte s (mgmtOff a)) else m) s.mem
  else s.mem
/-- A move performs on memory `m`, reading from `src`. -/
def performMove (src : List Host.Cell) (m : List Host.Cell) (x : Move) : List Host.Cell :=
  Memory.writeBits m x.dst x.n (x.lit.getD (Memory.readBits src x.src x.n))
/-- Moves and block expansions of a piece on memory `m`, reading from `src` (R212, R247). -/
def performMoves (src m : List Host.Cell) (p : Piece) : List Host.Cell :=
  let m1 := p.moves.foldl (performMove src) m
  match p.expand with
  | some (from_, dst) => Memory.writeCells m1 (dst.zip (unpackBlock (from_.map (Memory.get src))))
  | none => m1

/-- Lines that a piece reads. -/
def Piece.lines (p : Piece) : List Nat := linesUnder p.reads
/-- The core whose L1 a transfer passes by (R206). -/
def coreOfTransfer (t : Transfer) : Option Nat := t.ctx.map coreOf
/-- The L1s give a line up to a piece (R206): the issuing core's dirty bytes are pushed, and exclusive copies of other cores are taken
back. -/
def freeLine (t : Transfer) (s : State) (line : Nat) : State := match coreOfTransfer t with
  | some k => reclaim (pushLine s k line) k line
  | none => reclaimAll s line
/-- A line is read for a piece (R206, R228): the agent obtains it by RdS, or reads it at its home where it is not cached for this
transfer (R267).  Its correctable errors are found (R273). -/
def readForPiece (t : Transfer) (s : State) (line : Nat) : State :=
  if !tagged s (line * 128) then homeAccess s t.agent line true []
  else
    let e := pteOf t.leaves (line * 128)
    let s1 := freeLine t s line
    if Pte.home e = 1 then homeAccess s1 t.agent line true [] else obtainShared s1 t.agent line e

/-- A piece writes its line (R206): the agent obtains M, or writes at the home where the line is not cached for this transfer (R224, R267);
the bits are written, and the core's copy is dropped. -/
def writePiece (s : State) (t : Transfer) (p : Piece) : State :=
  let pa := p.line * 128
  let e := pteOf t.leaves pa
  let src := withWindow s p.reads
  if ownMgmt s pa then
    let m := performMoves src (withWindow s p.writes) p
    mgmtWrite s ((bytesUnder p.writes).map fun a => (mgmtOff a, Memory.get m a))
  else
    let s0 := if tagged s pa then freeLine t s p.line else s
    let m := performMoves src s0.mem p
    let s1 := if !tagged s pa || Pte.home e = 1 then
        homeAccess s0 t.agent p.line false ((bytesUnder p.writes).map fun a => (a, Memory.get m a))
      else obtainPinned s0 t.agent p.line e
    let s2 := written { s1 with mem := m } p.writes
    match coreOfTransfer t with
    | some k => eraseL1 s2 k p.line
    | none => s2
/-- A piece of a load writes the scratchpad, and what the layout unit supplies there is padding (R149). -/
def loadPiece (s : State) (p : Piece) : State :=
  let s1 := written { s with mem := performMoves (withWindow s p.reads) s.mem p } p.writes
  { s1 with padBits := s1.padBits ++ (p.moves.filter (·.pad)).map fun m => (m.dst, m.n) }

/-- A tile load whose pieces count (R373); a `chrecv` counts at its flush. -/
def isTileLoad (t : Transfer) : Bool := match t.kind with
  | .load | .hmget _ => true
  | _ => false
/-- The bit ranges that a piece of a tile load takes; those of an `hmget` count though its line has been freed (R292). -/
def sourceBits (t : Transfer) (p : Piece) : List (Nat × Nat) := match t.kind with
  | .hmget _ => p.moves.map fun m => (m.src, m.n)
  | _ => p.reads
/-- Bytes whose first bit lies in a bit range. -/
def bytesBegun (l : List (Nat × Nat)) : Nat := (l.map fun (b, n) => (b + n + 7) / 8 - (b + 7) / 8).sum
/-- Events of a piece of a tile load (R305, R373, R374). -/
def countPiece (s : State) (t : Transfer) (p : Piece) : State :=
  if isTileLoad t then
    let served := p.lines.filter fun l => cacheable s (l * 128) (pteOf t.leaves (l * 128))
    countLater (countLater (countLater s t.life evL2 served.length) t.life evTxSrc (bytesUnder (sourceBits t p)).length) t.life
      evTxDst (bytesBegun p.writes)
  else s

/-- The line that stops a piece, and why (R223, R273). -/
def pieceFault (s : State) (t : Transfer) (p : Piece) : Option (Nat × TrapCode) :=
  let bad (own : Bool) (l : Nat) : Bool := refused s t.agent (l * 128) (pteOf t.leaves (l * 128)) own
  firstSome [(p.lines.find? (bad false)).map fun l => (l, .mchk),
    if p.store && bad true p.line then some (p.line, .mchk) else none,
    (p.lines.find? s.homes.dataErr.contains).map fun l => (l, .soft)]

/-- PIECE (R206, R211): a piece that meets a bad line moves nothing, and the bead takes the trap (R223, R273, R336). -/
def execPiece (t i : Nat) (s : State) : Host.Outcome State Fault Refusal :=
  .next (match transferOf s t with
    | none => s
    | some x => match x.pieces[i]? with
      | none => s
      | some p =>
        if !hasPieces x || !pieceReady s x p then s
        else
          let s0 := setTransfer s { x with pieces := x.pieces.eraseIdx i }
          match pieceFault s x p with
          | some (line, code) => transferTrap s0 x line code
          | none =>
            let s1 := p.lines.foldl (readForPiece x) s0
            countPiece (if p.store then writePiece s1 x p else loadPiece s1 p) x p)

/-- The abandon marks of tile registers go. -/
def unmark (l : List Nat) (r : Arch) : Arch := l.foldl (fun r n =>
  setTReg r (BitVec.ofNat 5 n) { tReg r (BitVec.ofNat 5 n) with abandoned := none }) r
/-- The abandon mark of a tile register in an image of a save area goes, and that it is pending (R341, log 13). -/
def unmarkImage (s : State) (j base n : Nat) : State :=
  let va := base + 0x680 + 48 * n + 24
  let m := vRead s j va 8
  vClear (vWrite s j va 8 (m % 2)) j (va + 8) 16
/-- A load that has completed clears the abandon marks of its tile registers, in a context, in its shadow set where the load was issued
before the checkpoint, and in a saved bead (R136, R332, R341). -/
def clearMarks (s : State) (t : Transfer) : State := match ctxOfLife s t.life, savedOf s t.life with
  | some c, _ => s.modCtx c fun x => { x with
      arch := unmark t.tiles x.arch, shadow := if t.uid < x.ckptUid then unmark t.tiles x.shadow else x.shadow }
  | none, some (key, v) =>
    let old := decide (t.uid < v.ckptUid)
    let s1 := s.modHub fun h => { h with saved := h.saved.set key { v with
      arch := unmark t.tiles v.arch, shadow := if old then unmark t.tiles v.shadow else v.shadow } }
    let clear (s : State) (base : Nat) : State :=
      t.tiles.foldl (fun s n => unmarkImage s (key / 2 ^ 64) (key % 2 ^ 64 + base) n) s
    if old then clear (clear s1 currentImage) shadowImage else clear s1 currentImage
  | none, none => s

/-- The message of a copy's completion: the node's index and the address of its graph's descriptor, to the locket that the copy names
(R326; log 74). -/
def tellCopy (s : State) (t : Transfer) (g j : Nat) : State := match s.hub.graphs.get? g with
  | none => s
  | some x =>
    let n := Config.copyLocket j x.desc % 2 ^ 16
    if n = 0 then s
    else sendMail s { locket := n, msg := BitVec.ofNat 256 (j % 2 ^ 64 + x.desc % 2 ^ 64 * 2 ^ 64), src := .unit t.job }
/-- The root of a copy is dropped as `hmdrop` drops it, and the copy ends (R225, R299): the drop waits for Acks where it frees the
root's line. -/
def dropRoot (s : State) (x : Transfer) (root : Name) (group : Nat) : State :=
  let hid := hidOf s x.job
  if !s.hall.freeing.isEmpty || !nameReady s root then s
  else match dropFault s hid [root] with
    | some (line, code) => finishTransfer (transferTrap s x line code) x
    | none =>
      if !(freedBy s hid [root]).isEmpty then sendInvs s hid x.job group [root]
      else
        let place := match x.ctx with
          | some c => slotNo c * 128 + coreNo (coreOf c)
          | none => 0
        endCopy (dropName s hid x.job group root fun s => eventRecord s x.job root x.pc 1 place x.agent) x group

/-- COUNT (R206, R244, R299): after the last piece the counter takes one more and the transfer completes.  An `append` first advances
DONE, and an `hmcopy` drops its root. -/
def execCount (t : Nat) (s : State) : Host.Outcome State Fault Refusal :=
  .next (match transferOf s t with
    | none => s
    | some x =>
      if !x.pieces.isEmpty then s
      else match x.kind with
        | .load | .hmget _ => finishTransfer (clearMarks s x) x
        | .store => finishTransfer s x
        | .append hdr rows => match atomFault s x.agent (hdr + 12) (pteOf x.leaves hdr) with
          | some code => setTransfer (transferTrap s x (hdr / 128) code) { x with kind := .store }
          | none =>
            setTransfer (pointAtom s x.agent (hdr + 12) (pteOf x.leaves hdr) 4 fun v => (v + rows) % 2 ^ 32).2 { x with kind := .store }
        | .graphCopy g j => tellCopy (finishNode (finishTransfer s x) g j false) x g j
        | .hmcopy root group => dropRoot s x root group
        | _ => s)

/-- MX_TILE_WRITE_FORMED (R166): the oldest write of the context that is not formed. -/
def formFirst : List Entry → Option (List Entry)
  | [] => none
  | e :: r => match e.act with
    | .mxWrite tl false b => some ({ e with act := .mxWrite tl true b } :: r)
    | _ => (formFirst r).map (e :: ·)
/-- MX_TILE_WRITE_FORMED (R166). -/
def execMxTileWriteFormed (c : Nat) (s : State) : Host.Outcome State Fault Refusal :=
  .next (match formFirst (s.ctx c).storeQ, formFirst (s.ctx c).withheld with
    | some q, _ => s.modCtx c fun x => { x with storeQ := q }
    | none, some w => s.modCtx c fun x => { x with withheld := w }
    | none, none => s)

/-- Element conversions of `tconv`, without flags (R104, R245). -/
def convertTile (s : State) (dst src : TileRef) (rounding : BitVec 3) : List Host.Cell :=
  (List.range dst.reg.rows).foldl (fun m r => (List.range dst.reg.cols).foldl (fun m j =>
    dst.setElem m r j (vcvtLane dst.reg.fmt src.reg.fmt (Rm.ofCode rounding.toNat) (src.elem s r j)).1) m) s.mem
/-- Bit ranges cut at lines. -/
def cutLines (l : List (Nat × Nat)) : List (Nat × Nat) := l.flatMap fun (b, n) => (linesUnder [(b, n)]).map fun x =>
  (Nat.max b (1024 * x), Nat.min (b + n) (1024 * x + 1024) - Nat.max b (1024 * x))
/-- A transform acts as a whole: it reads its source, and writes its result; bad data in what it reads move nothing and raise SOFT (R273,
R336). -/
def transformWith (s : State) (x : Transfer) (f : State → State) : State :=
  let l := linesUnder x.toRead
  match l.find? s.homes.dataErr.contains with
  | some line => finishTransfer (transferTrap s x line .soft) x
  | none => finishTransfer (f (l.foldl findErrors s)) x
/-- TRANSFORM_COMPLETE (R211, R245). -/
def execTransformComplete (t : Nat) (s : State) : Host.Outcome State Fault Refusal :=
  .next (match transferOf s t with
    | none => s
    | some x =>
      if !wholeReady s x then s
      else match x.kind with
        | .transform => transformWith s x fun s =>
          written { s with mem := x.pieces.foldl (fun m p => performMoves s.mem m p) s.mem } (x.pieces.flatMap Piece.writes)
        | .convert dst src rounding => transformWith s x fun s =>
          written { s with mem := convertTile s dst src rounding } (cutLines (bitRanges dst.ranges))
        | _ => s)

/-- RECORD_CACHE_EVICTION (R248). -/
def execRecordCacheEviction (die line : Nat) (s : State) : Host.Outcome State Fault Refusal :=
  .next { s with recCache := List.map (fun (p : Nat × Table (BitVec 1024)) =>
    if p.1 = die then (p.1, p.2.erase line) else p) s.recCache }

/-- The bytes of a window that lie between two split sizes become zero: scratchpad that turns into L1 is lost, and L1 that turns into
scratchpad reads as zero (R250). -/
def clearPart (s : State) (k u v : Nat) : State :=
  let (lo, hi) := splitPart u v
  let base := windowBase (agentOfCore s k) (coreNo k) + lo
  unpad { s with mem := Memory.clear s.mem base (hi - lo) } [(8 * base, 8 * (hi - lo))]
/-- PHASE_SPLIT_TAKES_EFFECT (R250): at c + D, or once the bead has left its context, the L1 is empty and the new split holds. -/
def execPhaseSplitTakesEffect (k : Nat) (s : State) : Host.Outcome State Fault Refusal :=
  .next (match (s.core k).phase with
    | none => s
    | some (u, c, due) =>
      let x := s.ctx c
      if x.run.isSome && x.phaseWin.isSome && decide (x.arch.cc < due) then s
      else
        let s1 := dropLines (pushAll s k) k (l1Lines s k)
        ((clearPart s1 k u (s1.core k).u).modCore k fun y => { y with u := u, phase := none }).modCtx c fun x =>
          { x with phaseWin := none })

end Sys2Proof.Machine
end

