-- ==== Sys2Proof/Machine/Fabric.lean ====
section
/-! DEFINITION. Channels, communication processors and aborts (spec 23, R378 to R389). -/
namespace Sys2Proof.Machine

/-! ### Slots (R381, R383) -/

/-- Bytes of a row of a channel's element. -/
def chanRowBytes (s : State) (j : Nat) (e : ChanEntry) : Nat := match chanFormat s j e with
  | some f => ((chanRecord s j e).ext 0 * storedBits f + 7) / 8
  | none => 0
/-- Bytes of an element's rows. -/
def chanBytes (s : State) (j : Nat) (e : ChanEntry) : Nat := (chanRecord s j e).ext 1 * chanRowBytes s j e
/-- Virtual address of the slot of element `n` of contributor `k` (R381). -/
def slotVa (s : State) (j : Nat) (e : ChanEntry) (n k : Nat) : Nat :=
  e.slots + (n % e.depth * e.sources + k) * ((chanBytes s j e + 127) / 128 * 128)

/-- Write bytes of job `j` at a virtual address for the hub, line by line (R7); unmapped bytes are left alone. -/
def vPutBytes (s : State) (j va : Nat) (l : List Byte) : State := vWrite s j va l.length (bytesToNat l)

/-- LATE goes up, saturating, by one atom step on the status word (R381, R383). -/
def countLate (s : State) (j : Nat) (e : ChanEntry) : State :=
  vAtom s j (e.va + 24) 8 fun x => putBits x 40 8 (sat 255 (bitsOf x 40 8 + 1))
/-- How far ahead of DELIV element `n` is, modulo 2^32. -/
def aheadOf (deliv n : Nat) : Nat := (n + 2 ^ 32 - deliv) % 2 ^ 32
/-- How far ahead of an entry's DELIV element `n` is. -/
def ahead (e : ChanEntry) (n : Nat) : Nat := aheadOf e.deliv n
/-- The slot of element `n` is not free yet: the receiver's DELIV is not above n - DEPTH (R383). -/
def slotTaken (depth deliv n : Nat) : Bool := decide (depth ≤ aheadOf deliv n) && decide (aheadOf deliv n < 2 ^ 31)

/-- A contribution is present at the receiver. -/
def addPresent (s : State) (j ch n k : Nat) : State :=
  let x := s.chans.get (chanKey j ch) Chan.reset
  { s with chans := s.chans.set (chanKey j ch) { x with present := x.present ++ [(n, k, s.hub.timebase.toNat)] } }
/-- The element of a contributor is present already (R389). -/
def isPresent (s : State) (j ch n k : Nat) : Bool :=
  (s.chans.get (chanKey j ch) Chan.reset).present.any fun (m, i, _) => m == n && i == k

/-- A channel's stream receives from an agent (R388). -/
def addSender (s : State) (agent j ch : Nat) : State :=
  let x := s.chans.get (chanKey j ch) Chan.reset
  if x.senders.contains agent then s
  else { s with chans := s.chans.set (chanKey j ch) { x with senders := x.senders ++ [agent] } }
/-- When the first contribution to element `n` arrived, or the receive issued (R384). -/
def waitStart (x : Chan) (n issued : Nat) : Nat := match x.present.filter fun (m, _, _) => m == n with
  | [] => issued
  | (_, _, t) :: r => r.foldl (fun a (_, _, b) => Nat.min a b) t
/-- The TIMEOUT of element `n` has ended for the receive that takes it (R384). -/
def expiredAt (s : State) (x : Chan) (e : ChanEntry) (n issued : Nat) : Bool :=
  decide (waitStart x n issued + e.timeoutNs ≤ s.hub.timebase.toNat)
/-- The TIMEOUT of the element that a channel's oldest receive takes has ended (R384). -/
def expired (s : State) (x : Chan) (e : ChanEntry) (issued : Nat) : Bool := expiredAt s x e e.deliv issued
/-- Pending receives of a channel, the oldest first, up to the first whose TIMEOUT has not ended: each takes the element after that of the one
before (R384). -/
def overdue (s : State) (x : Chan) (e : ChanEntry) : Nat :=
  (x.recvs.zipIdx.takeWhile fun ((_, issued), i) => expiredAt s x e ((e.deliv + i) % 2 ^ 32) issued).length
/-- A contribution to element `n` comes after the TIMEOUT of its receive, at whose end the element is flushed (R384, R389; log 169). -/
def tooLate (s : State) (j ch : Nat) (e : ChanEntry) (n : Nat) : Bool :=
  decide (ahead e n < overdue s (s.chans.get (chanKey j ch) Chan.reset) e)
/-- A contribution of an agent whose slot is free is written into it, or is dropped: late, sent twice, or to an entry that does not take
it (R381, R383, R389). -/
def takeSlot (s0 : State) (agent j ch k n : Nat) (data : List Byte) : State :=
  let s := seeChannel (addSender s0 agent j ch) j ch
  let e := chanEntry s j ch
  if !chanValid s j ch || decide (e.sources ≤ k) then s
  else if decide (2 ^ 31 ≤ ahead e n) || tooLate s j ch e n || isPresent s j ch n k then countLate s j e
  else addPresent (vPutBytes s j (slotVa s j e n k) data) j ch n k
/-- The contribution must wait for a free slot (R383). -/
def slotWaits (s : State) (j ch n : Nat) : Bool :=
  let e := chanEntry s j ch
  chanValid s j ch && slotTaken e.depth e.deliv n

/-- Flits of a message of `n` bytes of payload (R378). -/
def flitsOf (n : Nat) : Nat := Nat.max 1 ((n + 239) / 240)
/-- Flits of the module's ports count for every context (R305, R373). -/
def countFlits (s : State) (code n : Nat) : State := s.ctxs.foldl (fun s (c, _) => count s c code n) s

/-- CHANNEL_SLOT_WRITE (R383, R389): a send of this module writes its peer's slot, or crosses the fabric once the receiver's DELIV, which
its module tells, leaves a slot free; or a peer's element arrives, but from a lost agent, which writes nothing (R223). -/
def execChannelSlotWrite (src : SlotSource) (s : State) : Host.Outcome State Fault Refusal :=
  .next (match src with
    | .transfer u deliv => match transferOf s u with
      | none => s
      | some t => match t.kind with
        | .chsend j ch agent core k n depth data =>
          if agent / 4 = s.pos then (if slotWaits s j ch n then s else finishTransfer (takeSlot s t.agent j ch k n data) t)
          else if slotTaken depth deliv n then s
          else
            let s1 := { s with fabricOut := s.fabricOut ++ [.slot agent core j ch k n data] }
            finishTransfer (countFlits s1 evFabTx (flitsOf data.length)) t
        | _ => s
    | .peer agent j ch k n data =>
      if s.homes.lost.contains agent || slotWaits s j ch n then s
      else takeSlot (countFlits s evFabRx (flitsOf data.length)) agent j ch k n data)

/-! ### Receiving (R384) -/

/-- An integer of a format, signed or natural. -/
def intOf (f : ETy) (x : Nat) : Int := if f.isI then sextNat f.bits x else ((x % 2 ^ f.bits : Nat) : Int)
/-- The bound of a format that an integer passes, or the integer. -/
def clampTo (f : ETy) (v : Int) : Int :=
  let (lo, hi) : Int × Int := if f.isI then (-2 ^ (f.bits - 1), 2 ^ (f.bits - 1) - 1) else (0, 2 ^ f.bits - 1)
  if v < lo then lo else if hi < v then hi else v
/-- op of a channel: 1 ADD, 2 MAX, 3 MIN, 4 ADDSAT (R384).  A NaN operand gives the default NaN (R118), under MAX and MIN too, though one
NaN operand of the maximumNumber that R384 names would give the other operand (log 165, DEDUCED). -/
def combine (f : ETy) (comb x y : Nat) : Nat :=
  if f.isFp then
    if (decodeF (ffmt f) x).isNan || (decodeF (ffmt f) y).isNan then (ffmt f).nan
    else match comb with
    | 1 => (addF (ffmt f) .rne (decodeF (ffmt f) x) (decodeF (ffmt f) y)).1
    | 2 => (minMaxF (ffmt f) true x y).1
    | _ => (minMaxF (ffmt f) false x y).1
  else match comb with
    | 1 => (x + y) % 2 ^ f.bits
    | 2 => if intOf f x < intOf f y then y else x
    | 3 => if intOf f y < intOf f x then y else x
    | _ => (clampTo f (intOf f x + intOf f y) % 2 ^ f.bits).toNat

/-- An element of the combined contributions, in index order; none where none is present. -/
def combined (f : ETy) (comb : Nat) (l : List Nat) : Option Nat := match l with
  | [] => none
  | x :: r => some (r.foldl (combine f comb) x)
/-- The element of contribution bytes at row `r` and column `k`. -/
def slotElem (rb bits x r k : Nat) : Nat := bitsOf x (8 * rb * r + bits * k) bits
/-- The combined element is written into the region (R384). -/
def writeElement (s : State) (t : TileRef) (comb : Nat) (l : List Nat) : State :=
  unpad { s with mem := (List.range t.reg.rows).foldl (fun m r => (List.range t.reg.cols).foldl (fun m k =>
      match combined t.reg.fmt comb (l.map fun x => slotElem t.reg.rb t.reg.bits x r k) with
      | some v => t.setElem m r k v
      | none => m) m) s.mem } (if l.isEmpty then [] else bitRanges t.rowRanges)

/-- Contributors whose contribution to element `n` is present, in index order. -/
def presentOf (x : Chan) (n sources : Nat) : List Nat :=
  (List.range sources).filter fun k => x.present.any fun (m, i, _) => m == n && i == k
/-- The element is flushed now (R384). -/
def flushDue (s : State) (x : Chan) (e : ChanEntry) (issued : Nat) : Bool :=
  (presentOf x e.deliv e.sources).length == e.sources || expired s x e issued
/-- MISSING and DELIV after a flush (R381, R384). -/
def statusAfter (absent x : Nat) : Nat :=
  putBits (putBits x 48 16 (sat 0xFFFF (bitsOf x 48 16 + absent))) 0 32 (bitsOf x 0 32 + 1)

/-- Element `n` leaves the channel, with its receive. -/
def leaveChannel (n : Nat) (x : Chan) : Chan :=
  { x with present := x.present.filter fun (m, _, _) => m != n, recvs := x.recvs.tail }
/-- The oldest receive of a channel takes its element, and completes (R384); a tile load, it counts the bytes that it fetched and wrote (R355,
R373).  The atom step on STATUS acts for the home agent of the entry, as a step of the L9 that no instruction performs; R206 and R384 do not say
so (log 176, DESIGN CHOICE). -/
def flushChannel (s0 : State) (j ch : Nat) (x : Chan) (e : ChanEntry) (t : Transfer) (tile : TileRef) : State :=
  let n := e.deliv
  let l := presentOf x n e.sources
  let s := l.foldl (fun s k => vSee s j (slotVa s j e n k) (chanBytes s j e)) s0
  let taken := writeElement s tile e.comb (l.map fun k => vRead s j (slotVa s j e n k) (chanBytes s j e))
  let s1 := countLater (countLater taken t.life evTxSrc (l.length * chanBytes s j e)) t.life evTxDst
    (if l.isEmpty then 0 else tile.reg.rows * tile.reg.rb)
  let s2 := vAtom s1 j (e.va + 24) 8 (statusAfter (e.sources - l.length))
  let s3 := { s2 with chans := s2.chans.set (chanKey j ch) (leaveChannel n x) }
  finishTransfer (clearMarks s3 t) t

/-- The oldest receive of a channel takes its element when it is `due`; like a tile load it follows what its context's queue held at its
issue (R211, R384). -/
def flushWhen (due : State → Chan → ChanEntry → Nat → Bool) (s : State) (job ch : Nat) : State :=
  let x := s.chans.get (chanKey job ch) Chan.reset
  match x.recvs with
  | [] => s
  | (u, issued) :: _ =>
    let e := chanEntry s job ch
    match transferOf s u with
    | none => s
    | some t => match t.kind with
      | .chrecv _ _ tile => if wholeReady s t && due s x e issued then flushChannel s job ch x e t tile else s
      | _ => s
/-- CHANNEL_FLUSH (R384, R385): all contributions have arrived, or the timeout has ended. -/
def execChannelFlush (job ch : Nat) (s : State) : Host.Outcome State Fault Refusal := .next (flushWhen flushDue s job ch)
/-- A channel's receives whose TIMEOUT has ended take their elements, the oldest first, at most `n` (R384). -/
def flushExpired (job ch : Nat) : Nat → State → State
  | 0, s => s
  | n + 1, s =>
    let t := flushWhen expired s job ch
    if (t.chans.get (chanKey job ch) Chan.reset).recvs.length = (s.chans.get (chanKey job ch) Chan.reset).recvs.length then t
    else flushExpired job ch n t
/-- Every receive whose TIMEOUT has ended takes its element (R384). -/
def flushAll (s : State) : State :=
  s.chans.foldl (fun s (k, x) => flushExpired (k / 4096) (k % 4096) x.recvs.length s) s

/-! ### Communication processors (R386, R387) -/

/-- Work entry `i` of a port. -/
def workEntry (s : State) (port i : Nat) : BitVec 512 := s.mgmt.work.get (port * 256 + i) 0
/-- Set a work entry. -/
def setWork (s : State) (port i : Nat) (x : BitVec 512) : State :=
  s.modMgmt fun m => { m with work := m.work.set (port * 256 + i) x }
/-- JOB of a work entry. -/
def workJob (x : BitVec 512) : Nat := bitsOf x.toNat 20 16
/-- A work entry with another STATE. -/
def withState (x : BitVec 512) (st : Nat) : BitVec 512 := BitVec.ofNat 512 (putBits x.toNat 0 2 st)
/-- The trigger of a work entry has been reached (R387). -/
def triggered (s : State) (x : BitVec 512) : Bool :=
  decide ((vRead s (workJob x) (wordOf x 1 / 8 * 8) 8 % 2 ^ 32 + 2 ^ 32 - bitsOf x.toNat 160 32) % 2 ^ 32 < 2 ^ 31)
/-- A run exchanges nothing and completes at once (R387). -/
def emptyRun (x : BitVec 512) : Bool := bitsOf x.toNat 128 32 == 0 || decide (bitsOf x.toNat 48 8 ≤ 1)

/-- The entry once a run has ended (R387, steps 2 and 3). -/
def stepWork (x : BitVec 512) : BitVec 512 :=
  let stride := wordOf x 5
  let rounds := bitsOf x.toNat 416 32
  let y := putBits (putBits x.toNat 192 64 (wordOf x 3 + stride)) 256 64 (wordOf x 4 + stride)
  let z := putBits y 160 32 (bitsOf x.toNat 160 32 + bitsOf x.toNat 384 32)
  BitVec.ofNat 512 (putBits (putBits z 416 32 (rounds - 1)) 0 2 (if rounds = 1 then 0 else 1))
/-- The steps that end a run (R387). -/
def endRun (s : State) (port i : Nat) : State :=
  let x := workEntry s port i
  setWork (vAtom s (workJob x) (wordOf x 7) 8 fun v => (v + 1) % 2 ^ 64) port i (stepWork x)

/-- WORK_ENTRY_RUN (R387). -/
def execWorkEntryRun (port i : Nat) (s : State) : Host.Outcome State Fault Refusal :=
  .next (
    let x := workEntry s port i
    if 16 ≤ port ∨ 256 ≤ i ∨ workState x ≠ 1 ∨ !triggered s x then s
    else
      let s1 := vSee s (workJob x) (wordOf x 1 / 8 * 8) 8
      if emptyRun x then endRun s1 port i else setWork s1 port i (withState x 2))
/-- Bytes at DST that a run may write: COUNT elements of its channel (R386; log 88). -/
def runBytes (s : State) (x : BitVec 512) : Nat :=
  bitsOf x.toNat 128 32 * chanBytes s (workJob x) (chanEntry s (workJob x) (bitsOf x.toNat 36 12))
/-- The moves of a run, which its firmware makes: its destination holds free values after it (R386, R387; log 88). -/
def runMemory (s : State) (x : BitVec 512) : State :=
  vPutBytes { s with free := s.free + 1 } (workJob x) (wordOf x 4) ((List.range (runBytes s x)).map (Config.scheduleByte s.free))
/-- WORK_RUN_COMPLETE (R387): every byte of the run stands at the coherent point, and the run ends. -/
def execWorkRunComplete (port i : Nat) (s : State) : Host.Outcome State Fault Refusal :=
  .next (if 16 ≤ port ∨ 256 ≤ i ∨ workState (workEntry s port i) ≠ 2 then s
    else endRun (runMemory s (workEntry s port i)) port i)

/-! ### Aborts (R388) -/

/-- The module's own agents. -/
def ownAgents (s : State) : List Nat := (List.range Config.dies).map (4 * s.pos + ·)
/-- Entries of a job that are armed or running. -/
def liveWork (s : State) (j : Nat) : List (Nat × BitVec 512) :=
  s.mgmt.work.filter fun (_, x) => workJob x == j && (workState x == 1 || workState x == 2)
/-- An abort of this module's agents reaches a peer agent (R388). -/
def sendAbort (j : Nat) (s : State) (peer : Nat) : State :=
  if peer / 4 = s.pos then (ownAgents s).foldl (fun s a => abortJob s j a) s
  else countFabric { s with fabricOut := s.fabricOut ++ [.abort peer j] } evFabTx

/-- COLLECTIVE_ABORT (R324, R388): every agent that the channel of an entry names is told; a channel that does not exist names none. -/
def execCollectiveAbort (job : Nat) (s : State) : Host.Outcome State Fault Refusal :=
  .next (
    if !s.hub.aborts.contains job then s
    else
      let l := liveWork s job
      let chans := ((l.map fun (_, x) => bitsOf x.toNat 36 12).eraseDups).filter (chanExists s job)
      let peers := (chans.map fun ch => (chanEntry s job ch).peerAgent).eraseDups
      let s1 := (chans.foldl (fun s ch => seeChannel s job ch) s).modHub fun h => { h with aborts := h.aborts.filter (· != job) }
      let s2 := l.foldl (fun s (k, x) => s.modMgmt fun m => { m with work := m.work.set k (withState x 3) }) s1
      peers.foldl (sendAbort job) s2)
/-- ABORT_MESSAGE (R388); a lost agent's ports are disabled (R223). -/
def execAbortMessage (job agent : Nat) (s : State) : Host.Outcome State Fault Refusal :=
  .next (if s.homes.lost.contains agent then s else abortJob (countFabric s evFabRx) job agent)

end Sys2Proof.Machine
end

