-- ==== Sys2Proof/Machine/Issue.lean ====
section
/-! DEFINITION. Bundle issue: fetch, stall counts, the issue merge, register-miss micro-traps and the issue of a decoded bundle (spec
03, R20 to R23, R48 to R51, R59, R60; 12, R216; 20, R342; 22, R372). -/
namespace Sys2Proof.Machine

/-- What an instruction does as a slot operation (R61); an event is none. -/
def slotOp : Instr → Option OpFn
  | .add a => some (opAdd a)
  | .sub a => some (opSub a)
  | .mul a => some (opMul a)
  | .mulh a => some (opMulh a)
  | .mulhn a => some (opMulhn a)
  | .neg a => some (opNeg a)
  | .abs a => some (opAbs a)
  | .min a => some (opMin a)
  | .max a => some (opMax a)
  | .minn a => some (opMinn a)
  | .maxn a => some (opMaxn a)
  | .and a => some (opAnd a)
  | .or a => some (opOr a)
  | .xor a => some (opXor a)
  | .andn a => some (opAndn a)
  | .not a => some (opNot a)
  | .shl a => some (opShl a)
  | .shr a => some (opShr a)
  | .sar a => some (opSar a)
  | .rol a => some (opRol a)
  | .clz a => some (opClz a)
  | .ctz a => some (opCtz a)
  | .popc a => some (opPopc a)
  | .bext a => some (opBext a)
  | .bins a => some (opBins a)
  | .bswap a => some (opBswap a)
  | .cmpEq a => some (opCmpEq a)
  | .cmpNe a => some (opCmpNe a)
  | .cmpLt a => some (opCmpLt a)
  | .cmpLe a => some (opCmpLe a)
  | .cmpLtn a => some (opCmpLtn a)
  | .cmpLen a => some (opCmpLen a)
  | .mov a => some (opMov a)
  | .sel a => some (opSel a)
  | .li a => some (opLi a)
  | .lih a => some (opLih a)
  | .lea a => some (opLea a)
  | .fadd a => some (opFadd a)
  | .fsub a => some (opFsub a)
  | .fmul a => some (opFmul a)
  | .fma a => some (opFma a)
  | .fnma a => some (opFnma a)
  | .fmin a => some (opFmin a)
  | .fmax a => some (opFmax a)
  | .fabs a => some (opFabs a)
  | .fneg a => some (opFneg a)
  | .fcmpEq a => some (opFcmpEq a)
  | .fcmpNe a => some (opFcmpNe a)
  | .fcmpLt a => some (opFcmpLt a)
  | .fcmpLe a => some (opFcmpLe a)
  | .fcmpUn a => some (opFcmpUn a)
  | .fcvt a => some (opFcvt a)
  | .fclass a => some (opFclass a)
  | .fdiv a => some (opFdiv a)
  | .fsqrt a => some (opFsqrt a)
  | .frsqrt a => some (opFrsqrt a)
  | .pand a => some (opPand a)
  | .por a => some (opPor a)
  | .pxor a => some (opPxor a)
  | .pandn a => some (opPandn a)
  | .pmov a => some (opPmov a)
  | .pmovLo a => some (opPmovLo a)
  | .pmovHi a => some (opPmovHi a)
  | .pany a => some (opPany a)
  | .pall a => some (opPall a)
  | .br a => some (opBr a)
  | .jmp a => some (opJmp a)
  | .call a => some (opCall a)
  | .ret a => some (opRet a)
  | .loop a => some (opLoop a)
  | .getc a => some (opGetc a)
  | .setc a => some (opSetc a)
  | .vadd a => some (opVadd a)
  | .vsub a => some (opVsub a)
  | .vmul a => some (opVmul a)
  | .vfma a => some (opVfma a)
  | .vfnma a => some (opVfnma a)
  | .vmin a => some (opVmin a)
  | .vmax a => some (opVmax a)
  | .vabs a => some (opVabs a)
  | .vneg a => some (opVneg a)
  | .vcmpEq a => some (opVcmpEq a)
  | .vcmpNe a => some (opVcmpNe a)
  | .vcmpLt a => some (opVcmpLt a)
  | .vcmpLe a => some (opVcmpLe a)
  | .vcmpUn a => some (opVcmpUn a)
  | .vsel a => some (opVsel a)
  | .vclass a => some (opVclass a)
  | .viadd a => some (opViadd a)
  | .visub a => some (opVisub a)
  | .vimul a => some (opVimul a)
  | .vimulh a => some (opVimulh a)
  | .vand a => some (opVand a)
  | .vor a => some (opVor a)
  | .vxor a => some (opVxor a)
  | .vshl a => some (opVshl a)
  | .vshr a => some (opVshr a)
  | .vsar a => some (opVsar a)
  | .vimin a => some (opVimin a)
  | .vimax a => some (opVimax a)
  | .viminn a => some (opViminn a)
  | .vimaxn a => some (opVimaxn a)
  | .vicmpEq a => some (opVicmpEq a)
  | .vicmpNe a => some (opVicmpNe a)
  | .vicmpLt a => some (opVicmpLt a)
  | .vicmpLe a => some (opVicmpLe a)
  | .vicmpLtn a => some (opVicmpLtn a)
  | .vicmpLen a => some (opVicmpLen a)
  | .vcvt a => some (opVcvt a)
  | .vscale a => some (opVscale a)
  | .vdiv a => some (opVdiv a)
  | .vsqrt a => some (opVsqrt a)
  | .vrsqrt a => some (opVrsqrt a)
  | .vrcp a => some (opVrcp a)
  | .vexp2 a => some (opVexp2 a)
  | .vlog2 a => some (opVlog2 a)
  | .vtanh a => some (opVtanh a)
  | .vsigm a => some (opVsigm a)
  | .vsum a => some (opVsum a)
  | .vrmax a => some (opVrmax a)
  | .vrmin a => some (opVrmin a)
  | .vbcast a => some (opVbcast a)
  | .vmov a => some (opVmov a)
  | .vlane a => some (opVlane a)
  | .vins a => some (opVins a)
  | .viota a => some (opViota a)
  | .vsig a => some (opVsig a)
  | .vsigFin a => some (opVsigFin a)
  | .xmov a => some (opXmov a)
  | .xperm a => some (opXperm a)
  | .xrot a => some (opXrot a)
  | .xshuf a => some (opXshuf a)
  | .xbcast a => some (opXbcast a)
  | .xzip a => some (opXzip a)
  | .xunzip a => some (opXunzip a)
  | .mmode a => some (opMmode a)
  | .mpush a => some (opMpush a)
  | .mrow a => some (opMrow a)
  | .mbeat a => some (opMbeat a)
  | .mdrain a => some (opMdrain a)
  | .mclear a => some (opMclear a)
  | .mbinv a => some (opMbinv a)
  | .mtag a => some (opMtag a)
  | .mresolve a => some (opMresolve a)
  | .mcombine a => some (opMcombine a)
  | .ld a => some (opLd a)
  | .vld a => some (opVld a)
  | .vgath a => some (opVgath a)
  | .tld a => some (opTld a)
  | .tldh a => some (opTldh a)
  | .pref a => some (opPref a)
  | .aadd a => some (opAadd a)
  | .aand a => some (opAand a)
  | .aor a => some (opAor a)
  | .axor a => some (opAxor a)
  | .amin a => some (opAmin a)
  | .amax a => some (opAmax a)
  | .aminn a => some (opAminn a)
  | .amaxn a => some (opAmaxn a)
  | .aswap a => some (opAswap a)
  | .acas a => some (opAcas a)
  | .acas16 a => some (opAcas16 a)
  | .st8 a => some (opSt8 a)
  | .st16 a => some (opSt16 a)
  | .st32 a => some (opSt32 a)
  | .st64 a => some (opSt64 a)
  | .vst8 a => some (opVst8 a)
  | .vst16 a => some (opVst16 a)
  | .vst32 a => some (opVst32 a)
  | .vst64 a => some (opVst64 a)
  | .vscat8 a => some (opVscat8 a)
  | .vscat16 a => some (opVscat16 a)
  | .vscat32 a => some (opVscat32 a)
  | .vscat64 a => some (opVscat64 a)
  | .tst a => some (opTst a)
  | .tsth a => some (opTsth a)
  | .append a => some (opAppend a)
  | .tdef a => some (opTdef a)
  | .tcopy a => some (opTcopy a)
  | .ttrans a => some (opTtrans a)
  | .tconv a => some (opTconv a)
  | .texp a => some (opTexp a)
  | .tcmp a => some (opTcmp a)
  | .tfill a => some (opTfill a)
  | .tsrf a => some (opTsrf a)
  | .phase a => some (opPhase a)
  | .hmput a => some (opHmput a)
  | .hmnode a => some (opHmnode a)
  | .hmget a => some (opHmget a)
  | .hmhold a => some (opHmhold a)
  | .hmdrop a => some (opHmdrop a)
  | .hmswap a => some (opHmswap a)
  | .hmcopy a => some (opHmcopy a)
  | .hmstatDirectory a => some (opHmstatDirectory a)
  | .hmstatLineTag a => some (opHmstatLineTag a)
  | .hmstatFree a => some (opHmstatFree a)
  | .cbind a => some (opCbind a)
  | .cacq a => some (opCacq a)
  | .crel a => some (opCrel a)
  | .ctry a => some (opCtry a)
  | .fence a => some (opFence a)
  | .wait a => some (opWait a)
  | .sig a => some (opSig a)
  | .yield a => some (opYield a)
  | .mark a => some (opMark a)
  | .done a => some (opDone a)
  | .spawn a => some (opSpawn a)
  | .post a => some (opPost a)
  | .cancelInstr a => some (opCancelInstr a)
  | .chsend a => some (opChsend a)
  | .chrecv a => some (opChrecv a)
  | .eplook a => some (opEplook a)
  | .epupd a => some (opEpupd a)
  | .epcfg a => some (opEpcfg a)
  | .trap a => some (opTrap a)
  | .eret a => some (opEret a)
  | .tlbinv a => some (opTlbinv a)
  | .qset a => some (opQset a)
  | .bundleIssue _ | .stallCycle _ | .issueMerge _ | .resultLand _ | .loadDataArrive _ _ | .atomicReleaseDeadline _ |
    .registerMissMicroTrap _ _ | .trapDelivery _ | .drain _ | .l1Push _ _ | .l1Drop _ _ | .atom _ | .hand _ |
    .piece _ _ | .count _ | .host _ | .hm _ | .hmFaultTrap _ | .heapLineFree | .releaseWalkerDrop _ |
    .walkerCounterAdd _ | .cbindPerform _ | .cacqLock _ | .crelPerform _ | .ctryPerform _ | .fencePerform _ |
    .hostFlushComplete _ | .sigPerform _ | .spawnPerform _ | .launchStart | .postPerform _ | .cancelPerform _ |
    .cancel | .eretPerform _ | .tlbinvPerform _ | .qsetPerform _ | .tsrfPerform _ | .predictorUpdateRelease _ |
    .predictorBindRelease _ | .hmcopyHmStep _ | .mxTileWriteFormed _ | .beadDispatch _ | .arbiterChoice _ |
    .roundStart | .budgetOverrun _ | .waitWake _ | .beadComplete _ | .forcedPreemption _ | .worldSwitch _ _ |
    .graphStart _ _ _ | .graphNodeComplete _ _ | .locketMessage _ _ _ | .locketHandlerComplete _ |
    .handlerInstanceStart | .debugStop _ | .dbgresWrite _ | .rds _ _ | .rdx _ _ | .upg _ _ | .wb _ _ | .ce _ _ |
    .fwds _ | .fwdx _ | .inv _ _ | .transactionComplete _ | .agentLost _ | .flitResend _ | .pageWalk _ _ |
    .migratorEpoch _ | .pageMigrate _ _ | .dcctlWrite _ _ | .nearConversionDone _ | .refresh _ _ |
    .hotRowCapture _ _ | .refreshWindowEnd _ | .heapInit _ | .chsendHand _ | .channelSlotWrite _ |
    .channelFlush _ _ | .workEntryRun _ _ | .workRunComplete _ _ | .collectiveAbort _ | .abortMessage _ _ |
    .functionLevelReset _ | .moduleReset | .bringUpStep _ _ | .mctlHalt _ | .mctlMigen _ | .resync | .attestation |
    .pwrAllowWrite _ | .powerGrantSend _ _ | .powerGrantReceive _ _ | .operatingPointChange _ | .thermalLimit _ |
    .controlRegisterWrite _ | .xpdataWrite _ | .rqRegisterWrite _ | .phaseSplitTakesEffect _ | .l2Eviction _ _ _ |
    .scrub _ _ | .transformComplete _ | .recordCacheEviction _ _ => none

/-- The slot of an operation; an event has none and names the S slot here. -/
def slotOrS (i : Instr) : Slot := (slotOf i).getD .s
/-- An operation as its bundle issues it: ILLENC when its entry refuses its encoding (R5). -/
def issued (i : Instr) : OpFn := match slotOp i with
  | some f => if wellFormed i then f else illegalOp (slotOrS i)
  | none => illegalOp (slotOrS i)
/-- An occupied slot of a decoded bundle (R5, R61). -/
def slotFn : Slot × SlotWord → OpFn
  | (_, .op i) => issued i
  | (k, .illegal _) => illegalOp k

/-! ### Fetch (R23, R216, R265) -/

/-- The bundle at a physical address as the instruction cache of core `k` gives it, or the coherent point; a management window answers for
itself (R254). -/
def bundleBits (s : State) (k pa : Nat) : BitVec 512 := match (s.core k).icache.get? (pa / 128) with
  | some d => d.extractLsb' (8 * (pa % 128)) 512
  | none => BitVec.ofNat 512 (if ownMgmt s pa then mgmtRead s (mgmtOff pa) 64 else s.readMem pa 64)
/-- The instruction cache of core `k` takes the line of `pa`, whose leaf is `e`, as a read at the coherent point gives it: no L1 takes part
(R216, R222, R224, R254).  A full cache loses a line. -/
def fillIcache (s : State) (k pa : Nat) (e : W64) : State :=
  let line := pa / 128
  if ((s.core k).icache.get? line).isSome then s
  else
    let (d, s1) := pointRead s (agentOfCore s k) (line * 128) e
    s1.modCore k fun x => { x with
      icache := Table.set (if Config.icacheLines ≤ x.icache.length then x.icache.drop 1 else x.icache) line d }

/-- A fetch that fails: code, address, and the line of an error that enters the fault log. -/
structure FetchFault where
  code : TrapCode
  addr : Nat
  line : Option Nat

/-- The error that a fetch of a line from below finds (R223, R273). -/
def fetchError (s : State) (k pa : Nat) (e : W64) : Option TrapCode :=
  if ((s.core k).icache.get? (pa / 128)).isSome then none
  else if refused s (agentOfCore s k) pa e false then some .mchk
  else if s.homes.dataErr.contains (pa / 128) then some .soft
  else none
/-- The physical address of the bundle at the context's pc and its page's leaf, or why it cannot be fetched (R227, R265). -/
def fetchPlace (s : State) (c : Nat) : Sum FetchFault (Nat × W64) :=
  let va := (s.ctx c).pc
  match checkRange s (coreOf c) (jobOf s c) (supOf s c) .fetch va 64 with
  | .inl (code, a) => .inl { code := code, addr := a, line := (failCause s c .s code a).line }
  | .inr f =>
    let pa := framePa f va
    match fetchError s (coreOf c) pa (frameLeaf f va) with
    | some code => .inl { code := code, addr := va, line := some (pa / 128) }
    | none => .inr (pa, frameLeaf f va)

/-- The decoded bundle at the context's pc, if it can be fetched. -/
def bundleAt (s : State) (c : Nat) : Option Bundle := match fetchPlace s c with
  | .inl _ => none
  | .inr (pa, _) => some (decodeBundle (bundleBits s (coreOf c) pa))
/-- The context fetches its bundle: its address is translated, and the line enters the instruction cache (R216, R266). -/
def fetchLine (s : State) (c : Nat) : State := match fetchPlace s c with
  | .inl _ => s
  | .inr (pa, e) => fillIcache (pageWalk s c (s.ctx c).pc) (coreOf c) pa e
/-- Stall cycles that the context has still to serve before its bundle issues (R51). -/
def stallLeft (s : State) (c : Nat) : Nat := match (s.ctx c).owed with
  | some n => n
  | none => match bundleAt s c with
    | some b => b.stall
    | none => 0

/-! ### When a context moves (R41, R46, R48, R250, R310) -/

/-- A `phase` of this context has reached its landing cycle (R250). -/
def phaseDue (s : State) (c : Nat) : Bool := match (s.core (coreOf c)).phase with
  | some (_, o, due) => o == c && decide (due ≤ (s.ctx c).arch.cc)
  | none => false
/-- The bead has spent more than its budget, and stands at a bundle boundary, where it is preempted (R317). -/
def overBudget (x : Ctx) : Bool := x.owed.isNone && match x.run with
  | some b => decide (b.budget < x.spent)
  | none => false
/-- The context may serve or issue at its context cycle: it runs a bead within its budget, nothing is due, and no trap or preemption
stands. -/
def moves (s : State) (c : Nat) : Bool :=
  let x := s.ctx c
  x.run.isSome && (dueTraps x).isEmpty && !stopsHere x && !overBudget x && (dueNow x.arch).isEmpty
/-- The header of a bundle (R21). -/
def Bundle.header (b : Bundle) : Header := { early := b.early, lend := b.lend, ckpt := b.ckpt }
/-- What the slots of a bundle do. -/
def Bundle.fns (b : Bundle) : List OpFn := b.slots.map slotFn
/-- The operations of the bundle at the context's pc. -/
def opsAt (s : State) (c : Nat) : List Op := match bundleAt s c with
  | some b => (Bundle.fns b).map fun f => f c (metState c (Bundle.header b) s)
  | none => []
/-- Registers that the bundle reads and lazy restore has not fetched (R50). -/
def missing (s : State) (c : Nat) (ops : List Op) : List Nat :=
  if (s.ctx c).unfetched.isEmpty then [] else (ops.flatMap (·.reads)).filter (s.ctx c).unfetched.contains
/-- The reason for which the context freezes before its bundle issues (R48 to R50, R250). -/
def freezeAt (s : State) (c : Nat) (ops : List Op) : Option FreezeCause :=
  if phaseDue s c then some .recordOrPhase
  else if !(missing s c ops).isEmpty then some .registerMiss
  else firstSome (ops.map (·.waits))
/-- A bundle of the context is ready to issue (R51, R59). -/
def ready (s : State) (c : Nat) : Bool :=
  moves s c && !debugStops s c && stallLeft s c == 0 && (freezeAt s c (opsAt s c)).isNone

/-! ### Stall counts (R51) -/

/-- STALL_CYCLE (R51, R305): one context cycle of the stall count passes. -/
def execStallCycle (c : Nat) (s : State) : Host.Outcome State Fault Refusal :=
  .next (
    if !moves s c || stallLeft s c == 0 then s
    else if phaseDue s c then freezeNow s c .recordOrPhase
    else
      let n := stallLeft s c
      let s1 := countDeferred (count (endFreeze (fetchLine s c) c) c evCycle 1) c
      s1.modCtx c fun x => { x with
        owed := some (n - 1), spent := x.spent + 1, ready := 0, arch := { x.arch with cc := x.arch.cc + 1 } })

/-! ### Issue merge (R59, R60) -/

/-- The bead's rank, which the merge compares (R59). -/
def rankOf (s : State) (c : Nat) : Nat := match (s.ctx c).run with
  | some b => b.rank
  | none => 0
/-- The array of the core is in SPLIT mode (R161). -/
def isSplit (a : MxArray) : Bool := (a.lo.isSome || a.hi.isSome) && a.lo != some true && a.hi != some false
/-- The bundles of both contexts may issue in one cycle (R55, R59, R60). -/
def mergeable (s : State) (c d : Nat) : Bool :=
  let l := opsAt s c
  let m := opsAt s d
  (l.all fun o => m.all fun p => o.slot != p.slot || (o.slot == .mx && isSplit (s.core (coreOf c)).arr)) &&
  decide (((l ++ m).map (·.groups)).sum ≤ 6)
/-- The first of two ready contexts (R59). -/
def firstOf (s : State) (c d : Nat) : Nat :=
  if rankOf s c ≠ rankOf s d then (if rankOf s c < rankOf s d then d else c)
  else if (s.ctx c).ready < (s.ctx d).ready then d
  else c

/-- A context may issue in this core cycle. -/
def grant (s : State) (c : Nat) : State := s.modCtx c fun x => { x with granted := true }
/-- A context that was ready and lost the merge is frozen for the cycle (R48, R59). -/
def loseMerge (s : State) (c : Nat) : State :=
  (freezeNow s c .lostMerge).modCtx c fun x => { x with ready := x.ready + 1 }
/-- A context that is not ready in a core cycle starts its count of consecutive ready cycles anew (R59). -/
def unready (s : State) (c : Nat) : State :=
  if ready s c || (s.ctx c).ready = 0 then s else s.modCtx c fun x => { x with ready := 0 }
/-- ISSUE_MERGE (R59, R60): one core cycle's choice among the contexts of core `k`. -/
def execIssueMerge (k : Nat) (s : State) : Host.Outcome State Fault Refusal :=
  .next (
    let c := 2 * k
    let d := 2 * k + 1
    if ((s.ctx c).granted && ready s c) || ((s.ctx d).granted && ready s d) then s
    else match ready s c, ready s d with
      | false, false => unready (unready s c) d
      | true, false => unready (grant s c) d
      | false, true => unready (grant s d) c
      | true, true =>
        let x := firstOf s c d
        let y := if x = c then d else c
        if mergeable s c d then grant (grant s x) y else loseMerge (grant s x) y)

/-! ### Issue (R23, R58, R332, R372) -/

/-- A KIND 10 comparator of the core stands at the bundle (R372). -/
def breaksAt (s : State) (c : Nat) : Bool := (List.range 8).any fun i =>
  let y := comparator s (coreOf c) i
  cmpKind y == 2 && cmpJob y == jobOf s c && cmpAddr y == (s.ctx c).pc
/-- A fetch that fails raises its trap, and an error of the memory is logged (R223, R273, R393). -/
def fetchTrap (s : State) (c : Nat) (x : FetchFault) : State :=
  bundleTrap s c { bundleCause s c x.code x.addr 0 with line := x.line }
/-- A fetched bundle issues (R5, R21, R23, R58). -/
def issueDecoded (s : State) (c : Nat) (b : Bundle) : State :=
  if breaksAt s c then bundleTrap s c (bundleCause s c .brk 0 0)
  else if b.reservedBits then bundleTrap s c (bundleCause s c .illenc 0 0)
  else issueBundle c (Bundle.header b) (Bundle.fns b) s

/-- BUNDLE_ISSUE (R23, R48): once its stall count is served, the bundle at the context's pc freezes, or issues when the merge has
granted it. -/
def execBundleIssue (c : Nat) (s : State) : Host.Outcome State Fault Refusal :=
  .next (
    if !moves s c || debugStops s c || stallLeft s c != 0 then s
    else match freezeAt s c (opsAt s c), (s.ctx c).granted with
      | some why, _ => freezeNow s c why
      | none, false => s
      | none, true => match fetchPlace s c with
        | .inl x => fetchTrap s c x
        | .inr (pa, _) => issueDecoded { fetchLine s c with cur := c } c (decodeBundle (bundleBits s (coreOf c) pa)))

/-! ### Register-miss micro-traps (R50, R307, R342) -/

/-- REGISTER_MISS_MICRO_TRAP (R50, R342, R373): one register of the frozen bundle is fetched from the save area. -/
def execRegisterMissMicroTrap (c port : Nat) (s : State) : Host.Outcome State Fault Refusal :=
  .next (match (s.ctx c).run, (s.ctx c).freeze with
    | some b, some (.registerMiss, _) =>
      if !(missing s c (opsAt s c)).contains port then s
      else if !canFetch s b port then missFault s c port b
      else endFreeze (countLater (fetchRegister s c port) b.life evMicro 1) c
    | _, _ => s)

end Sys2Proof.Machine
end

