-- ==== Sys2Proof/Machine/Perform.lean ====
section
/-! DEFINITION. Entries that perform at the head of a store queue: clasps, fences, publishing and supervisor entries, `tsrf`, the hm
step of `hmcopy` and the hand step of `chsend` (spec 11, R198 to R202; 12, R206, R210, R213; 14, R249, R252; 17, R299; 21, R350 to
R359; 23, R383). -/
namespace Sys2Proof.Machine

/-! ### Clasps (R198 to R201, R252) -/

/-- The head takes a coherent-point atom step on the line of `pa`, or its bead takes the trap of a bad line (R206, R223, R273).  A `phase`
of the other context holds it back (R250). -/
def onLine (s : State) (c pa : Nat) (pte : W64) (e : Entry) (f : State → State) : State :=
  if phaseHolds s c then s
  else match atomFault s (agentOf s c) pa pte with
  | some code => lineTrap (popHead s c) c (pa / 128) e code
  | none => f s

/-- The lock word as an atom step on its line finds it (R206, R254). -/
def lockWord (s : State) (pa : Nat) : Nat :=
  if ownMgmt s pa then mgmtRead s (mgmtOff pa) 8 else (reclaimAll s (pa / 128)).readMem pa 8
/-- HELD of a lock word (R198). -/
def isHeld (v : Nat) : Bool := bitsOf v 0 1 == 1
/-- The lock word once a context of this module holds it (R200). -/
def lockBy (s : State) (c v : Nat) : Nat :=
  putBits (putBits (putBits (putBits v 0 1 1) 25 7 (agentOf s c)) 18 7 (coreNo (coreOf c))) 17 1 (slotNo c)
/-- The lock word once it is released (R201). -/
def unlock (keep : Bool) (v : Nat) : Nat :=
  let w := putBits v 0 1 0
  if keep then w else putBits w 32 32 (bitsOf w 32 32 + 1)

/-- The mapped physical ranges of the region of a clasp, in the space of the entry's job (R198). -/
def claspRanges (s : State) (k j base len : Nat) : List (Nat × Nat) :=
  if len = 0 then []
  else
    let g := base / 2 ^ 16
    (List.range ((base + len - 1) / 2 ^ 16 - g + 1)).filterMap fun i =>
      let lo := Nat.max base ((g + i) * 2 ^ 16)
      let hi := Nat.min (base + len) ((g + i + 1) * 2 ^ 16)
      match translate s k j lo with
      | some (pa, _) => some (pa, hi - lo)
      | none => none
/-- Lines of core `k`'s L1 that overlap the region of the clasp at `pa` (R200, R201). -/
def claspLines (s : State) (k j pa : Nat) : List Nat :=
  let l := claspRanges s k j (s.readMem (pa + 8) 8) (s.readMem (pa + 16) 8)
  (l1Lines s k).filter fun line => rangesMeet [(line * 128, 128)] l

/-- The lock step and the drop step of an acquire; a line that it cannot push to drop raises MCHK (R200, R223, R373). -/
def acquire (s : State) (c pa : Nat) (pte : W64) (e : Entry) : State :=
  let s1 := markWaiters (pointAtom s (agentOf s c) pa pte 8 (lockBy s c)).2
  let l := claspLines s1 (coreOf c) e.job pa
  match badPush s1 (coreOf c) l with
  | some line => tagTrap s1 c line e
  | none => countLater (countLater (dropLines s1 (coreOf c) l) e.life evAcquire 1) e.life evAcqDrop l.length

/-- CBIND_PERFORM (R199). -/
def execCbindPerform (c : Nat) (s : State) : Host.Outcome State Fault Refusal :=
  .next (match headEntry s c with
    | none => s
    | some e => match e.act with
      | .cbind pa base len pte => onLine s c pa pte e fun s =>
        (pointAtom (popHead s c) (agentOf s c) (pa + 8) pte 16 fun _ => base.toNat + len * 2 ^ 64).2
      | _ => s)

/-- The bead life of an entry in context `c` has been cancelled, whatever its record says since, or is being preempted for a cancel (R200,
R324). -/
def isCancelled (s : State) (c : Nat) (e : Entry) : Bool :=
  s.hub.ended.contains e.life || ((s.ctx c).preempt == some .cancelled && lifeOf s c == e.life)
/-- CACQ_LOCK (R200, R207): it takes its place among the reads of its context, and waits while the clasp is held, unless its bead is
cancelled. -/
def execCacqLock (c : Nat) (s : State) : Host.Outcome State Fault Refusal :=
  .next (match headEntry s c with
    | none => s
    | some e => match e.act with
      | .cacq pa pte =>
        if readsFirst (s.ctx c) e then s
        else onLine s c pa pte e fun s =>
          if isHeld (lockWord s pa) then (if isCancelled s c e then popHead s c else s)
          else acquire (popHead s c) c pa pte e
      | _ => s)

/-- CTRY_PERFORM (R207, R252). -/
def execCtryPerform (c : Nat) (s : State) : Host.Outcome State Fault Refusal :=
  .next (match headEntry s c with
    | none => s
    | some e => match e.act with
      | .ctry pa uid pte =>
        if readsFirst (s.ctx c) e || phaseHolds s c then s
        else match atomFault s (agentOf s c) pa pte with
          | some code => failEntry (popHead s c) c (pa / 128) e uid.toList code
          | none =>
            let free := !isHeld (lockWord s pa)
            let s1 := if free then acquire (popHead s c) c pa pte e else popHead s c
            match uid with
            | some u => deliverValue s1 u free.toNat
            | none => s1
      | _ => s)

/-- CREL_PERFORM (R201): the region's dirty lines are pushed before HELD falls. -/
def execCrelPerform (c : Nat) (s : State) : Host.Outcome State Fault Refusal :=
  .next (match headEntry s c with
    | none => s
    | some e => match e.act with
      | .crel pa keep pte => onLine s c pa pte e fun s0 =>
        let s := reclaimAll s0 (pa / 128)
        let l := (claspLines s (coreOf c) e.job pa).filter (dirtyLines s (coreOf c)).contains
        match badPush s (coreOf c) l with
        | some line => tagTrap (popHead s c) c line e
        | none =>
          let s1 := markWaiters (countLater (pushLines (popHead s c) (coreOf c) l) e.life evPush l.length)
          (pointAtom s1 (agentOf s c) pa pte 8 (unlock keep)).2
      | _ => s)

/-! ### Pushes before an entry performs (R202, R213, R345) -/

/-- Every dirty line of the core's L1 is pushed, and the head leaves the queue and performs (R345); waiters see what the pushes have
written before the step that follows (R348). -/
def publish (s : State) (c : Nat) (e : Entry) (f : State → State) : State :=
  match badPush s (coreOf c) (l1Lines s (coreOf c)) with
  | some line => tagTrap (popHead s c) c line e
  | none => f (markWaiters (pushFor (popHead s c) c e.life))
/-- The instruction cache of core `k` is emptied (R216). -/
def emptyIcache (s : State) (k : Nat) : State := s.modCore k fun x => { x with icache := [] }

/-- FENCE_PERFORM (R202, R210, R216): a fence of scope 2 stays at the head until its host flush is over. -/
def execFencePerform (c : Nat) (s : State) : Host.Outcome State Fault Refusal :=
  .next (match headEntry s c with
    | none => s
    | some e => match e.act with
      | .fence 0 => popHead s c
      | .fence 2 =>
        if (s.ctx c).flush then s
        else if (s.ctx c).hostAddr.isSome then
          match badPush s (coreOf c) (l1Lines s (coreOf c)) with
          | some line => tagTrap (popHead s c) c line e
          | none => (pushFor s c e.life).modCtx c fun x => { x with flush := true }
        else publish s c e fun s => emptyIcache s (coreOf c)
      | .fence _ => publish s c e fun s => emptyIcache s (coreOf c)
      | _ => s)

/-- HOST_FLUSH_COMPLETE (R210): the read's completion returns, and the fence performs. -/
def execHostFlushComplete (c : Nat) (s : State) : Host.Outcome State Fault Refusal :=
  .next (match headEntry s c, (s.ctx c).flush with
    | some e, true => match e.act with
      | .fence 2 =>
        (emptyIcache (popHead s c) (coreOf c)).modCtx c fun x => { x with flush := false, hostAddr := none }
      | _ => s
    | _, _ => s)

/-! ### Counters, launches and messages (R350, R352, R353) -/

/-- The new value of a counter (R350). -/
def sigValue (op b old : Nat) : Nat := match op with
  | 0 => (old + b) % 2 ^ 63 + old / 2 ^ 63 * 2 ^ 63
  | 1 => b % 2 ^ 63 + old / 2 ^ 63 * 2 ^ 63
  | _ => 0
/-- The second step of a `sig` of op 2: the job counter takes one more, or the loss enters the fault log (R350, R393). -/
def countPhase (s : State) (c : Nat) (e : Entry) : State :=
  let va := (s.job e.job).jcnt.toNat
  if va = 0 then s
  else match translateHub s e.job va, vWritable s e.job va with
    | some (pa, pte), true => (pointAtom (hubWalk s e.job va) (agentOf s c) pa pte 8 (sigValue 0 1)).2
    | _, _ => logFault s (logAt s c (ofJob s e.job { kind := 0x11, first := va, second := e.pc, detail := 1 }))

/-- SIG_PERFORM (R350): a counter of a launch that reaches N completes the launch (R321). -/
def execSigPerform (c : Nat) (s : State) : Host.Outcome State Fault Refusal :=
  .next (match headEntry s c with
    | none => s
    | some e => match e.act with
      | .sig pa op b pte => onLine s c pa pte e fun s => publish s c e fun s =>
        let s1 := (pointAtom s (agentOf s c) pa pte 8 (sigValue op b.toNat)).2
        settleLaunches (if op = 2 then countPhase (markWaiters s1) c e else s1)
      | _ => s)

/-- A `spawn` is refused (R352). -/
def spawnRefused (s : State) (e : Entry) (t : Nat) : Bool :=
  let w := beadWord s e.job t 1
  let own := bitsOf w 16 16
  let q := (queue s (beadQueue s e.job t)).job
  (own != 0 && own != e.job && !e.sup) || (bitsOf w 56 1 == 1 && !e.sup) || q == 0 || q != templateJob s e.job t
/-- A refused launch: its counter takes N with CANCELLED, and the fault log an entry (R352, R393). -/
def refuseSpawn (s : State) (c : Nat) (e : Entry) (desc : Nat) : State :=
  let ccnt := descWord s e.job desc 6
  let n := descWord s e.job desc 1 / 2 ^ 32
  let s1 := if ccnt = 0 then s else vAtom s e.job ccnt 8 fun _ => markCancelled n
  logFault s1 (logAt s c (ofJob s e.job { kind := 0x0B, first := desc, second := e.pc }))
/-- SPAWN_PERFORM (R352). -/
def execSpawnPerform (c : Nat) (s : State) : Host.Outcome State Fault Refusal :=
  .next (match headEntry s c with
    | none => s
    | some e => match e.act with
      | .spawn desc => publish s c e fun s0 =>
        let s := seeLaunch s0 e.job desc
        if spawnRefused s e (descWord s e.job desc 0) then refuseSpawn s c e desc
        else pushStart s (.launch e.job desc .plain)
      | _ => s)

/-- POST_PERFORM (R353). -/
def execPostPerform (c : Nat) (s : State) : Host.Outcome State Fault Refusal :=
  .next (match headEntry s c with
    | none => s
    | some e => match e.act with
      | .post locket m msg => publish s c e fun s =>
        if m = s.pos then sendMail s { locket := locket, msg := msg, src := .bead e.job }
        else countFabric { s with fabricOut := s.fabricOut ++ [.post m locket e.job msg] } evFabTx
      | _ => s)

/-! ### Cancels (R354) -/

/-- The job of the graphs that a cancel names: the issuer's where it has one of them, for an address stands in its space, else that of
another (R354; log 141). -/
def graphOwner (s : State) (e : Entry) (p : Graph → Bool) : Nat :=
  let l := (s.hub.graphs.filter fun (_, x) => p x).map fun (_, x) => x.job
  if l.contains e.job then e.job else l.headD e.job
/-- The job of what a cancel names, where the target exists: another job's is refused (R354). -/
def targetJob (s : State) (e : Entry) (lvl sa : Nat) : Nat := match lvl with
  | 0 => (beadOf s e.job sa).job
  | 1 => match s.hub.launches.get? (descWord s e.job sa 1 % 2 ^ 32) with
    | some l => l.beadJob
    | none => e.job
  | 2 => graphOwner s e fun x => x.desc == sa
  | 3 => graphOwner s e fun x => phaseCounter s x == sa
  | _ => sa % 2 ^ 16
/-- The cancels that an entry starts (R324, R354). -/
def cancelTargets (s : State) (e : Entry) (lvl sa : Nat) : List CancelTarget := match lvl with
  | 0 => [.unit e.job sa]
  | 1 => [.launch (descWord s e.job sa 1 % 2 ^ 32)]
  | 2 => (s.hub.graphs.filter fun (_, x) => x.desc == sa && x.job == targetJob s e 2 sa).map fun (g, _) => .graph g
  | 3 => [.phase (targetJob s e 3 sa) sa]
  | _ => [.job (sa % 2 ^ 16) true]
/-- An operation on another job's object does nothing and is recorded (R354, R359, R393). -/
def refuseForeign (s : State) (c : Nat) (e : Entry) (target opcode : Nat) : State :=
  logFault s (logAt s c (ofJob s e.job { kind := 0x0C, first := target, second := e.pc, detail := opcode }))
/-- The hub reads the bead record or the launch descriptor that a cancel names (R7). -/
def seeTarget (s : State) (e : Entry) (lvl sa : Nat) : State := if lvl ≤ 1 then vSee s e.job sa 64 else s
/-- CANCEL_PERFORM (R354): the cancel starts, and the queue moves on. -/
def execCancelPerform (c : Nat) (s : State) : Host.Outcome State Fault Refusal :=
  .next (match headEntry s c with
    | none => s
    | some e => match e.act with
      | .cancel lvl sa =>
        let s1 := seeTarget (popHead s c) e lvl sa.toNat
        if targetJob s e lvl sa.toNat ≠ e.job ∧ !e.sup then refuseForeign s1 c e sa.toNat 0x17
        else (cancelTargets s e lvl sa.toNat).foldl pushCancel s1
      | _ => s)

/-! ### Supervisor entries (R357 to R359) -/

/-- ERET_PERFORM (R338, R357). -/
def execEretPerform (c : Nat) (s : State) : Host.Outcome State Fault Refusal :=
  .next (match headEntry s c with
    | none => s
    | some e => match e.act with
      | .eret va => publish s c e fun s => returnFromTrap s c e.job e.sup va e.pc
      | _ => s)

/-- A TLB entry that a `tlbinv` removes (R358). -/
def invalidates (scope job va : Nat) (t : TlbEntry) : Bool := match scope with
  | 0 => t.job == job && decide (t.vpage ≤ va / 2 ^ 16) && decide (va / 2 ^ 16 < t.vpage + t.pages)
  | 1 => t.job == job
  | _ => true
/-- Every TLB entry of the module. -/
def tlbEntries (s : State) : List TlbEntry := s.cores.flatMap (fun (_, k) => k.tlb) ++ s.dieTlb.flatMap (·.2)
/-- 64 KiB pages whose translations a `tlbinv` of scope 0 removes: first page and number. -/
def removedPages (s : State) (job va : Nat) : List (Nat × Nat) :=
  (va / 2 ^ 16, 1) :: ((tlbEntries s).filter (invalidates 0 job va)).map fun t => (t.vpage, t.pages)
/-- A pin holds a translation that is removed (R227, R358). -/
def pinRemoved (s : State) (scope job va : Nat) (p : Nat × Nat × Nat) : Bool := match scope with
  | 0 => p.1 == job && rangesMeet [p.2] ((removedPages s job va).map fun (a, n) => (a * 2 ^ 16, n * 2 ^ 16))
  | 1 => p.1 == job
  | _ => true
/-- Pins of a pending read. -/
def readPins (r : Read) : List (Nat × Nat × Nat) := match r.what with
  | .bytes l _ => l.map fun g => (r.job, g.va, g.n)
  | _ => []
/-- Pins of the accesses that a `tlbinv` of context `c` waits for: every access of another context, the reads that its own issued
before it, saved beads' withheld entries, and transfers (R358). -/
def livePins (s : State) (c : Nat) (e : Entry) : List (Nat × Nat × Nat) :=
  (s.ctxs.flatMap fun (d, x) =>
    let l := if d = c then x.reads.filter fun r => decide (r.issuedBefore ≤ e.seq) else x.reads
    l.flatMap readPins ++ (if d = c then [] else (x.storeQ ++ x.withheld).flatMap (·.pins))) ++
  (s.hub.saved.flatMap fun (_, v) => v.withheld.flatMap (·.pins)) ++
  s.transfers.flatMap (·.pins)

/-- Pinned lines of the frames of removed home-10 translations return to ordinary replacement (R258). -/
def unpinFrames (l : List (Nat × Nat)) (t : Paged L2Copy) : Paged L2Copy := t.change fun k x =>
  if x.pinned && rangesMeet [(k % 2 ^ 46 * 128, 128)] l then { x with pinned := false } else x
/-- Frames of the home-10 translations among TLB entries. -/
def pinnedFrames (l : List TlbEntry) : List (Nat × Nat) :=
  (l.filter fun t => Pte.home t.entry == 2).map fun t => (Pte.frame t.entry, Pte.bytes t.entry)
/-- Translations leave every TLB of the module, and every instruction cache is emptied (R216, R358). -/
def dropTranslations (s : State) (scope job va : Nat) : State :=
  let gone := invalidates scope job va
  let l := pinnedFrames ((tlbEntries s).filter gone)
  let s1 := { s with
    cores := List.map (fun (p : Nat × Core) =>
      (p.1, { p.2 with tlb := p.2.tlb.filter fun t => !gone t, icache := [] })) s.cores
    dieTlb := List.map (fun (p : Nat × List TlbEntry) => (p.1, p.2.filter fun t => !gone t)) s.dieTlb }
  s1.modHomes fun h => { h with
    l2 := if scope ≤ 1 then unpinFrames l h.l2
      else h.l2.change fun _ x => { x with pinned := false } }
/-- TLBINV_PERFORM (R358): once every access that a removed translation pinned has performed. -/
def execTlbinvPerform (c : Nat) (s : State) : Host.Outcome State Fault Refusal :=
  .next (match headEntry s c with
    | none => s
    | some e => match e.act with
      | .tlbinv scope job va =>
        if (livePins s c e).any (pinRemoved s scope job va.toNat) then s
        else publish s c e fun s => dropTranslations s scope job va.toNat
      | _ => s)

/-- A queue descriptor after a `qset` (R327, R359). -/
def qsetQueue (f : Nat) (v : W64) (d : Queue) : Queue := match f with
  | 0 => { d with word24 := v &&& 0xF800FFFFFFFFFFF0 }
  | 1 => { d with allot := v.extractLsb' 0 32 }
  | 2 => { d with left := v.extractLsb' 0 32 }
  | _ => if d.en then d else { d with head := 0, tail := 0 }
/-- QSET_PERFORM (R359): one step on the descriptor, in the scheduling round of the moment (R328). -/
def execQsetPerform (c : Nat) (s : State) : Host.Outcome State Fault Refusal :=
  .next (match headEntry s c with
    | none => s
    | some e => match e.act with
      | .qset q f v =>
        let s1 := startRound (popHead s c)
        if !e.sup && (queue s q).job != e.job then refuseForeign s1 c e q 0x43 else modQueue s1 q (qsetQueue f v)
      | _ => s)

/-! ### `tsrf` (R249) -/

/-- A record's line leaves every record cache. -/
def dropRecord (s : State) (line : Nat) : State :=
  { s with recCache := List.map (fun (p : Nat × Table (BitVec 1024)) => (p.1, p.2.erase line)) s.recCache }
/-- TSRF_PERFORM (R249). -/
def execTsrfPerform (c : Nat) (s : State) : Host.Outcome State Fault Refusal :=
  .next (match headEntry s c with
    | none => s
    | some e => match e.act with
      | .tsrf pa => match badPush s (coreOf c) [pa / 128] with
        | some line => tagTrap (popHead s c) c line e
        | none => dropRecord (pushLine (popHead s c) (coreOf c) (pa / 128)) (pa / 128)
      | _ => s)

/-! ### `hmcopy` (R299) -/

/-- The moves of a copy: each leaf's line, or zeros, to its 128 bytes of the destination. -/
def leafMoves (frames : List (Nat × Nat)) (va : Nat) (l : List (Option Nat)) : List Move :=
  l.zipIdx.map fun (x, i) =>
    let dst := plainPa frames (va + 128 * i) * 8
    match x with
    | some pa => { dst := dst, src := pa * 8, n := 1024, lit := none }
    | none => { dst := dst, src := dst, n := 1024, lit := some 0 }
/-- The copy starts: the root is retained, each subtree of a wrong kind sends its event record, and the pieces are formed. -/
def startCopy (s0 : State) (c : Nat) (e : Entry) (root : Name) (depth : Nat) (frames : List (Nat × Nat)) (va : Nat)
    (t : Transfer) : State :=
  let hid := hidOf s0 e.job
  let s := copyLook hid depth root (if kindFits depth root then s0 else look s0 hid root)
  let s1 := match findName s hid root with
    | some f => retain s f
    | none => s
  let (leaves, bad) := copyTree s1 hid depth root
  let s2 := bad.foldl (fun s x => entryEvent s c e x 3) s1
  queueTransfer (markGroup s2 (groupOf e) e.job false)
    { t with kind := .hmcopy root (groupOf e), pieces := piecesOf true (leafMoves frames va leaves), after := 0 }
/-- What the hm step of a copy meets: what an entry meets, or bad lines on the walk of its tree (R223, R273, R301). -/
def copyEntryFault (s : State) (e : Entry) (names : TileRef) (row depth : Nat) : Option (Nat × TrapCode) := match entryFault s e with
  | some x => some x
  | none => copyFault s (hidOf s e.job) depth (nameRow s names row)
/-- HMCOPY_HM_STEP (R292, R299): a copy without a root ends in XLATE, and the walker counts it all the same (R295). -/
def execHmcopyHmStep (c : Nat) (s : State) : Host.Outcome State Fault Refusal :=
  .next (match headEntry s c with
    | none => s
    | some e => match e.act with
      | .hmcopy names row depth frames va t =>
        if hmWaits s c e then s
        else match copyEntryFault s e names row depth with
          | some (line, code) => lineTrap (popHead s c) c line e code
          | none =>
            let root := nameRow s names row
            let s1 := popHead ((entryReads e).foldl findErrors s) c
            if root != 0 && (findName s (hidOf s e.job) root).isNone then
              markGroup (hmTrap (look s1 (hidOf s e.job) root) c e .xlate row) (groupOf e) e.job true
            else startCopy s1 c e root depth frames va t
      | _ => s)

/-! ### `chsend` (R383) -/

/-- The bytes of a tile's rows, one row after the other (R381). -/
def regionBytes (s : State) (t : TileRef) : List Byte := (List.range t.reg.rows).flatMap fun r => t.rowBytes s r 0 t.reg.rb
/-- The send leaves the queue with its element's number and its region's bytes. -/
def sendTransfer (s : State) (t : Transfer) (src : TileRef) (n : Nat) : State := match t.kind with
  | .chsend j ch agent core contributor _ depth _ =>
    queueTransfer s { t with kind := .chsend j ch agent core contributor n depth (regionBytes s src) }
  | _ => s
/-- CHSEND_HAND (R383): SENT goes up by one atom step on the entry's line, and the region is read; bad data there raise SOFT, and nothing is
sent (R273).  A `phase` of the other context holds it back (R250). -/
def execChsendHand (c : Nat) (s : State) : Host.Outcome State Fault Refusal :=
  .next (match headEntry s c with
    | none => s
    | some e => match e.act with
      | .chsend _ src entry t =>
        let l := linesUnder (bitRanges src.ranges)
        if phaseHolds s c then s
        else match translateHub s e.job (entry + 32) with
          | none => handReads s c e l fun s => sendTransfer s t src 0
          | some (pa, pte) => onLine s c pa pte e fun s => handReads s c e l fun s =>
            let (n, s1) := cpAtomOld (hubWalk s e.job (entry + 32)) t.agent pa pte 4 fun x => (x + 1) % 2 ^ 32
            sendTransfer s1 t src n
      | _ => s)

end Sys2Proof.Machine
end

