-- ==== Sys2Proof/Machine/Dispatch.lean ====
section
/-! DEFINITION. The meaning of every instruction: one arm per row of the opcode table. -/
namespace Sys2Proof.Machine

/-- One instruction or event in a state. -/
def exec (i : Instr) (s : State) : Host.Outcome State Fault Refusal :=
  match i with
  | .add a => Sys2Proof.Machine.execAdd a s
  | .sub a => Sys2Proof.Machine.execSub a s
  | .mul a => Sys2Proof.Machine.execMul a s
  | .mulh a => Sys2Proof.Machine.execMulh a s
  | .mulhn a => Sys2Proof.Machine.execMulhn a s
  | .neg a => Sys2Proof.Machine.execNeg a s
  | .abs a => Sys2Proof.Machine.execAbs a s
  | .min a => Sys2Proof.Machine.execMin a s
  | .max a => Sys2Proof.Machine.execMax a s
  | .minn a => Sys2Proof.Machine.execMinn a s
  | .maxn a => Sys2Proof.Machine.execMaxn a s
  | .and a => Sys2Proof.Machine.execAnd a s
  | .or a => Sys2Proof.Machine.execOr a s
  | .xor a => Sys2Proof.Machine.execXor a s
  | .andn a => Sys2Proof.Machine.execAndn a s
  | .not a => Sys2Proof.Machine.execNot a s
  | .shl a => Sys2Proof.Machine.execShl a s
  | .shr a => Sys2Proof.Machine.execShr a s
  | .sar a => Sys2Proof.Machine.execSar a s
  | .rol a => Sys2Proof.Machine.execRol a s
  | .clz a => Sys2Proof.Machine.execClz a s
  | .ctz a => Sys2Proof.Machine.execCtz a s
  | .popc a => Sys2Proof.Machine.execPopc a s
  | .bext a => Sys2Proof.Machine.execBext a s
  | .bins a => Sys2Proof.Machine.execBins a s
  | .bswap a => Sys2Proof.Machine.execBswap a s
  | .cmpEq a => Sys2Proof.Machine.execCmpEq a s
  | .cmpNe a => Sys2Proof.Machine.execCmpNe a s
  | .cmpLt a => Sys2Proof.Machine.execCmpLt a s
  | .cmpLe a => Sys2Proof.Machine.execCmpLe a s
  | .cmpLtn a => Sys2Proof.Machine.execCmpLtn a s
  | .cmpLen a => Sys2Proof.Machine.execCmpLen a s
  | .mov a => Sys2Proof.Machine.execMov a s
  | .sel a => Sys2Proof.Machine.execSel a s
  | .li a => Sys2Proof.Machine.execLi a s
  | .lih a => Sys2Proof.Machine.execLih a s
  | .lea a => Sys2Proof.Machine.execLea a s
  | .fadd a => Sys2Proof.Machine.execFadd a s
  | .fsub a => Sys2Proof.Machine.execFsub a s
  | .fmul a => Sys2Proof.Machine.execFmul a s
  | .fma a => Sys2Proof.Machine.execFma a s
  | .fnma a => Sys2Proof.Machine.execFnma a s
  | .fmin a => Sys2Proof.Machine.execFmin a s
  | .fmax a => Sys2Proof.Machine.execFmax a s
  | .fabs a => Sys2Proof.Machine.execFabs a s
  | .fneg a => Sys2Proof.Machine.execFneg a s
  | .fcmpEq a => Sys2Proof.Machine.execFcmpEq a s
  | .fcmpNe a => Sys2Proof.Machine.execFcmpNe a s
  | .fcmpLt a => Sys2Proof.Machine.execFcmpLt a s
  | .fcmpLe a => Sys2Proof.Machine.execFcmpLe a s
  | .fcmpUn a => Sys2Proof.Machine.execFcmpUn a s
  | .fcvt a => Sys2Proof.Machine.execFcvt a s
  | .fclass a => Sys2Proof.Machine.execFclass a s
  | .fdiv a => Sys2Proof.Machine.execFdiv a s
  | .fsqrt a => Sys2Proof.Machine.execFsqrt a s
  | .frsqrt a => Sys2Proof.Machine.execFrsqrt a s
  | .pand a => Sys2Proof.Machine.execPand a s
  | .por a => Sys2Proof.Machine.execPor a s
  | .pxor a => Sys2Proof.Machine.execPxor a s
  | .pandn a => Sys2Proof.Machine.execPandn a s
  | .pmov a => Sys2Proof.Machine.execPmov a s
  | .pmovLo a => Sys2Proof.Machine.execPmovLo a s
  | .pmovHi a => Sys2Proof.Machine.execPmovHi a s
  | .pany a => Sys2Proof.Machine.execPany a s
  | .pall a => Sys2Proof.Machine.execPall a s
  | .br a => Sys2Proof.Machine.execBr a s
  | .jmp a => Sys2Proof.Machine.execJmp a s
  | .call a => Sys2Proof.Machine.execCall a s
  | .ret a => Sys2Proof.Machine.execRet a s
  | .loop a => Sys2Proof.Machine.execLoop a s
  | .getc a => Sys2Proof.Machine.execGetc a s
  | .setc a => Sys2Proof.Machine.execSetc a s
  | .vadd a => Sys2Proof.Machine.execVadd a s
  | .vsub a => Sys2Proof.Machine.execVsub a s
  | .vmul a => Sys2Proof.Machine.execVmul a s
  | .vfma a => Sys2Proof.Machine.execVfma a s
  | .vfnma a => Sys2Proof.Machine.execVfnma a s
  | .vmin a => Sys2Proof.Machine.execVmin a s
  | .vmax a => Sys2Proof.Machine.execVmax a s
  | .vabs a => Sys2Proof.Machine.execVabs a s
  | .vneg a => Sys2Proof.Machine.execVneg a s
  | .vcmpEq a => Sys2Proof.Machine.execVcmpEq a s
  | .vcmpNe a => Sys2Proof.Machine.execVcmpNe a s
  | .vcmpLt a => Sys2Proof.Machine.execVcmpLt a s
  | .vcmpLe a => Sys2Proof.Machine.execVcmpLe a s
  | .vcmpUn a => Sys2Proof.Machine.execVcmpUn a s
  | .vsel a => Sys2Proof.Machine.execVsel a s
  | .vclass a => Sys2Proof.Machine.execVclass a s
  | .viadd a => Sys2Proof.Machine.execViadd a s
  | .visub a => Sys2Proof.Machine.execVisub a s
  | .vimul a => Sys2Proof.Machine.execVimul a s
  | .vimulh a => Sys2Proof.Machine.execVimulh a s
  | .vand a => Sys2Proof.Machine.execVand a s
  | .vor a => Sys2Proof.Machine.execVor a s
  | .vxor a => Sys2Proof.Machine.execVxor a s
  | .vshl a => Sys2Proof.Machine.execVshl a s
  | .vshr a => Sys2Proof.Machine.execVshr a s
  | .vsar a => Sys2Proof.Machine.execVsar a s
  | .vimin a => Sys2Proof.Machine.execVimin a s
  | .vimax a => Sys2Proof.Machine.execVimax a s
  | .viminn a => Sys2Proof.Machine.execViminn a s
  | .vimaxn a => Sys2Proof.Machine.execVimaxn a s
  | .vicmpEq a => Sys2Proof.Machine.execVicmpEq a s
  | .vicmpNe a => Sys2Proof.Machine.execVicmpNe a s
  | .vicmpLt a => Sys2Proof.Machine.execVicmpLt a s
  | .vicmpLe a => Sys2Proof.Machine.execVicmpLe a s
  | .vicmpLtn a => Sys2Proof.Machine.execVicmpLtn a s
  | .vicmpLen a => Sys2Proof.Machine.execVicmpLen a s
  | .vcvt a => Sys2Proof.Machine.execVcvt a s
  | .vscale a => Sys2Proof.Machine.execVscale a s
  | .vdiv a => Sys2Proof.Machine.execVdiv a s
  | .vsqrt a => Sys2Proof.Machine.execVsqrt a s
  | .vrsqrt a => Sys2Proof.Machine.execVrsqrt a s
  | .vrcp a => Sys2Proof.Machine.execVrcp a s
  | .vexp2 a => Sys2Proof.Machine.execVexp2 a s
  | .vlog2 a => Sys2Proof.Machine.execVlog2 a s
  | .vtanh a => Sys2Proof.Machine.execVtanh a s
  | .vsigm a => Sys2Proof.Machine.execVsigm a s
  | .vsum a => Sys2Proof.Machine.execVsum a s
  | .vrmax a => Sys2Proof.Machine.execVrmax a s
  | .vrmin a => Sys2Proof.Machine.execVrmin a s
  | .vbcast a => Sys2Proof.Machine.execVbcast a s
  | .vmov a => Sys2Proof.Machine.execVmov a s
  | .vlane a => Sys2Proof.Machine.execVlane a s
  | .vins a => Sys2Proof.Machine.execVins a s
  | .viota a => Sys2Proof.Machine.execViota a s
  | .vsig a => Sys2Proof.Machine.execVsig a s
  | .vsigFin a => Sys2Proof.Machine.execVsigFin a s
  | .xmov a => Sys2Proof.Machine.execXmov a s
  | .xperm a => Sys2Proof.Machine.execXperm a s
  | .xrot a => Sys2Proof.Machine.execXrot a s
  | .xshuf a => Sys2Proof.Machine.execXshuf a s
  | .xbcast a => Sys2Proof.Machine.execXbcast a s
  | .xzip a => Sys2Proof.Machine.execXzip a s
  | .xunzip a => Sys2Proof.Machine.execXunzip a s
  | .mmode a => Sys2Proof.Machine.execMmode a s
  | .mpush a => Sys2Proof.Machine.execMpush a s
  | .mrow a => Sys2Proof.Machine.execMrow a s
  | .mbeat a => Sys2Proof.Machine.execMbeat a s
  | .mdrain a => Sys2Proof.Machine.execMdrain a s
  | .mclear a => Sys2Proof.Machine.execMclear a s
  | .mbinv a => Sys2Proof.Machine.execMbinv a s
  | .mtag a => Sys2Proof.Machine.execMtag a s
  | .mresolve a => Sys2Proof.Machine.execMresolve a s
  | .mcombine a => Sys2Proof.Machine.execMcombine a s
  | .ld a => Sys2Proof.Machine.execLd a s
  | .vld a => Sys2Proof.Machine.execVld a s
  | .vgath a => Sys2Proof.Machine.execVgath a s
  | .tld a => Sys2Proof.Machine.execTld a s
  | .tldh a => Sys2Proof.Machine.execTldh a s
  | .pref a => Sys2Proof.Machine.execPref a s
  | .aadd a => Sys2Proof.Machine.execAadd a s
  | .aand a => Sys2Proof.Machine.execAand a s
  | .aor a => Sys2Proof.Machine.execAor a s
  | .axor a => Sys2Proof.Machine.execAxor a s
  | .amin a => Sys2Proof.Machine.execAmin a s
  | .amax a => Sys2Proof.Machine.execAmax a s
  | .aminn a => Sys2Proof.Machine.execAminn a s
  | .amaxn a => Sys2Proof.Machine.execAmaxn a s
  | .aswap a => Sys2Proof.Machine.execAswap a s
  | .acas a => Sys2Proof.Machine.execAcas a s
  | .acas16 a => Sys2Proof.Machine.execAcas16 a s
  | .st8 a => Sys2Proof.Machine.execSt8 a s
  | .st16 a => Sys2Proof.Machine.execSt16 a s
  | .st32 a => Sys2Proof.Machine.execSt32 a s
  | .st64 a => Sys2Proof.Machine.execSt64 a s
  | .vst8 a => Sys2Proof.Machine.execVst8 a s
  | .vst16 a => Sys2Proof.Machine.execVst16 a s
  | .vst32 a => Sys2Proof.Machine.execVst32 a s
  | .vst64 a => Sys2Proof.Machine.execVst64 a s
  | .vscat8 a => Sys2Proof.Machine.execVscat8 a s
  | .vscat16 a => Sys2Proof.Machine.execVscat16 a s
  | .vscat32 a => Sys2Proof.Machine.execVscat32 a s
  | .vscat64 a => Sys2Proof.Machine.execVscat64 a s
  | .tst a => Sys2Proof.Machine.execTst a s
  | .tsth a => Sys2Proof.Machine.execTsth a s
  | .append a => Sys2Proof.Machine.execAppend a s
  | .tdef a => Sys2Proof.Machine.execTdef a s
  | .tcopy a => Sys2Proof.Machine.execTcopy a s
  | .ttrans a => Sys2Proof.Machine.execTtrans a s
  | .tconv a => Sys2Proof.Machine.execTconv a s
  | .texp a => Sys2Proof.Machine.execTexp a s
  | .tcmp a => Sys2Proof.Machine.execTcmp a s
  | .tfill a => Sys2Proof.Machine.execTfill a s
  | .tsrf a => Sys2Proof.Machine.execTsrf a s
  | .phase a => Sys2Proof.Machine.execPhase a s
  | .hmput a => Sys2Proof.Machine.execHmput a s
  | .hmnode a => Sys2Proof.Machine.execHmnode a s
  | .hmget a => Sys2Proof.Machine.execHmget a s
  | .hmhold a => Sys2Proof.Machine.execHmhold a s
  | .hmdrop a => Sys2Proof.Machine.execHmdrop a s
  | .hmswap a => Sys2Proof.Machine.execHmswap a s
  | .hmcopy a => Sys2Proof.Machine.execHmcopy a s
  | .hmstatDirectory a => Sys2Proof.Machine.execHmstatDirectory a s
  | .hmstatLineTag a => Sys2Proof.Machine.execHmstatLineTag a s
  | .hmstatFree a => Sys2Proof.Machine.execHmstatFree a s
  | .cbind a => Sys2Proof.Machine.execCbind a s
  | .cacq a => Sys2Proof.Machine.execCacq a s
  | .crel a => Sys2Proof.Machine.execCrel a s
  | .ctry a => Sys2Proof.Machine.execCtry a s
  | .fence a => Sys2Proof.Machine.execFence a s
  | .wait a => Sys2Proof.Machine.execWait a s
  | .sig a => Sys2Proof.Machine.execSig a s
  | .yield a => Sys2Proof.Machine.execYield a s
  | .mark a => Sys2Proof.Machine.execMark a s
  | .done a => Sys2Proof.Machine.execDone a s
  | .spawn a => Sys2Proof.Machine.execSpawn a s
  | .post a => Sys2Proof.Machine.execPost a s
  | .cancelInstr a => Sys2Proof.Machine.execCancelInstr a s
  | .chsend a => Sys2Proof.Machine.execChsend a s
  | .chrecv a => Sys2Proof.Machine.execChrecv a s
  | .eplook a => Sys2Proof.Machine.execEplook a s
  | .epupd a => Sys2Proof.Machine.execEpupd a s
  | .epcfg a => Sys2Proof.Machine.execEpcfg a s
  | .trap a => Sys2Proof.Machine.execTrap a s
  | .eret a => Sys2Proof.Machine.execEret a s
  | .tlbinv a => Sys2Proof.Machine.execTlbinv a s
  | .qset a => Sys2Proof.Machine.execQset a s
  | .bundleIssue c => Sys2Proof.Machine.execBundleIssue c s
  | .stallCycle c => Sys2Proof.Machine.execStallCycle c s
  | .issueMerge k => Sys2Proof.Machine.execIssueMerge k s
  | .resultLand c => Sys2Proof.Machine.execResultLand c s
  | .loadDataArrive c err => Sys2Proof.Machine.execLoadDataArrive c err s
  | .atomicReleaseDeadline c => Sys2Proof.Machine.execAtomicReleaseDeadline c s
  | .registerMissMicroTrap c port => Sys2Proof.Machine.execRegisterMissMicroTrap c port s
  | .trapDelivery c => Sys2Proof.Machine.execTrapDelivery c s
  | .drain c => Sys2Proof.Machine.execDrain c s
  | .l1Push k line => Sys2Proof.Machine.execL1Push k line s
  | .l1Drop k line => Sys2Proof.Machine.execL1Drop k line s
  | .atom c => Sys2Proof.Machine.execAtom c s
  | .hand c => Sys2Proof.Machine.execHand c s
  | .piece t n => Sys2Proof.Machine.execPiece t n s
  | .count t => Sys2Proof.Machine.execCount t s
  | .host c => Sys2Proof.Machine.execHost c s
  | .hm c => Sys2Proof.Machine.execHm c s
  | .hmFaultTrap c => Sys2Proof.Machine.execHmFaultTrap c s
  | .heapLineFree => Sys2Proof.Machine.execHeapLineFree s
  | .releaseWalkerDrop job => Sys2Proof.Machine.execReleaseWalkerDrop job s
  | .walkerCounterAdd job => Sys2Proof.Machine.execWalkerCounterAdd job s
  | .cbindPerform c => Sys2Proof.Machine.execCbindPerform c s
  | .cacqLock c => Sys2Proof.Machine.execCacqLock c s
  | .crelPerform c => Sys2Proof.Machine.execCrelPerform c s
  | .ctryPerform c => Sys2Proof.Machine.execCtryPerform c s
  | .fencePerform c => Sys2Proof.Machine.execFencePerform c s
  | .hostFlushComplete c => Sys2Proof.Machine.execHostFlushComplete c s
  | .sigPerform c => Sys2Proof.Machine.execSigPerform c s
  | .spawnPerform c => Sys2Proof.Machine.execSpawnPerform c s
  | .launchStart => Sys2Proof.Machine.execLaunchStart s
  | .postPerform c => Sys2Proof.Machine.execPostPerform c s
  | .cancelPerform c => Sys2Proof.Machine.execCancelPerform c s
  | .cancel => Sys2Proof.Machine.execCancel s
  | .eretPerform c => Sys2Proof.Machine.execEretPerform c s
  | .tlbinvPerform c => Sys2Proof.Machine.execTlbinvPerform c s
  | .qsetPerform c => Sys2Proof.Machine.execQsetPerform c s
  | .tsrfPerform c => Sys2Proof.Machine.execTsrfPerform c s
  | .predictorUpdateRelease c => Sys2Proof.Machine.execPredictorUpdateRelease c s
  | .predictorBindRelease c => Sys2Proof.Machine.execPredictorBindRelease c s
  | .hmcopyHmStep c => Sys2Proof.Machine.execHmcopyHmStep c s
  | .mxTileWriteFormed c => Sys2Proof.Machine.execMxTileWriteFormed c s
  | .beadDispatch c => Sys2Proof.Machine.execBeadDispatch c s
  | .arbiterChoice c => Sys2Proof.Machine.execArbiterChoice c s
  | .roundStart => Sys2Proof.Machine.execRoundStart s
  | .budgetOverrun c => Sys2Proof.Machine.execBudgetOverrun c s
  | .waitWake n => Sys2Proof.Machine.execWaitWake n s
  | .beadComplete n => Sys2Proof.Machine.execBeadComplete n s
  | .forcedPreemption c => Sys2Proof.Machine.execForcedPreemption c s
  | .worldSwitch k vf => Sys2Proof.Machine.execWorldSwitch k vf s
  | .graphStart die job desc => Sys2Proof.Machine.execGraphStart die job desc s
  | .graphNodeComplete g j => Sys2Proof.Machine.execGraphNodeComplete g j s
  | .locketMessage n msg src => Sys2Proof.Machine.execLocketMessage n msg src s
  | .locketHandlerComplete n => Sys2Proof.Machine.execLocketHandlerComplete n s
  | .handlerInstanceStart => Sys2Proof.Machine.execHandlerInstanceStart s
  | .debugStop c => Sys2Proof.Machine.execDebugStop c s
  | .dbgresWrite addr => Sys2Proof.Machine.execDbgresWrite addr s
  | .rds q line => Sys2Proof.Machine.execRds q line s
  | .rdx q line => Sys2Proof.Machine.execRdx q line s
  | .upg q line => Sys2Proof.Machine.execUpg q line s
  | .wb a line => Sys2Proof.Machine.execWb a line s
  | .ce a line => Sys2Proof.Machine.execCe a line s
  | .fwds line => Sys2Proof.Machine.execFwds line s
  | .fwdx line => Sys2Proof.Machine.execFwdx line s
  | .inv a line => Sys2Proof.Machine.execInv a line s
  | .transactionComplete line => Sys2Proof.Machine.execTransactionComplete line s
  | .agentLost a => Sys2Proof.Machine.execAgentLost a s
  | .flitResend port => Sys2Proof.Machine.execFlitResend port s
  | .pageWalk c va => Sys2Proof.Machine.execPageWalk c va s
  | .migratorEpoch a => Sys2Proof.Machine.execMigratorEpoch a s
  | .pageMigrate a err => Sys2Proof.Machine.execPageMigrate a err s
  | .dcctlWrite stack val => Sys2Proof.Machine.execDcctlWrite stack val s
  | .nearConversionDone stack => Sys2Proof.Machine.execNearConversionDone stack s
  | .refresh stack bank => Sys2Proof.Machine.execRefresh stack bank s
  | .hotRowCapture stack row => Sys2Proof.Machine.execHotRowCapture stack row s
  | .refreshWindowEnd stack => Sys2Proof.Machine.execRefreshWindowEnd stack s
  | .heapInit a => Sys2Proof.Machine.execHeapInit a s
  | .chsendHand c => Sys2Proof.Machine.execChsendHand c s
  | .channelSlotWrite src => Sys2Proof.Machine.execChannelSlotWrite src s
  | .channelFlush job ch => Sys2Proof.Machine.execChannelFlush job ch s
  | .workEntryRun port n => Sys2Proof.Machine.execWorkEntryRun port n s
  | .workRunComplete port n => Sys2Proof.Machine.execWorkRunComplete port n s
  | .collectiveAbort job => Sys2Proof.Machine.execCollectiveAbort job s
  | .abortMessage job agent => Sys2Proof.Machine.execAbortMessage job agent s
  | .functionLevelReset vf => Sys2Proof.Machine.execFunctionLevelReset vf s
  | .moduleReset => Sys2Proof.Machine.execModuleReset s
  | .bringUpStep f m => Sys2Proof.Machine.execBringUpStep f m s
  | .mctlHalt on => Sys2Proof.Machine.execMctlHalt on s
  | .mctlMigen on => Sys2Proof.Machine.execMctlMigen on s
  | .resync => Sys2Proof.Machine.execResync s
  | .attestation => Sys2Proof.Machine.execAttestation s
  | .pwrAllowWrite watts => Sys2Proof.Machine.execPwrAllowWrite watts s
  | .powerGrantSend port watts => Sys2Proof.Machine.execPowerGrantSend port watts s
  | .powerGrantReceive port watts => Sys2Proof.Machine.execPowerGrantReceive port watts s
  | .operatingPointChange need => Sys2Proof.Machine.execOperatingPointChange need s
  | .thermalLimit degrees => Sys2Proof.Machine.execThermalLimit degrees s
  | .controlRegisterWrite c => Sys2Proof.Machine.execControlRegisterWrite c s
  | .xpdataWrite c => Sys2Proof.Machine.execXpdataWrite c s
  | .rqRegisterWrite c => Sys2Proof.Machine.execRqRegisterWrite c s
  | .phaseSplitTakesEffect k => Sys2Proof.Machine.execPhaseSplitTakesEffect k s
  | .l2Eviction a line err => Sys2Proof.Machine.execL2Eviction a line err s
  | .scrub line err => Sys2Proof.Machine.execScrub line err s
  | .transformComplete t => Sys2Proof.Machine.execTransformComplete t s
  | .recordCacheEviction die line => Sys2Proof.Machine.execRecordCacheEviction die line s

end Sys2Proof.Machine
end

