-- ==== Sys2Proof/Machine/Due.lean ====
section
/-! DEFINITION. What falls due by the clock: before a step, receives whose timeout has ended; after it, errors that appear, rows to be
captured, ends of refresh windows and of migration epochs, scheduling rounds, launches whose counters are full, a common operating point,
acts of the host and of other modules, and the conditions of waiting beads; and the contexts that fault-log entries of a step name (spec 13,
R223, R224; 15, R254, R263, R271 to R273; 19, R321, R328; 20, R348; 23, R384, R391; 24, R393, R401). -/
namespace Sys2Proof.Machine

/-- An error appears in the codes of a line: an uncorrectable one stays until the bits are written anew, and a correctable one until an
access finds it (R223, R273). -/
def placeError (s : State) (line : Nat) (e : MemErr) : State :=
  let wait (s : State) : State := s.modHomes fun h => { h with latent := h.latent ++ [(line, e)] }
  match e with
  | .clean => s
  | .corrected _ => wait s
  | .bad => markData s line
  | .tagCorrected => if tagged s (line * 128) then wait s else s
  | .tagBad => if tagged s (line * 128) then markTag s line else s
/-- Errors whose time has come appear (R223, R273). -/
def placeErrors (s : State) : State :=
  if s.errorsIn.isEmpty then s
  else
    let now := s.hub.timebase.toNat
    (s.errorsIn.filter fun e => decide (e.1 ≤ now)).foldl (fun s (_, line, e) => placeError s line e)
      { s with errorsIn := s.errorsIn.filter fun e => !decide (e.1 ≤ now) }

/-- Rows that have reached 512 activations are captured (R272). -/
def captureDue (s : State) : State := s.tiers.hotDue.foldl (fun s r => captureRow s r.1 r.2) s
/-- Refresh windows that have ended (R271, R272). -/
def endWindows (s : State) : State := (List.range 8).foldl endWindow s
/-- Epochs of this module's agents that have ended (R263). -/
def endEpochs (s : State) : State := (List.range Config.dies).foldl (fun s d => endEpoch s (4 * s.pos + d)) s
/-- The management processor takes what the step has written to its window (R254; log 171). -/
def takeMgmt (s : State) : State := if s.mgmtIn.isEmpty then s else mgmtWrite { s with mgmtIn := [] } s.mgmtIn

/-! ### Other modules (R222, R224, R254; log 170) -/

/-- An agent of the domain on another module, which has not been lost. -/
def isPeer (s : State) (a : Nat) : Bool := isForeign s a && s.homes.present.contains a && !s.homes.lost.contains a
/-- Bytes are written where they stand: lines that they fill have good codes again (R273), and none of them is padding (R149). -/
def putBytes (s : State) (l : List (Nat × Byte)) : State := written { s with mem := Memory.writeCells s.mem l } (byteBits l)
/-- An agent of this module holds a copy of a line. -/
def heldHere (s : State) (line : Nat) : Bool := (List.range Config.dies).any fun d => (l2Copy s (4 * s.pos + d) line).isSome
/-- An agent on another module writes bytes of a line: of its own E or M copy, which is M and dirty then (R219, R222), or of what stands
on another module while no agent of this one holds the line. -/
def peerWrite (s : State) (a line : Nat) (bytes : List (Nat × Byte)) : State :=
  let l := bytes.filter fun (x, _) => x / 128 == line
  match l2Copy s a line with
  | some x =>
    if (x.st == .e || x.st == .m) && !x.inWriteback then putBytes (setL2 s a line { x with st := .m, dirty := true }) l else s
  | none => if isForeign s (paAgent (line * 128)) && !(tagged s (line * 128) && heldHere s line) then putBytes s l else s
/-- An access of another module's agent reaches what is never cached here: one flit comes in, and one with the line as it was goes out where
the access reads (R224, R305; log 148).  A line that the home does not serve is logged (R223); a heap line is not written (R225). -/
def peerAccess (s0 : State) (a line : Nat) (reads : Bool) (bytes : List (Nat × Byte)) : State :=
  let pa := line * 128
  let s := countFabric s0 evFabRx
  if tagged s pa && tagFault s line then logTag s a line
  else
    let l := if inHeap s pa then [] else bytes.filter fun (x, _) => x / 128 == line
    let old := if ownMgmt s pa then BitVec.ofNat 1024 (mgmtRead s (mgmtOff pa) 128) else lineData s line
    let s1 :=
      if ownMgmt s pa then mgmtWrite s (l.map fun (x, b) => (mgmtOff x, b))
      else putBytes (if tagged s pa then touch s line else findErrors s line) l
    if reads then countFabric { s1 with fabricOut := s1.fabricOut ++ [.answer a line old] } evFabTx else s1
/-- Another module acts: agents of the domain on other modules alone. -/
def peerAct (s : State) : PeerAct → State
  | .write a line bytes => if isPeer s a then peerWrite s a line bytes else s
  | .access a line reads bytes =>
    if isPeer s a && !isForeign s (paAgent (line * 128)) then peerAccess s a line reads bytes else s
  | .ways a stack n =>
    if isForeign s a then s.modTiers fun t => { t with peerWays := t.peerWays.set (2 * a + stack % 2) n } else s
/-- What other modules do up to now, at most `n` acts. -/
def peerActs : Nat → State → State
  | 0, s => s
  | n + 1, s => match s.peersIn with
    | (t, a) :: r => if t ≤ s.hub.timebase.toNat then peerActs n (peerAct { s with peersIn := r } a) else s
    | [] => s

/-! ### Before and after a step -/

/-- Receives whose timeout has ended by the time of a step, before anything happens in it (R384, R389). -/
def expire (s : State) : State := if s.mgmt.ready then flushAll s else s
/-- All that has fallen due; TIMEBASE stands at 0 until the module is ready. -/
def settleDue (s0 : State) : State :=
  let s := takeMgmt s0
  let s1 := captureDue (placeErrors s)
  let s2 := if s1.mgmt.ready then startRound (commonPoint (endEpochs (endWindows s1))) else s1
  let s3 := settleLaunches s2
  markWaiters (peerActs s3.peersIn.length (hostActs s3.hostIn.length s3))

/-! ### The contexts that the fault log names (R393) -/

/-- Who makes the accesses of a step: a context and a job; none for a step of the L9's own. -/
abbrev Actor := Option (Nat × Nat)
/-- The bead of a context: its operations, fetches and micro-traps. -/
def ctxActor (s : State) (c : Nat) : Actor := some (c, jobOf s c)
/-- The oldest pending read of a context. -/
def readActor (s : State) (c : Nat) : Actor := (s.ctx c).reads.head?.map fun r => (c, r.job)
/-- The head of a context's store queue. -/
def queueActor (s : State) (c : Nat) : Actor := (headEntry s c).map fun e => (c, e.job)
/-- A transfer of a context; the graph walker's have none. -/
def Transfer.actor (t : Transfer) : Actor := t.ctx.map fun c => (c, t.job)
/-- Who makes the accesses of an instruction's step. -/
def actorOf (s : State) (i : Instr) : Actor :=
  if (slotOp i).isSome then ctxActor s s.cur
  else match i with
  | .bundleIssue c | .stallCycle c | .registerMissMicroTrap c _ | .pageWalk c _ => ctxActor s c
  | .loadDataArrive c _ => readActor s c
  | .drain c | .atom c | .hand c | .host c | .hm c | .cbindPerform c | .cacqLock c | .crelPerform c | .ctryPerform c | .fencePerform c |
    .sigPerform c | .spawnPerform c | .postPerform c | .cancelPerform c | .eretPerform c | .tlbinvPerform c | .qsetPerform c |
    .tsrfPerform c | .hmcopyHmStep c | .chsendHand c => queueActor s c
  | .piece t _ | .count t | .transformComplete t | .channelSlotWrite (.transfer t _) => (transferOf s t).bind Transfer.actor
  | _ => none
/-- The context, job and virtual function of an access that has found a correctable error, in an entry that names none (R393). -/
def creditEntry (s : State) (c j : Nat) (x : BitVec 512) : BitVec 512 :=
  let n := x.toNat
  if (bitsOf n 128 8 == 1 || bitsOf n 128 8 == 3) && bitsOf n 144 8 == 0xFF then
    BitVec.ofNat 512 (putBits (putBits (putBits (putBits n 136 8 (agentOf s c)) 144 8 (slotNo c * 128 + coreNo (coreOf c))) 160 16 j)
      176 8 (s.job j).vf)
  else x
/-- A step's corrected errors are logged with the context whose access found them (R393): the step led from `s` to `t`. -/
def credit (s : State) (who : Actor) (t : State) : State := match who with
  | none => t
  | some (c, j) =>
    if t.mgmt.flogN ≤ s.mgmt.flogN then t
    else t.modMgmt fun m => { m with
      flog := (List.range (m.flogN - s.mgmt.flogN)).foldl (fun l k =>
        match l.get? ((s.mgmt.flogN + k) % 4096) with
        | some x => l.set ((s.mgmt.flogN + k) % 4096) (creditEntry s c j x)
        | none => l) m.flog }

end Sys2Proof.Machine
end

