-- ==== Sys2Proof/Machine/Step.lean ====
section
/-! DEFINITION. One step of the module: which part of it moves next, and the bundle that a placed word makes (spec 12, R205; 24, R395;
18, R304). -/
namespace Sys2Proof.Machine

/-! ### What moves next (log 9) -/

/-- A step of some part of the module, with whose accesses it makes. -/
structure Event where
  who : Actor
  run : State → Host.Outcome State Fault Refusal
/-- Steps that one actor takes. -/
def events (who : Actor) (l : List (State → Host.Outcome State Fault Refusal)) : List Event := l.map fun f => ⟨who, f⟩

/-- Steps of a context that need no issue: landings, traps, preemption, reads. -/
def contextEvents (s : State) (c : Nat) : List Event :=
  events (ctxActor s c) ([execXpdataWrite c, execRqRegisterWrite c, execControlRegisterWrite c, execAtomicReleaseDeadline c, execResultLand c, execTrapDelivery c,
   execHmFaultTrap c, execBudgetOverrun c, execDebugStop c, execForcedPreemption c, execHostFlushComplete c] ++
    ((s.ctx c).unfetched.map fun r => execRegisterMissMicroTrap c r)) ++
  events (readActor s c) [execLoadDataArrive c .clean]
/-- Steps of a context's store queue. -/
def queueEvents (s : State) (c : Nat) : List Event := events (queueActor s c)
  [execDrain c, execAtom c, execHost c, execHand c, execHm c, execHmcopyHmStep c, execCbindPerform c, execCacqLock c, execCrelPerform c, execCtryPerform c,
   execFencePerform c, execSigPerform c, execSpawnPerform c, execPostPerform c, execCancelPerform c, execEretPerform c, execTlbinvPerform c,
   execQsetPerform c, execTsrfPerform c, execPredictorUpdateRelease c, execPredictorBindRelease c, execChsendHand c, execMxTileWriteFormed c]
/-- Steps of the transfers in progress. -/
def transferEvents (s : State) : List Event := s.transfers.flatMap fun t => events t.actor <|
  ((List.range t.pieces.length).map fun i => execPiece t.uid i) ++
  [execTransformComplete t.uid, execCount t.uid, execChannelSlotWrite (.transfer t.uid 0)] ++
  (match t.kind with
   | .chrecv j ch _ => [execChannelFlush j ch]
   | _ => [])
/-- Steps of the hub, the walkers and the communication processors. -/
def hubEvents (s : State) : List Event := events none <|
  [execRoundStart, execCancel, execLaunchStart, execHandlerInstanceStart, execHeapLineFree] ++
  ((List.range s.hub.completing.length).map fun i => execBeadComplete i) ++
  ((List.range s.hub.handlersDone.length).map fun i => execLocketHandlerComplete i) ++
  ((List.range s.hub.waiters.length).map fun i => execWaitWake i) ++
  (s.hub.mail.map fun m => execLocketMessage m.locket m.msg m.src) ++
  (s.hub.graphs.flatMap fun (g, x) => x.finished.map fun (j, _) => execGraphNodeComplete g j) ++
  (s.hall.walker.map fun (_, j, _) => execReleaseWalkerDrop j) ++
  (s.hall.groups.map fun (_, j, _) => execWalkerCounterAdd j) ++
  (s.hub.aborts.map fun j => execCollectiveAbort j) ++
  (s.mgmt.work.flatMap fun (k, _) => [execWorkEntryRun (k / 256) (k % 256), execWorkRunComplete (k / 256) (k % 256)]) ++
  (s.hub.chosen.map fun (c, _) => execBeadDispatch c) ++
  ((List.range 128).map fun a => execHeapInit a) ++
  ((List.range 8).map fun i => execNearConversionDone i) ++
  ((List.range Config.dies).map fun d => execPageMigrate (4 * s.pos + d) .clean)
/-- Steps that the arbiters take for idle slots. -/
def choiceEvents : List Event := events none <| (List.range (2 * Config.coresPerDie * Config.dies)).map fun c => execArbiterChoice c
/-- Steps of the cores' issue. -/
def issueEvents (s : State) : List Event := s.cores.flatMap fun (k, _) =>
  events (ctxActor s (2 * k)) [execStallCycle (2 * k), execBundleIssue (2 * k)] ++
  events (ctxActor s (2 * k + 1)) [execStallCycle (2 * k + 1), execBundleIssue (2 * k + 1)] ++ events none [execIssueMerge k]
/-- Everything that moves on its own. -/
def agenda (s : State) : List Event :=
  (s.ctxs.flatMap fun (c, _) => contextEvents s c ++ queueEvents s c) ++ transferEvents s ++ hubEvents s ++ choiceEvents ++
  (issueEvents s).rotateLeft s.hub.timebase.toNat

/-- A step changes the state. -/
def changes (s : State) (e : Event) : Bool := match e.run s with
  | .next t => t != s
  | _ => true
/-- A step runs, and the fault log records its corrected errors with its context (R393). -/
def Event.take (e : Event) (s : State) : Host.Outcome State Fault Refusal := match e.run s with
  | .next t => .next (credit s e.who t)
  | .fault f => .fault f
  | .refused r => .refused r
/-- The agents that answer in a bring-up that runs alone: the module's own (R395). -/
def ownAnswer (s : State) : BitVec 128 := (0xF : BitVec 128) <<< (4 * s.pos)
/-- What moves when the script is empty: bring-up from the flash until the module is ready, then the first step of the agenda that
changes something; time passes where nothing does. -/
def moveAlone (s : State) : Host.Outcome State Fault Refusal :=
  if !s.mgmt.ready && !s.mgmt.bootStopped then execBringUpStep Config.flash { pos := s.pos, answer := ownAnswer s } s
  else match (agenda s).find? (changes s) with
    | some e => e.take s
    | none => .next s
/-- What the next step runs: the head of the script, or what moves on its own. -/
def moveNext (s : State) : List Instr → Host.Outcome State Fault Refusal
  | i :: r => Event.take ⟨actorOf s i, exec i⟩ { s with script := r }
  | [] => moveAlone s

/-- Time passes: TIMEBASE counts from the end of bring-up (R304, R396). -/
def tick (s : State) : State :=
  let n := s.elapse.headD 1
  { s with
    elapse := s.elapse.tail
    hub := { s.hub with timebase := if s.mgmt.ready then s.hub.timebase + BitVec.ofNat 64 n else s.hub.timebase } }

/-- One step of the module, with what has fallen due before it and after it. -/
def step (s : State) : Host.Outcome State Fault Refusal :=
  match moveNext (expire (tick s)) s.script with
  | .next t => .next (settleDue t)
  | .fault f => .fault f
  | .refused r => .refused r

/-! ### Placing a word -/

/-- The bundle of a table word: 32 bits are its X slot (R20). -/
def placedBundle (nbits w : Nat) : Nat := if nbits = 32 then w % 2 ^ 32 * 2 ^ 208 else w % 2 ^ nbits
/-- The job of the bead that runs a placed word. -/
def placeJob : Nat := 1
/-- The address of a placed bundle, virtual and within its agent's memory. -/
def placePc : Nat := 0x20000
/-- The bead that runs a placed word. -/
def placeBead : Bead :=
  { addr := 0x30000, job := placeJob, sup := false, queue := 0, rank := 0, save := 0x40000, launch := 0, index := 0
    budget := 2 ^ 32 - 1, life := 0 }
/-- A mapping of the agent's first 4 GiB for fetches and reads: a table of level 0 and a leaf of level 1 (R264, R265). -/
def placeTables (s : State) (base : Nat) : State :=
  (s.writeMem base 8 (base + 0x10000 + 0x81)).writeMem (base + 0x10000) 8 (base + 0x6B)

/-- The state in which the next step fetches and issues the bundle of a word: context 0 of core 0 runs a bead whose pc maps to
it, and the merge has granted the context (log 20). -/
def State.withFetchWord (s : State) (nbits w : Nat) : State :=
  let agent := 4 * s.pos
  let base := agent * 2 ^ 45
  let s1 := s.modHomes fun h => { h with present := if h.present.contains agent then h.present else agent :: h.present }
  let s2 := (placeTables s1 base).writeMem (base + placePc) 64 (placedBundle nbits w)
  let s3 := (s2.modJob placeJob fun j => { j with ptroot := BitVec.ofNat 64 base }).modCore 0 fun k => { k with
    icache := [], tlb := [], phase := none }
  let s4 := { s3 with dieTlb := s3.dieTlb.erase 0 }.modCtx 0 fun x => { x with
    run := some placeBead, pc := placePc, owed := some 0, granted := true, pendTraps := [], preempt := none, unfetched := [], spent := 0
    arch := { x.arch with wtb := x.arch.wtb.filter fun l => !decide (l.due ≤ x.arch.cc) } }
  { s4 with script := .bundleIssue 0 :: s4.script }

end Sys2Proof.Machine
end

