-- ==== Sys2Proof/Laws/State.lean ====
section
/-! SUPPORT. The fields of a state after each of its updates, and the entries of a table after it is set. -/
namespace Sys2Proof.Machine

namespace Table
variable {α : Type}

@[simp] theorem get?_set_self (t : Table α) (k : Nat) (x : α) : (t.set k x).get? k = some x := by
  induction t with
  | nil => simp [set, get?]
  | cons e r ih =>
    obtain ⟨a, y⟩ := e
    unfold set
    split
    · simp [get?]
    · split
      · simp [get?]
      · rename_i h1 h2
        simp [get?, Ne.symm h2, ih]

theorem get?_set_ne (t : Table α) {k j : Nat} (x : α) (h : j ≠ k) : (t.set k x).get? j = t.get? j := by
  induction t with
  | nil => simp [set, get?, Ne.symm h]
  | cons e r ih =>
    obtain ⟨a, y⟩ := e
    unfold set
    split
    · simp [get?, Ne.symm h]
    · split
      · rename_i h1 h2
        subst h2
        simp [get?, Ne.symm h]
      · by_cases e : a = j <;> simp [get?, e, ih]

@[simp] theorem get_set_self (t : Table α) (k : Nat) (x d : α) : (t.set k x).get k d = x := by simp [get]

theorem get_set_ne (t : Table α) {k j : Nat} (x d : α) (h : j ≠ k) : (t.set k x).get j d = t.get j d := by
  simp [get, get?_set_ne t x h]

theorem get?_erase_ne (t : Table α) {k j : Nat} (h : j ≠ k) : (t.erase k).get? j = t.get? j := by
  induction t with
  | nil => rfl
  | cons e r ih =>
    obtain ⟨a, y⟩ := e
    unfold erase
    split
    · rename_i e
      subst e
      simp [get?, Ne.symm h]
    · by_cases e : a = j <;> simp [get?, e, ih]

end Table

namespace Paged
variable {α : Type}

/-- Keys of one page differ within it. -/
theorem mod_ne {k j : Nat} (h : j ≠ k) (e : j / 128 = k / 128) : j % 128 ≠ k % 128 := by omega

@[simp] theorem get?_set_self (t : Paged α) (k : Nat) (x : α) : (t.set k x).get? k = some x := by simp [set, get?]

theorem get?_set_ne (t : Paged α) {k j : Nat} (x : α) (h : j ≠ k) : (t.set k x).get? j = t.get? j := by
  unfold set get?
  by_cases e : j / 128 = k / 128
  · rw [e, Table.get_set_self, Table.get?_set_ne _ _ (mod_ne h e)]
  · rw [Table.get_set_ne _ _ _ e]

@[simp] theorem get_set_self (t : Paged α) (k : Nat) (x d : α) : (t.set k x).get k d = x := by simp [get]

theorem get_set_ne (t : Paged α) {k j : Nat} (x d : α) (h : j ≠ k) : (t.set k x).get j d = t.get j d := by
  simp [get, get?_set_ne t x h]

end Paged

namespace State
variable (s : State)

@[simp] theorem setCtx_ctxs (c : Nat) (x : Ctx) : (s.setCtx c x).ctxs = s.ctxs.set c x := rfl
@[simp] theorem setCtx_cores (c : Nat) (x : Ctx) : (s.setCtx c x).cores = s.cores := rfl
@[simp] theorem setCtx_mem (c : Nat) (x : Ctx) : (s.setCtx c x).mem = s.mem := rfl
@[simp] theorem setCtx_homes (c : Nat) (x : Ctx) : (s.setCtx c x).homes = s.homes := rfl
@[simp] theorem setCtx_dieTlb (c : Nat) (x : Ctx) : (s.setCtx c x).dieTlb = s.dieTlb := rfl
@[simp] theorem setCtx_recCache (c : Nat) (x : Ctx) : (s.setCtx c x).recCache = s.recCache := rfl
@[simp] theorem setCtx_transfers (c : Nat) (x : Ctx) : (s.setCtx c x).transfers = s.transfers := rfl
@[simp] theorem setCtx_pred (c : Nat) (x : Ctx) : (s.setCtx c x).pred = s.pred := rfl
@[simp] theorem setCtx_jobs (c : Nat) (x : Ctx) : (s.setCtx c x).jobs = s.jobs := rfl
@[simp] theorem setCtx_hall (c : Nat) (x : Ctx) : (s.setCtx c x).hall = s.hall := rfl
@[simp] theorem setCtx_hub (c : Nat) (x : Ctx) : (s.setCtx c x).hub = s.hub := rfl
@[simp] theorem setCtx_mgmt (c : Nat) (x : Ctx) : (s.setCtx c x).mgmt = s.mgmt := rfl
@[simp] theorem setCtx_tiers (c : Nat) (x : Ctx) : (s.setCtx c x).tiers = s.tiers := rfl
@[simp] theorem setCtx_chans (c : Nat) (x : Ctx) : (s.setCtx c x).chans = s.chans := rfl
@[simp] theorem setCtx_pos (c : Nat) (x : Ctx) : (s.setCtx c x).pos = s.pos := rfl
@[simp] theorem setCtx_fabricOut (c : Nat) (x : Ctx) : (s.setCtx c x).fabricOut = s.fabricOut := rfl
@[simp] theorem setCtx_hostOut (c : Nat) (x : Ctx) : (s.setCtx c x).hostOut = s.hostOut := rfl
@[simp] theorem setCtx_hostIn (c : Nat) (x : Ctx) : (s.setCtx c x).hostIn = s.hostIn := rfl
@[simp] theorem setCtx_peersIn (c : Nat) (x : Ctx) : (s.setCtx c x).peersIn = s.peersIn := rfl
@[simp] theorem setCtx_mgmtIn (c : Nat) (x : Ctx) : (s.setCtx c x).mgmtIn = s.mgmtIn := rfl
@[simp] theorem setCtx_padBits (c : Nat) (x : Ctx) : (s.setCtx c x).padBits = s.padBits := rfl
@[simp] theorem setCtx_errorsIn (c : Nat) (x : Ctx) : (s.setCtx c x).errorsIn = s.errorsIn := rfl
@[simp] theorem setCtx_uid (c : Nat) (x : Ctx) : (s.setCtx c x).uid = s.uid := rfl
@[simp] theorem setCtx_free (c : Nat) (x : Ctx) : (s.setCtx c x).free = s.free := rfl
@[simp] theorem setCtx_script (c : Nat) (x : Ctx) : (s.setCtx c x).script = s.script := rfl
@[simp] theorem setCtx_elapse (c : Nat) (x : Ctx) : (s.setCtx c x).elapse = s.elapse := rfl
@[simp] theorem setCtx_cur (c : Nat) (x : Ctx) : (s.setCtx c x).cur = s.cur := rfl

@[simp] theorem modCtx_ctxs (c : Nat) (f : Ctx → Ctx) : (s.modCtx c f).ctxs = s.ctxs.set c (f (s.ctx c)) := rfl
@[simp] theorem modCtx_cores (c : Nat) (f : Ctx → Ctx) : (s.modCtx c f).cores = s.cores := rfl
@[simp] theorem modCtx_mem (c : Nat) (f : Ctx → Ctx) : (s.modCtx c f).mem = s.mem := rfl
@[simp] theorem modCtx_homes (c : Nat) (f : Ctx → Ctx) : (s.modCtx c f).homes = s.homes := rfl
@[simp] theorem modCtx_dieTlb (c : Nat) (f : Ctx → Ctx) : (s.modCtx c f).dieTlb = s.dieTlb := rfl
@[simp] theorem modCtx_recCache (c : Nat) (f : Ctx → Ctx) : (s.modCtx c f).recCache = s.recCache := rfl
@[simp] theorem modCtx_transfers (c : Nat) (f : Ctx → Ctx) : (s.modCtx c f).transfers = s.transfers := rfl
@[simp] theorem modCtx_pred (c : Nat) (f : Ctx → Ctx) : (s.modCtx c f).pred = s.pred := rfl
@[simp] theorem modCtx_jobs (c : Nat) (f : Ctx → Ctx) : (s.modCtx c f).jobs = s.jobs := rfl
@[simp] theorem modCtx_hall (c : Nat) (f : Ctx → Ctx) : (s.modCtx c f).hall = s.hall := rfl
@[simp] theorem modCtx_hub (c : Nat) (f : Ctx → Ctx) : (s.modCtx c f).hub = s.hub := rfl
@[simp] theorem modCtx_mgmt (c : Nat) (f : Ctx → Ctx) : (s.modCtx c f).mgmt = s.mgmt := rfl
@[simp] theorem modCtx_tiers (c : Nat) (f : Ctx → Ctx) : (s.modCtx c f).tiers = s.tiers := rfl
@[simp] theorem modCtx_chans (c : Nat) (f : Ctx → Ctx) : (s.modCtx c f).chans = s.chans := rfl
@[simp] theorem modCtx_pos (c : Nat) (f : Ctx → Ctx) : (s.modCtx c f).pos = s.pos := rfl
@[simp] theorem modCtx_fabricOut (c : Nat) (f : Ctx → Ctx) : (s.modCtx c f).fabricOut = s.fabricOut := rfl
@[simp] theorem modCtx_hostOut (c : Nat) (f : Ctx → Ctx) : (s.modCtx c f).hostOut = s.hostOut := rfl
@[simp] theorem modCtx_hostIn (c : Nat) (f : Ctx → Ctx) : (s.modCtx c f).hostIn = s.hostIn := rfl
@[simp] theorem modCtx_peersIn (c : Nat) (f : Ctx → Ctx) : (s.modCtx c f).peersIn = s.peersIn := rfl
@[simp] theorem modCtx_mgmtIn (c : Nat) (f : Ctx → Ctx) : (s.modCtx c f).mgmtIn = s.mgmtIn := rfl
@[simp] theorem modCtx_padBits (c : Nat) (f : Ctx → Ctx) : (s.modCtx c f).padBits = s.padBits := rfl
@[simp] theorem modCtx_errorsIn (c : Nat) (f : Ctx → Ctx) : (s.modCtx c f).errorsIn = s.errorsIn := rfl
@[simp] theorem modCtx_uid (c : Nat) (f : Ctx → Ctx) : (s.modCtx c f).uid = s.uid := rfl
@[simp] theorem modCtx_free (c : Nat) (f : Ctx → Ctx) : (s.modCtx c f).free = s.free := rfl
@[simp] theorem modCtx_script (c : Nat) (f : Ctx → Ctx) : (s.modCtx c f).script = s.script := rfl
@[simp] theorem modCtx_elapse (c : Nat) (f : Ctx → Ctx) : (s.modCtx c f).elapse = s.elapse := rfl
@[simp] theorem modCtx_cur (c : Nat) (f : Ctx → Ctx) : (s.modCtx c f).cur = s.cur := rfl

@[simp] theorem modArch_cores (c : Nat) (f : Arch → Arch) : (s.modArch c f).cores = s.cores := rfl
@[simp] theorem modArch_mem (c : Nat) (f : Arch → Arch) : (s.modArch c f).mem = s.mem := rfl
@[simp] theorem modArch_homes (c : Nat) (f : Arch → Arch) : (s.modArch c f).homes = s.homes := rfl
@[simp] theorem modArch_dieTlb (c : Nat) (f : Arch → Arch) : (s.modArch c f).dieTlb = s.dieTlb := rfl
@[simp] theorem modArch_recCache (c : Nat) (f : Arch → Arch) : (s.modArch c f).recCache = s.recCache := rfl
@[simp] theorem modArch_transfers (c : Nat) (f : Arch → Arch) : (s.modArch c f).transfers = s.transfers := rfl
@[simp] theorem modArch_pred (c : Nat) (f : Arch → Arch) : (s.modArch c f).pred = s.pred := rfl
@[simp] theorem modArch_jobs (c : Nat) (f : Arch → Arch) : (s.modArch c f).jobs = s.jobs := rfl
@[simp] theorem modArch_hall (c : Nat) (f : Arch → Arch) : (s.modArch c f).hall = s.hall := rfl
@[simp] theorem modArch_hub (c : Nat) (f : Arch → Arch) : (s.modArch c f).hub = s.hub := rfl
@[simp] theorem modArch_mgmt (c : Nat) (f : Arch → Arch) : (s.modArch c f).mgmt = s.mgmt := rfl
@[simp] theorem modArch_tiers (c : Nat) (f : Arch → Arch) : (s.modArch c f).tiers = s.tiers := rfl
@[simp] theorem modArch_chans (c : Nat) (f : Arch → Arch) : (s.modArch c f).chans = s.chans := rfl
@[simp] theorem modArch_pos (c : Nat) (f : Arch → Arch) : (s.modArch c f).pos = s.pos := rfl
@[simp] theorem modArch_fabricOut (c : Nat) (f : Arch → Arch) : (s.modArch c f).fabricOut = s.fabricOut := rfl
@[simp] theorem modArch_hostOut (c : Nat) (f : Arch → Arch) : (s.modArch c f).hostOut = s.hostOut := rfl
@[simp] theorem modArch_hostIn (c : Nat) (f : Arch → Arch) : (s.modArch c f).hostIn = s.hostIn := rfl
@[simp] theorem modArch_peersIn (c : Nat) (f : Arch → Arch) : (s.modArch c f).peersIn = s.peersIn := rfl
@[simp] theorem modArch_mgmtIn (c : Nat) (f : Arch → Arch) : (s.modArch c f).mgmtIn = s.mgmtIn := rfl
@[simp] theorem modArch_padBits (c : Nat) (f : Arch → Arch) : (s.modArch c f).padBits = s.padBits := rfl
@[simp] theorem modArch_errorsIn (c : Nat) (f : Arch → Arch) : (s.modArch c f).errorsIn = s.errorsIn := rfl
@[simp] theorem modArch_uid (c : Nat) (f : Arch → Arch) : (s.modArch c f).uid = s.uid := rfl
@[simp] theorem modArch_free (c : Nat) (f : Arch → Arch) : (s.modArch c f).free = s.free := rfl
@[simp] theorem modArch_script (c : Nat) (f : Arch → Arch) : (s.modArch c f).script = s.script := rfl
@[simp] theorem modArch_elapse (c : Nat) (f : Arch → Arch) : (s.modArch c f).elapse = s.elapse := rfl
@[simp] theorem modArch_cur (c : Nat) (f : Arch → Arch) : (s.modArch c f).cur = s.cur := rfl

@[simp] theorem modCore_ctxs (k : Nat) (f : Core → Core) : (s.modCore k f).ctxs = s.ctxs := rfl
@[simp] theorem modCore_cores (k : Nat) (f : Core → Core) : (s.modCore k f).cores = s.cores.set k (f (s.core k)) := rfl
@[simp] theorem modCore_mem (k : Nat) (f : Core → Core) : (s.modCore k f).mem = s.mem := rfl
@[simp] theorem modCore_homes (k : Nat) (f : Core → Core) : (s.modCore k f).homes = s.homes := rfl
@[simp] theorem modCore_dieTlb (k : Nat) (f : Core → Core) : (s.modCore k f).dieTlb = s.dieTlb := rfl
@[simp] theorem modCore_recCache (k : Nat) (f : Core → Core) : (s.modCore k f).recCache = s.recCache := rfl
@[simp] theorem modCore_transfers (k : Nat) (f : Core → Core) : (s.modCore k f).transfers = s.transfers := rfl
@[simp] theorem modCore_pred (k : Nat) (f : Core → Core) : (s.modCore k f).pred = s.pred := rfl
@[simp] theorem modCore_jobs (k : Nat) (f : Core → Core) : (s.modCore k f).jobs = s.jobs := rfl
@[simp] theorem modCore_hall (k : Nat) (f : Core → Core) : (s.modCore k f).hall = s.hall := rfl
@[simp] theorem modCore_hub (k : Nat) (f : Core → Core) : (s.modCore k f).hub = s.hub := rfl
@[simp] theorem modCore_mgmt (k : Nat) (f : Core → Core) : (s.modCore k f).mgmt = s.mgmt := rfl
@[simp] theorem modCore_tiers (k : Nat) (f : Core → Core) : (s.modCore k f).tiers = s.tiers := rfl
@[simp] theorem modCore_chans (k : Nat) (f : Core → Core) : (s.modCore k f).chans = s.chans := rfl
@[simp] theorem modCore_pos (k : Nat) (f : Core → Core) : (s.modCore k f).pos = s.pos := rfl
@[simp] theorem modCore_fabricOut (k : Nat) (f : Core → Core) : (s.modCore k f).fabricOut = s.fabricOut := rfl
@[simp] theorem modCore_hostOut (k : Nat) (f : Core → Core) : (s.modCore k f).hostOut = s.hostOut := rfl
@[simp] theorem modCore_hostIn (k : Nat) (f : Core → Core) : (s.modCore k f).hostIn = s.hostIn := rfl
@[simp] theorem modCore_peersIn (k : Nat) (f : Core → Core) : (s.modCore k f).peersIn = s.peersIn := rfl
@[simp] theorem modCore_mgmtIn (k : Nat) (f : Core → Core) : (s.modCore k f).mgmtIn = s.mgmtIn := rfl
@[simp] theorem modCore_padBits (k : Nat) (f : Core → Core) : (s.modCore k f).padBits = s.padBits := rfl
@[simp] theorem modCore_errorsIn (k : Nat) (f : Core → Core) : (s.modCore k f).errorsIn = s.errorsIn := rfl
@[simp] theorem modCore_uid (k : Nat) (f : Core → Core) : (s.modCore k f).uid = s.uid := rfl
@[simp] theorem modCore_free (k : Nat) (f : Core → Core) : (s.modCore k f).free = s.free := rfl
@[simp] theorem modCore_script (k : Nat) (f : Core → Core) : (s.modCore k f).script = s.script := rfl
@[simp] theorem modCore_elapse (k : Nat) (f : Core → Core) : (s.modCore k f).elapse = s.elapse := rfl
@[simp] theorem modCore_cur (k : Nat) (f : Core → Core) : (s.modCore k f).cur = s.cur := rfl

@[simp] theorem modJob_ctxs (j : Nat) (f : Job → Job) : (s.modJob j f).ctxs = s.ctxs := rfl
@[simp] theorem modJob_cores (j : Nat) (f : Job → Job) : (s.modJob j f).cores = s.cores := rfl
@[simp] theorem modJob_mem (j : Nat) (f : Job → Job) : (s.modJob j f).mem = s.mem := rfl
@[simp] theorem modJob_homes (j : Nat) (f : Job → Job) : (s.modJob j f).homes = s.homes := rfl
@[simp] theorem modJob_dieTlb (j : Nat) (f : Job → Job) : (s.modJob j f).dieTlb = s.dieTlb := rfl
@[simp] theorem modJob_recCache (j : Nat) (f : Job → Job) : (s.modJob j f).recCache = s.recCache := rfl
@[simp] theorem modJob_transfers (j : Nat) (f : Job → Job) : (s.modJob j f).transfers = s.transfers := rfl
@[simp] theorem modJob_pred (j : Nat) (f : Job → Job) : (s.modJob j f).pred = s.pred := rfl
@[simp] theorem modJob_jobs (j : Nat) (f : Job → Job) : (s.modJob j f).jobs = s.jobs.set j (f (s.job j)) := rfl
@[simp] theorem modJob_hall (j : Nat) (f : Job → Job) : (s.modJob j f).hall = s.hall := rfl
@[simp] theorem modJob_hub (j : Nat) (f : Job → Job) : (s.modJob j f).hub = s.hub := rfl
@[simp] theorem modJob_mgmt (j : Nat) (f : Job → Job) : (s.modJob j f).mgmt = s.mgmt := rfl
@[simp] theorem modJob_tiers (j : Nat) (f : Job → Job) : (s.modJob j f).tiers = s.tiers := rfl
@[simp] theorem modJob_chans (j : Nat) (f : Job → Job) : (s.modJob j f).chans = s.chans := rfl
@[simp] theorem modJob_pos (j : Nat) (f : Job → Job) : (s.modJob j f).pos = s.pos := rfl
@[simp] theorem modJob_fabricOut (j : Nat) (f : Job → Job) : (s.modJob j f).fabricOut = s.fabricOut := rfl
@[simp] theorem modJob_hostOut (j : Nat) (f : Job → Job) : (s.modJob j f).hostOut = s.hostOut := rfl
@[simp] theorem modJob_hostIn (j : Nat) (f : Job → Job) : (s.modJob j f).hostIn = s.hostIn := rfl
@[simp] theorem modJob_peersIn (j : Nat) (f : Job → Job) : (s.modJob j f).peersIn = s.peersIn := rfl
@[simp] theorem modJob_mgmtIn (j : Nat) (f : Job → Job) : (s.modJob j f).mgmtIn = s.mgmtIn := rfl
@[simp] theorem modJob_padBits (j : Nat) (f : Job → Job) : (s.modJob j f).padBits = s.padBits := rfl
@[simp] theorem modJob_errorsIn (j : Nat) (f : Job → Job) : (s.modJob j f).errorsIn = s.errorsIn := rfl
@[simp] theorem modJob_uid (j : Nat) (f : Job → Job) : (s.modJob j f).uid = s.uid := rfl
@[simp] theorem modJob_free (j : Nat) (f : Job → Job) : (s.modJob j f).free = s.free := rfl
@[simp] theorem modJob_script (j : Nat) (f : Job → Job) : (s.modJob j f).script = s.script := rfl
@[simp] theorem modJob_elapse (j : Nat) (f : Job → Job) : (s.modJob j f).elapse = s.elapse := rfl
@[simp] theorem modJob_cur (j : Nat) (f : Job → Job) : (s.modJob j f).cur = s.cur := rfl

@[simp] theorem writeMem_ctxs (pa n x : Nat) : (s.writeMem pa n x).ctxs = s.ctxs := rfl
@[simp] theorem writeMem_cores (pa n x : Nat) : (s.writeMem pa n x).cores = s.cores := rfl
@[simp] theorem writeMem_mem (pa n x : Nat) : (s.writeMem pa n x).mem = Memory.write s.mem pa (natToBytes n x) := rfl
@[simp] theorem writeMem_homes (pa n x : Nat) : (s.writeMem pa n x).homes = s.homes := rfl
@[simp] theorem writeMem_dieTlb (pa n x : Nat) : (s.writeMem pa n x).dieTlb = s.dieTlb := rfl
@[simp] theorem writeMem_recCache (pa n x : Nat) : (s.writeMem pa n x).recCache = s.recCache := rfl
@[simp] theorem writeMem_transfers (pa n x : Nat) : (s.writeMem pa n x).transfers = s.transfers := rfl
@[simp] theorem writeMem_pred (pa n x : Nat) : (s.writeMem pa n x).pred = s.pred := rfl
@[simp] theorem writeMem_jobs (pa n x : Nat) : (s.writeMem pa n x).jobs = s.jobs := rfl
@[simp] theorem writeMem_hall (pa n x : Nat) : (s.writeMem pa n x).hall = s.hall := rfl
@[simp] theorem writeMem_hub (pa n x : Nat) : (s.writeMem pa n x).hub = s.hub := rfl
@[simp] theorem writeMem_mgmt (pa n x : Nat) : (s.writeMem pa n x).mgmt = s.mgmt := rfl
@[simp] theorem writeMem_tiers (pa n x : Nat) : (s.writeMem pa n x).tiers = s.tiers := rfl
@[simp] theorem writeMem_chans (pa n x : Nat) : (s.writeMem pa n x).chans = s.chans := rfl
@[simp] theorem writeMem_pos (pa n x : Nat) : (s.writeMem pa n x).pos = s.pos := rfl
@[simp] theorem writeMem_fabricOut (pa n x : Nat) : (s.writeMem pa n x).fabricOut = s.fabricOut := rfl
@[simp] theorem writeMem_hostOut (pa n x : Nat) : (s.writeMem pa n x).hostOut = s.hostOut := rfl
@[simp] theorem writeMem_hostIn (pa n x : Nat) : (s.writeMem pa n x).hostIn = s.hostIn := rfl
@[simp] theorem writeMem_peersIn (pa n x : Nat) : (s.writeMem pa n x).peersIn = s.peersIn := rfl
@[simp] theorem writeMem_mgmtIn (pa n x : Nat) : (s.writeMem pa n x).mgmtIn = s.mgmtIn := rfl
@[simp] theorem writeMem_padBits (pa n x : Nat) : (s.writeMem pa n x).padBits = s.padBits := rfl
@[simp] theorem writeMem_errorsIn (pa n x : Nat) : (s.writeMem pa n x).errorsIn = s.errorsIn := rfl
@[simp] theorem writeMem_uid (pa n x : Nat) : (s.writeMem pa n x).uid = s.uid := rfl
@[simp] theorem writeMem_free (pa n x : Nat) : (s.writeMem pa n x).free = s.free := rfl
@[simp] theorem writeMem_script (pa n x : Nat) : (s.writeMem pa n x).script = s.script := rfl
@[simp] theorem writeMem_elapse (pa n x : Nat) : (s.writeMem pa n x).elapse = s.elapse := rfl
@[simp] theorem writeMem_cur (pa n x : Nat) : (s.writeMem pa n x).cur = s.cur := rfl

@[simp] theorem modHomes_ctxs (f : Homes → Homes) : (s.modHomes f).ctxs = s.ctxs := rfl
@[simp] theorem modHomes_cores (f : Homes → Homes) : (s.modHomes f).cores = s.cores := rfl
@[simp] theorem modHomes_mem (f : Homes → Homes) : (s.modHomes f).mem = s.mem := rfl
@[simp] theorem modHomes_homes (f : Homes → Homes) : (s.modHomes f).homes = f s.homes := rfl
@[simp] theorem modHomes_dieTlb (f : Homes → Homes) : (s.modHomes f).dieTlb = s.dieTlb := rfl
@[simp] theorem modHomes_recCache (f : Homes → Homes) : (s.modHomes f).recCache = s.recCache := rfl
@[simp] theorem modHomes_transfers (f : Homes → Homes) : (s.modHomes f).transfers = s.transfers := rfl
@[simp] theorem modHomes_pred (f : Homes → Homes) : (s.modHomes f).pred = s.pred := rfl
@[simp] theorem modHomes_jobs (f : Homes → Homes) : (s.modHomes f).jobs = s.jobs := rfl
@[simp] theorem modHomes_hall (f : Homes → Homes) : (s.modHomes f).hall = s.hall := rfl
@[simp] theorem modHomes_hub (f : Homes → Homes) : (s.modHomes f).hub = s.hub := rfl
@[simp] theorem modHomes_mgmt (f : Homes → Homes) : (s.modHomes f).mgmt = s.mgmt := rfl
@[simp] theorem modHomes_tiers (f : Homes → Homes) : (s.modHomes f).tiers = s.tiers := rfl
@[simp] theorem modHomes_chans (f : Homes → Homes) : (s.modHomes f).chans = s.chans := rfl
@[simp] theorem modHomes_pos (f : Homes → Homes) : (s.modHomes f).pos = s.pos := rfl
@[simp] theorem modHomes_fabricOut (f : Homes → Homes) : (s.modHomes f).fabricOut = s.fabricOut := rfl
@[simp] theorem modHomes_hostOut (f : Homes → Homes) : (s.modHomes f).hostOut = s.hostOut := rfl
@[simp] theorem modHomes_hostIn (f : Homes → Homes) : (s.modHomes f).hostIn = s.hostIn := rfl
@[simp] theorem modHomes_peersIn (f : Homes → Homes) : (s.modHomes f).peersIn = s.peersIn := rfl
@[simp] theorem modHomes_mgmtIn (f : Homes → Homes) : (s.modHomes f).mgmtIn = s.mgmtIn := rfl
@[simp] theorem modHomes_padBits (f : Homes → Homes) : (s.modHomes f).padBits = s.padBits := rfl
@[simp] theorem modHomes_errorsIn (f : Homes → Homes) : (s.modHomes f).errorsIn = s.errorsIn := rfl
@[simp] theorem modHomes_uid (f : Homes → Homes) : (s.modHomes f).uid = s.uid := rfl
@[simp] theorem modHomes_free (f : Homes → Homes) : (s.modHomes f).free = s.free := rfl
@[simp] theorem modHomes_script (f : Homes → Homes) : (s.modHomes f).script = s.script := rfl
@[simp] theorem modHomes_elapse (f : Homes → Homes) : (s.modHomes f).elapse = s.elapse := rfl
@[simp] theorem modHomes_cur (f : Homes → Homes) : (s.modHomes f).cur = s.cur := rfl

@[simp] theorem modHub_ctxs (f : Hub → Hub) : (s.modHub f).ctxs = s.ctxs := rfl
@[simp] theorem modHub_cores (f : Hub → Hub) : (s.modHub f).cores = s.cores := rfl
@[simp] theorem modHub_mem (f : Hub → Hub) : (s.modHub f).mem = s.mem := rfl
@[simp] theorem modHub_homes (f : Hub → Hub) : (s.modHub f).homes = s.homes := rfl
@[simp] theorem modHub_dieTlb (f : Hub → Hub) : (s.modHub f).dieTlb = s.dieTlb := rfl
@[simp] theorem modHub_recCache (f : Hub → Hub) : (s.modHub f).recCache = s.recCache := rfl
@[simp] theorem modHub_transfers (f : Hub → Hub) : (s.modHub f).transfers = s.transfers := rfl
@[simp] theorem modHub_pred (f : Hub → Hub) : (s.modHub f).pred = s.pred := rfl
@[simp] theorem modHub_jobs (f : Hub → Hub) : (s.modHub f).jobs = s.jobs := rfl
@[simp] theorem modHub_hall (f : Hub → Hub) : (s.modHub f).hall = s.hall := rfl
@[simp] theorem modHub_hub (f : Hub → Hub) : (s.modHub f).hub = f s.hub := rfl
@[simp] theorem modHub_mgmt (f : Hub → Hub) : (s.modHub f).mgmt = s.mgmt := rfl
@[simp] theorem modHub_tiers (f : Hub → Hub) : (s.modHub f).tiers = s.tiers := rfl
@[simp] theorem modHub_chans (f : Hub → Hub) : (s.modHub f).chans = s.chans := rfl
@[simp] theorem modHub_pos (f : Hub → Hub) : (s.modHub f).pos = s.pos := rfl
@[simp] theorem modHub_fabricOut (f : Hub → Hub) : (s.modHub f).fabricOut = s.fabricOut := rfl
@[simp] theorem modHub_hostOut (f : Hub → Hub) : (s.modHub f).hostOut = s.hostOut := rfl
@[simp] theorem modHub_hostIn (f : Hub → Hub) : (s.modHub f).hostIn = s.hostIn := rfl
@[simp] theorem modHub_peersIn (f : Hub → Hub) : (s.modHub f).peersIn = s.peersIn := rfl
@[simp] theorem modHub_mgmtIn (f : Hub → Hub) : (s.modHub f).mgmtIn = s.mgmtIn := rfl
@[simp] theorem modHub_padBits (f : Hub → Hub) : (s.modHub f).padBits = s.padBits := rfl
@[simp] theorem modHub_errorsIn (f : Hub → Hub) : (s.modHub f).errorsIn = s.errorsIn := rfl
@[simp] theorem modHub_uid (f : Hub → Hub) : (s.modHub f).uid = s.uid := rfl
@[simp] theorem modHub_free (f : Hub → Hub) : (s.modHub f).free = s.free := rfl
@[simp] theorem modHub_script (f : Hub → Hub) : (s.modHub f).script = s.script := rfl
@[simp] theorem modHub_elapse (f : Hub → Hub) : (s.modHub f).elapse = s.elapse := rfl
@[simp] theorem modHub_cur (f : Hub → Hub) : (s.modHub f).cur = s.cur := rfl

@[simp] theorem modMgmt_ctxs (f : Management → Management) : (s.modMgmt f).ctxs = s.ctxs := rfl
@[simp] theorem modMgmt_cores (f : Management → Management) : (s.modMgmt f).cores = s.cores := rfl
@[simp] theorem modMgmt_mem (f : Management → Management) : (s.modMgmt f).mem = s.mem := rfl
@[simp] theorem modMgmt_homes (f : Management → Management) : (s.modMgmt f).homes = s.homes := rfl
@[simp] theorem modMgmt_dieTlb (f : Management → Management) : (s.modMgmt f).dieTlb = s.dieTlb := rfl
@[simp] theorem modMgmt_recCache (f : Management → Management) : (s.modMgmt f).recCache = s.recCache := rfl
@[simp] theorem modMgmt_transfers (f : Management → Management) : (s.modMgmt f).transfers = s.transfers := rfl
@[simp] theorem modMgmt_pred (f : Management → Management) : (s.modMgmt f).pred = s.pred := rfl
@[simp] theorem modMgmt_jobs (f : Management → Management) : (s.modMgmt f).jobs = s.jobs := rfl
@[simp] theorem modMgmt_hall (f : Management → Management) : (s.modMgmt f).hall = s.hall := rfl
@[simp] theorem modMgmt_hub (f : Management → Management) : (s.modMgmt f).hub = s.hub := rfl
@[simp] theorem modMgmt_mgmt (f : Management → Management) : (s.modMgmt f).mgmt = f s.mgmt := rfl
@[simp] theorem modMgmt_tiers (f : Management → Management) : (s.modMgmt f).tiers = s.tiers := rfl
@[simp] theorem modMgmt_chans (f : Management → Management) : (s.modMgmt f).chans = s.chans := rfl
@[simp] theorem modMgmt_pos (f : Management → Management) : (s.modMgmt f).pos = s.pos := rfl
@[simp] theorem modMgmt_fabricOut (f : Management → Management) : (s.modMgmt f).fabricOut = s.fabricOut := rfl
@[simp] theorem modMgmt_hostOut (f : Management → Management) : (s.modMgmt f).hostOut = s.hostOut := rfl
@[simp] theorem modMgmt_hostIn (f : Management → Management) : (s.modMgmt f).hostIn = s.hostIn := rfl
@[simp] theorem modMgmt_peersIn (f : Management → Management) : (s.modMgmt f).peersIn = s.peersIn := rfl
@[simp] theorem modMgmt_mgmtIn (f : Management → Management) : (s.modMgmt f).mgmtIn = s.mgmtIn := rfl
@[simp] theorem modMgmt_padBits (f : Management → Management) : (s.modMgmt f).padBits = s.padBits := rfl
@[simp] theorem modMgmt_errorsIn (f : Management → Management) : (s.modMgmt f).errorsIn = s.errorsIn := rfl
@[simp] theorem modMgmt_uid (f : Management → Management) : (s.modMgmt f).uid = s.uid := rfl
@[simp] theorem modMgmt_free (f : Management → Management) : (s.modMgmt f).free = s.free := rfl
@[simp] theorem modMgmt_script (f : Management → Management) : (s.modMgmt f).script = s.script := rfl
@[simp] theorem modMgmt_elapse (f : Management → Management) : (s.modMgmt f).elapse = s.elapse := rfl
@[simp] theorem modMgmt_cur (f : Management → Management) : (s.modMgmt f).cur = s.cur := rfl

@[simp] theorem modHall_ctxs (f : Hallmarks → Hallmarks) : (s.modHall f).ctxs = s.ctxs := rfl
@[simp] theorem modHall_cores (f : Hallmarks → Hallmarks) : (s.modHall f).cores = s.cores := rfl
@[simp] theorem modHall_mem (f : Hallmarks → Hallmarks) : (s.modHall f).mem = s.mem := rfl
@[simp] theorem modHall_homes (f : Hallmarks → Hallmarks) : (s.modHall f).homes = s.homes := rfl
@[simp] theorem modHall_dieTlb (f : Hallmarks → Hallmarks) : (s.modHall f).dieTlb = s.dieTlb := rfl
@[simp] theorem modHall_recCache (f : Hallmarks → Hallmarks) : (s.modHall f).recCache = s.recCache := rfl
@[simp] theorem modHall_transfers (f : Hallmarks → Hallmarks) : (s.modHall f).transfers = s.transfers := rfl
@[simp] theorem modHall_pred (f : Hallmarks → Hallmarks) : (s.modHall f).pred = s.pred := rfl
@[simp] theorem modHall_jobs (f : Hallmarks → Hallmarks) : (s.modHall f).jobs = s.jobs := rfl
@[simp] theorem modHall_hall (f : Hallmarks → Hallmarks) : (s.modHall f).hall = f s.hall := rfl
@[simp] theorem modHall_hub (f : Hallmarks → Hallmarks) : (s.modHall f).hub = s.hub := rfl
@[simp] theorem modHall_mgmt (f : Hallmarks → Hallmarks) : (s.modHall f).mgmt = s.mgmt := rfl
@[simp] theorem modHall_tiers (f : Hallmarks → Hallmarks) : (s.modHall f).tiers = s.tiers := rfl
@[simp] theorem modHall_chans (f : Hallmarks → Hallmarks) : (s.modHall f).chans = s.chans := rfl
@[simp] theorem modHall_pos (f : Hallmarks → Hallmarks) : (s.modHall f).pos = s.pos := rfl
@[simp] theorem modHall_fabricOut (f : Hallmarks → Hallmarks) : (s.modHall f).fabricOut = s.fabricOut := rfl
@[simp] theorem modHall_hostOut (f : Hallmarks → Hallmarks) : (s.modHall f).hostOut = s.hostOut := rfl
@[simp] theorem modHall_hostIn (f : Hallmarks → Hallmarks) : (s.modHall f).hostIn = s.hostIn := rfl
@[simp] theorem modHall_peersIn (f : Hallmarks → Hallmarks) : (s.modHall f).peersIn = s.peersIn := rfl
@[simp] theorem modHall_mgmtIn (f : Hallmarks → Hallmarks) : (s.modHall f).mgmtIn = s.mgmtIn := rfl
@[simp] theorem modHall_padBits (f : Hallmarks → Hallmarks) : (s.modHall f).padBits = s.padBits := rfl
@[simp] theorem modHall_errorsIn (f : Hallmarks → Hallmarks) : (s.modHall f).errorsIn = s.errorsIn := rfl
@[simp] theorem modHall_uid (f : Hallmarks → Hallmarks) : (s.modHall f).uid = s.uid := rfl
@[simp] theorem modHall_free (f : Hallmarks → Hallmarks) : (s.modHall f).free = s.free := rfl
@[simp] theorem modHall_script (f : Hallmarks → Hallmarks) : (s.modHall f).script = s.script := rfl
@[simp] theorem modHall_elapse (f : Hallmarks → Hallmarks) : (s.modHall f).elapse = s.elapse := rfl
@[simp] theorem modHall_cur (f : Hallmarks → Hallmarks) : (s.modHall f).cur = s.cur := rfl

@[simp] theorem modTiers_ctxs (f : Tiers → Tiers) : (s.modTiers f).ctxs = s.ctxs := rfl
@[simp] theorem modTiers_cores (f : Tiers → Tiers) : (s.modTiers f).cores = s.cores := rfl
@[simp] theorem modTiers_mem (f : Tiers → Tiers) : (s.modTiers f).mem = s.mem := rfl
@[simp] theorem modTiers_homes (f : Tiers → Tiers) : (s.modTiers f).homes = s.homes := rfl
@[simp] theorem modTiers_dieTlb (f : Tiers → Tiers) : (s.modTiers f).dieTlb = s.dieTlb := rfl
@[simp] theorem modTiers_recCache (f : Tiers → Tiers) : (s.modTiers f).recCache = s.recCache := rfl
@[simp] theorem modTiers_transfers (f : Tiers → Tiers) : (s.modTiers f).transfers = s.transfers := rfl
@[simp] theorem modTiers_pred (f : Tiers → Tiers) : (s.modTiers f).pred = s.pred := rfl
@[simp] theorem modTiers_jobs (f : Tiers → Tiers) : (s.modTiers f).jobs = s.jobs := rfl
@[simp] theorem modTiers_hall (f : Tiers → Tiers) : (s.modTiers f).hall = s.hall := rfl
@[simp] theorem modTiers_hub (f : Tiers → Tiers) : (s.modTiers f).hub = s.hub := rfl
@[simp] theorem modTiers_mgmt (f : Tiers → Tiers) : (s.modTiers f).mgmt = s.mgmt := rfl
@[simp] theorem modTiers_tiers (f : Tiers → Tiers) : (s.modTiers f).tiers = f s.tiers := rfl
@[simp] theorem modTiers_chans (f : Tiers → Tiers) : (s.modTiers f).chans = s.chans := rfl
@[simp] theorem modTiers_pos (f : Tiers → Tiers) : (s.modTiers f).pos = s.pos := rfl
@[simp] theorem modTiers_fabricOut (f : Tiers → Tiers) : (s.modTiers f).fabricOut = s.fabricOut := rfl
@[simp] theorem modTiers_hostOut (f : Tiers → Tiers) : (s.modTiers f).hostOut = s.hostOut := rfl
@[simp] theorem modTiers_hostIn (f : Tiers → Tiers) : (s.modTiers f).hostIn = s.hostIn := rfl
@[simp] theorem modTiers_peersIn (f : Tiers → Tiers) : (s.modTiers f).peersIn = s.peersIn := rfl
@[simp] theorem modTiers_mgmtIn (f : Tiers → Tiers) : (s.modTiers f).mgmtIn = s.mgmtIn := rfl
@[simp] theorem modTiers_padBits (f : Tiers → Tiers) : (s.modTiers f).padBits = s.padBits := rfl
@[simp] theorem modTiers_errorsIn (f : Tiers → Tiers) : (s.modTiers f).errorsIn = s.errorsIn := rfl
@[simp] theorem modTiers_uid (f : Tiers → Tiers) : (s.modTiers f).uid = s.uid := rfl
@[simp] theorem modTiers_free (f : Tiers → Tiers) : (s.modTiers f).free = s.free := rfl
@[simp] theorem modTiers_script (f : Tiers → Tiers) : (s.modTiers f).script = s.script := rfl
@[simp] theorem modTiers_elapse (f : Tiers → Tiers) : (s.modTiers f).elapse = s.elapse := rfl
@[simp] theorem modTiers_cur (f : Tiers → Tiers) : (s.modTiers f).cur = s.cur := rfl

@[simp] theorem fresh_ctxs : s.fresh.2.ctxs = s.ctxs := rfl
@[simp] theorem fresh_cores : s.fresh.2.cores = s.cores := rfl
@[simp] theorem fresh_mem : s.fresh.2.mem = s.mem := rfl
@[simp] theorem fresh_homes : s.fresh.2.homes = s.homes := rfl
@[simp] theorem fresh_dieTlb : s.fresh.2.dieTlb = s.dieTlb := rfl
@[simp] theorem fresh_recCache : s.fresh.2.recCache = s.recCache := rfl
@[simp] theorem fresh_transfers : s.fresh.2.transfers = s.transfers := rfl
@[simp] theorem fresh_pred : s.fresh.2.pred = s.pred := rfl
@[simp] theorem fresh_jobs : s.fresh.2.jobs = s.jobs := rfl
@[simp] theorem fresh_hall : s.fresh.2.hall = s.hall := rfl
@[simp] theorem fresh_hub : s.fresh.2.hub = s.hub := rfl
@[simp] theorem fresh_mgmt : s.fresh.2.mgmt = s.mgmt := rfl
@[simp] theorem fresh_tiers : s.fresh.2.tiers = s.tiers := rfl
@[simp] theorem fresh_chans : s.fresh.2.chans = s.chans := rfl
@[simp] theorem fresh_pos : s.fresh.2.pos = s.pos := rfl
@[simp] theorem fresh_fabricOut : s.fresh.2.fabricOut = s.fabricOut := rfl
@[simp] theorem fresh_hostOut : s.fresh.2.hostOut = s.hostOut := rfl
@[simp] theorem fresh_hostIn : s.fresh.2.hostIn = s.hostIn := rfl
@[simp] theorem fresh_peersIn : s.fresh.2.peersIn = s.peersIn := rfl
@[simp] theorem fresh_mgmtIn : s.fresh.2.mgmtIn = s.mgmtIn := rfl
@[simp] theorem fresh_padBits : s.fresh.2.padBits = s.padBits := rfl
@[simp] theorem fresh_errorsIn : s.fresh.2.errorsIn = s.errorsIn := rfl
@[simp] theorem fresh_uid : s.fresh.2.uid = s.uid + 1 := rfl
@[simp] theorem fresh_fst : s.fresh.1 = s.uid := rfl
@[simp] theorem fresh_free : s.fresh.2.free = s.free := rfl
@[simp] theorem fresh_script : s.fresh.2.script = s.script := rfl
@[simp] theorem fresh_elapse : s.fresh.2.elapse = s.elapse := rfl
@[simp] theorem fresh_cur : s.fresh.2.cur = s.cur := rfl

@[simp] theorem setCtx_ctx_self (c : Nat) (x : Ctx) : (s.setCtx c x).ctx c = x := by simp [ctx]
theorem setCtx_ctx_ne {c d : Nat} (x : Ctx) (h : d ≠ c) : (s.setCtx c x).ctx d = s.ctx d := by
  simp [ctx, Table.get_set_ne _ _ _ h]
@[simp] theorem modCtx_ctx_self (c : Nat) (f : Ctx → Ctx) : (s.modCtx c f).ctx c = f (s.ctx c) := by simp [modCtx]
theorem modCtx_ctx_ne {c d : Nat} (f : Ctx → Ctx) (h : d ≠ c) : (s.modCtx c f).ctx d = s.ctx d := setCtx_ctx_ne s _ h
@[simp] theorem modArch_ctx_self (c : Nat) (f : Arch → Arch) :
    (s.modArch c f).ctx c = { s.ctx c with arch := f (s.ctx c).arch } := by simp [modArch]
theorem modArch_ctx_ne {c d : Nat} (f : Arch → Arch) (h : d ≠ c) : (s.modArch c f).ctx d = s.ctx d := setCtx_ctx_ne s _ h
@[simp] theorem modCore_core_self (k : Nat) (f : Core → Core) : (s.modCore k f).core k = f (s.core k) := by simp [core]
theorem modCore_core_ne {k j : Nat} (f : Core → Core) (h : j ≠ k) : (s.modCore k f).core j = s.core j := by
  simp [core, Table.get_set_ne _ _ _ h]
@[simp] theorem modJob_job_self (j : Nat) (f : Job → Job) : (s.modJob j f).job j = f (s.job j) := by simp [job]
theorem modJob_job_ne {j i : Nat} (f : Job → Job) (h : i ≠ j) : (s.modJob j f).job i = s.job i := by
  simp [job, Table.get_set_ne _ _ _ h]

@[simp] theorem setCtx_core (c : Nat) (x : Ctx) (k : Nat) : (s.setCtx c x).core k = s.core k := rfl
@[simp] theorem setCtx_job (c : Nat) (x : Ctx) (j : Nat) : (s.setCtx c x).job j = s.job j := rfl
@[simp] theorem modCtx_core (c : Nat) (f : Ctx → Ctx) (k : Nat) : (s.modCtx c f).core k = s.core k := rfl
@[simp] theorem modCtx_job (c : Nat) (f : Ctx → Ctx) (j : Nat) : (s.modCtx c f).job j = s.job j := rfl
@[simp] theorem modArch_core (c : Nat) (f : Arch → Arch) (k : Nat) : (s.modArch c f).core k = s.core k := rfl
@[simp] theorem modArch_job (c : Nat) (f : Arch → Arch) (j : Nat) : (s.modArch c f).job j = s.job j := rfl
@[simp] theorem modCore_ctx (k : Nat) (f : Core → Core) (c : Nat) : (s.modCore k f).ctx c = s.ctx c := rfl
@[simp] theorem modCore_job (k : Nat) (f : Core → Core) (j : Nat) : (s.modCore k f).job j = s.job j := rfl
@[simp] theorem modJob_ctx (j : Nat) (f : Job → Job) (c : Nat) : (s.modJob j f).ctx c = s.ctx c := rfl
@[simp] theorem modJob_core (j : Nat) (f : Job → Job) (k : Nat) : (s.modJob j f).core k = s.core k := rfl
@[simp] theorem writeMem_ctx (pa n x : Nat) (c : Nat) : (s.writeMem pa n x).ctx c = s.ctx c := rfl
@[simp] theorem writeMem_core (pa n x : Nat) (k : Nat) : (s.writeMem pa n x).core k = s.core k := rfl
@[simp] theorem writeMem_job (pa n x : Nat) (j : Nat) : (s.writeMem pa n x).job j = s.job j := rfl
@[simp] theorem modHomes_ctx (f : Homes → Homes) (c : Nat) : (s.modHomes f).ctx c = s.ctx c := rfl
@[simp] theorem modHomes_core (f : Homes → Homes) (k : Nat) : (s.modHomes f).core k = s.core k := rfl
@[simp] theorem modHomes_job (f : Homes → Homes) (j : Nat) : (s.modHomes f).job j = s.job j := rfl
@[simp] theorem modHub_ctx (f : Hub → Hub) (c : Nat) : (s.modHub f).ctx c = s.ctx c := rfl
@[simp] theorem modHub_core (f : Hub → Hub) (k : Nat) : (s.modHub f).core k = s.core k := rfl
@[simp] theorem modHub_job (f : Hub → Hub) (j : Nat) : (s.modHub f).job j = s.job j := rfl
@[simp] theorem modMgmt_ctx (f : Management → Management) (c : Nat) : (s.modMgmt f).ctx c = s.ctx c := rfl
@[simp] theorem modMgmt_core (f : Management → Management) (k : Nat) : (s.modMgmt f).core k = s.core k := rfl
@[simp] theorem modMgmt_job (f : Management → Management) (j : Nat) : (s.modMgmt f).job j = s.job j := rfl
@[simp] theorem modHall_ctx (f : Hallmarks → Hallmarks) (c : Nat) : (s.modHall f).ctx c = s.ctx c := rfl
@[simp] theorem modHall_core (f : Hallmarks → Hallmarks) (k : Nat) : (s.modHall f).core k = s.core k := rfl
@[simp] theorem modHall_job (f : Hallmarks → Hallmarks) (j : Nat) : (s.modHall f).job j = s.job j := rfl
@[simp] theorem modTiers_ctx (f : Tiers → Tiers) (c : Nat) : (s.modTiers f).ctx c = s.ctx c := rfl
@[simp] theorem modTiers_core (f : Tiers → Tiers) (k : Nat) : (s.modTiers f).core k = s.core k := rfl
@[simp] theorem modTiers_job (f : Tiers → Tiers) (j : Nat) : (s.modTiers f).job j = s.job j := rfl

end State

end Sys2Proof.Machine
end

