-- ==== Sys2Proof/Laws/Memory.lean ====
section
/-! SUPPORT. Memory keeps its canonical form under every operation, and reads after writes. -/
namespace Sys2Proof.Machine

namespace Memory

/-- A memory whose cells stand at `lo` or above is canonical from any lower bound. -/
theorem wfFrom_mono {lo lo' : Nat} (h : lo' ≤ lo) : {m : List Host.Cell} → wfFrom lo m = true → wfFrom lo' m = true
  | [], _ => rfl
  | (a, b) :: r, w => by
    simp only [wfFrom, Bool.and_eq_true, decide_eq_true_eq] at w ⊢
    exact ⟨⟨by omega, w.1.2⟩, w.2⟩

theorem wfFrom_set (k : Nat) (x : Byte) : (m : List Host.Cell) → (lo : Nat) → lo ≤ k → wfFrom lo m = true →
    wfFrom lo (set m k x) = true
  | [], lo, h, _ => by
    unfold set
    split
    · rfl
    · rename_i hx
      simp [wfFrom, hx, h]
  | (a, b) :: r, lo, h, w => by
    simp only [wfFrom, Bool.and_eq_true, decide_eq_true_eq] at w
    unfold set
    split
    · split
      · simp [wfFrom, w]
      · rename_i hk hx
        have : wfFrom (a + 1) r = true := w.2
        simp only [wfFrom, Bool.and_eq_true, decide_eq_true_eq]
        exact ⟨⟨h, by simpa using hx⟩, ⟨by omega, w.1.2⟩, this⟩
    · split
      · rename_i hk he
        subst he
        split
        · exact wfFrom_mono (by omega) w.2
        · rename_i hx
          simp [wfFrom, h, hx, w.2]
      · rename_i hk he
        have := wfFrom_set k x r (a + 1) (by omega) w.2
        simp [wfFrom, w.1, this]

theorem wf_set {m : List Host.Cell} (k : Nat) (x : Byte) (h : wf m = true) : wf (set m k x) = true :=
  wfFrom_set k x m 0 (Nat.zero_le _) h

theorem get_of_wfFrom_lt {k : Nat} : {m : List Host.Cell} → {lo : Nat} → k < lo → wfFrom lo m = true → get m k = unwritten
  | [], _, _, _ => rfl
  | (a, b) :: r, lo, h, w => by
    simp only [wfFrom, Bool.and_eq_true, decide_eq_true_eq] at w
    have : a ≠ k := by omega
    simp [get, this, get_of_wfFrom_lt (show k < a + 1 by omega) w.2]

theorem get_set_self (k : Nat) (x : Byte) : (m : List Host.Cell) → (lo : Nat) → wfFrom lo m = true → get (set m k x) k = x
  | [], _, _ => by
    unfold set
    split <;> simp_all [get]
  | (a, b) :: r, lo, w => by
    simp only [wfFrom, Bool.and_eq_true, decide_eq_true_eq] at w
    unfold set
    split
    · rename_i hk
      split
      · rename_i hx
        have : a ≠ k := by omega
        simp [get, this, get_of_wfFrom_lt (by omega : k < a + 1) w.2, hx]
      · simp [get]
    · split
      · rename_i hk he
        subst he
        split
        · rename_i hx
          simp [get_of_wfFrom_lt (by omega : k < k + 1) w.2, hx]
        · simp [get]
      · rename_i hk he
        simp [get, Ne.symm he, get_set_self k x r (a + 1) w.2]

theorem get_set_ne {j k : Nat} (x : Byte) (h : j ≠ k) : (m : List Host.Cell) → get (set m k x) j = get m j
  | [] => by
    unfold set
    split <;> simp [get, Ne.symm h]
  | (a, b) :: r => by
    unfold set
    split
    · split <;> simp [get, Ne.symm h]
    · split
      · rename_i he
        subst he
        split <;> simp [get, Ne.symm h]
      · by_cases e : a = j <;> simp [get, e, get_set_ne x h r]

theorem wfFrom_below (k : Nat) : (m : List Host.Cell) → (lo : Nat) → wfFrom lo m = true → wfFrom lo (below m k) = true
  | [], _, _ => rfl
  | (a, b) :: r, lo, w => by
    simp only [wfFrom, Bool.and_eq_true, decide_eq_true_eq] at w
    unfold below
    split
    · simp [wfFrom, w.1, wfFrom_below k r (a + 1) w.2]
    · rfl

theorem wfFrom_above (k : Nat) : (m : List Host.Cell) → (lo : Nat) → wfFrom lo m = true → wfFrom (max lo k) (above m k) = true
  | [], _, _ => rfl
  | (a, b) :: r, lo, w => by
    have w' := w
    simp only [wfFrom, Bool.and_eq_true, decide_eq_true_eq] at w
    unfold above
    split
    · exact wfFrom_mono (by omega) (wfFrom_above k r (a + 1) w.2)
    · simp only [wfFrom, Bool.and_eq_true, decide_eq_true_eq]
      exact ⟨⟨by omega, w.1.2⟩, w.2⟩

theorem wfFrom_cells : (l : List Byte) → (a lo : Nat) → lo ≤ a → wfFrom lo (cells a l) = true
  | [], _, _, _ => rfl
  | b :: r, a, lo, h => by
    unfold cells
    split
    · exact wfFrom_cells r (a + 1) lo (by omega)
    · rename_i hb
      simp [wfFrom, h, hb, wfFrom_cells r (a + 1) (a + 1) (Nat.le_refl _)]

/-- All cells stand below an address. -/
def allBelow (m : List Host.Cell) (k : Nat) : Prop := ∀ c ∈ m, c.1 < k

theorem allBelow_below (k : Nat) : (m : List Host.Cell) → allBelow (below m k) k
  | [] => by simp [below, allBelow]
  | (a, b) :: r => by
    unfold below
    split
    · intro c hc
      rcases List.mem_cons.mp hc with rfl | hc
      · assumption
      · exact allBelow_below k r c hc
    · simp [allBelow]

theorem allBelow_cells : (l : List Byte) → (a : Nat) → allBelow (cells a l) (a + l.length)
  | [], _ => by simp [cells, allBelow]
  | b :: r, a => by
    have ih := allBelow_cells r (a + 1)
    unfold cells
    split
    · intro c hc
      have := ih c hc
      simp only [List.length_cons]
      omega
    · intro c hc
      rcases List.mem_cons.mp hc with rfl | hc
      · simp
      · have := ih c hc
        simp only [List.length_cons]
        omega

theorem wfFrom_append {k : Nat} : {m n : List Host.Cell} → {lo : Nat} → wfFrom lo m = true → allBelow m k → lo ≤ k →
    wfFrom k n = true → wfFrom lo (m ++ n) = true
  | [], n, lo, _, _, h, w => by
    simpa using wfFrom_mono h w
  | (a, b) :: r, n, lo, w, hb, h, wn => by
    simp only [wfFrom, Bool.and_eq_true, decide_eq_true_eq] at w
    have ha : a < k := hb (a, b) (by simp)
    simp only [List.cons_append, wfFrom, Bool.and_eq_true, decide_eq_true_eq]
    exact ⟨w.1, wfFrom_append w.2 (fun c hc => hb c (by simp [hc])) (by omega) wn⟩

theorem wf_write {m : List Host.Cell} (a : Nat) (l : List Byte) (h : wf m = true) : wf (write m a l) = true := by
  have h1 : wfFrom 0 (below m a) = true := wfFrom_below a m 0 h
  have h2 : wfFrom a (cells a l) = true := wfFrom_cells l a a (Nat.le_refl _)
  have h3 : wfFrom (a + l.length) (above m (a + l.length)) = true := by
    simpa using wfFrom_above (a + l.length) m 0 h
  have h4 : wfFrom 0 (below m a ++ cells a l) = true := wfFrom_append h1 (allBelow_below a m) (Nat.zero_le _) h2
  refine wfFrom_append (k := a + l.length) h4 ?_ (Nat.zero_le _) h3
  intro c hc
  rcases List.mem_append.mp hc with hc | hc
  · have := allBelow_below a m c hc
    omega
  · exact allBelow_cells l a c hc

theorem wf_clear {m : List Host.Cell} (a n : Nat) (h : wf m = true) : wf (clear m a n) = true := by
  have h3 : wfFrom (a + n) (above m (a + n)) = true := by simpa using wfFrom_above (a + n) m 0 h
  exact wfFrom_append (wfFrom_below a m 0 h) (allBelow_below a m) (Nat.zero_le _) (wfFrom_mono (by omega) h3)

theorem wf_writeCells : (l : List (Nat × Byte)) → {m : List Host.Cell} → wf m = true → wf (writeCells m l) = true
  | [], _, h => h
  | (a, b) :: r, _, h => wf_writeCells r (wf_set a b h)

theorem wf_writeBitsGo : (fuel : Nat) → {m : List Host.Cell} → (a n x : Nat) → wf m = true →
    wf (writeBitsGo m fuel a n x) = true
  | 0, _, _, _, _, h => h
  | fuel + 1, m, a, n, x, h => by
    unfold writeBitsGo
    split
    · exact h
    · exact wf_writeBitsGo fuel _ _ _ (wf_set _ _ h)

theorem wf_writeBits {m : List Host.Cell} (a n x : Nat) (h : wf m = true) : wf (writeBits m a n x) = true :=
  wf_writeBitsGo _ _ _ _ h

/-! ### Reading after writing -/

theorem get_append (k : Nat) : (m n : List Host.Cell) → (∀ c ∈ m, c.1 ≠ k) → get (m ++ n) k = get n k
  | [], _, _ => rfl
  | (a, b) :: r, n, h => by
    have ha : a ≠ k := h (a, b) (by simp)
    simp [get, ha, get_append k r n (fun c hc => h c (by simp [hc]))]

theorem get_append_left (k : Nat) : (m n : List Host.Cell) → (∀ c ∈ n, c.1 ≠ k) → get (m ++ n) k = get m k
  | [], n, h => by
    have := get_append k n [] h
    simpa [get] using this
  | (a, b) :: r, n, h => by
    by_cases e : a = k <;> simp [get, e, get_append_left k r n h]

theorem get_below {k a : Nat} : (m : List Host.Cell) → (lo : Nat) → wfFrom lo m = true → k < a → get (below m a) k = get m k
  | [], _, _, _ => rfl
  | (x, b) :: r, lo, w, h => by
    simp only [wfFrom, Bool.and_eq_true, decide_eq_true_eq] at w
    unfold below
    split
    · by_cases e : x = k <;> simp [get, e, get_below r (x + 1) w.2 h]
    · have hx : x ≠ k := by omega
      simp [get, hx, get_of_wfFrom_lt (by omega : k < x + 1) w.2]

theorem get_above {k a : Nat} : (m : List Host.Cell) → a ≤ k → get (above m a) k = get m k
  | [], _ => rfl
  | (x, b) :: r, h => by
    unfold above
    split
    · have hx : x ≠ k := by omega
      simp [get, hx, get_above r h]
    · rfl

theorem cells_ge : (l : List Byte) → (a : Nat) → ∀ c ∈ cells a l, a ≤ c.1
  | [], _, c, hc => by simp [cells] at hc
  | b :: r, a, c, hc => by
    unfold cells at hc
    split at hc
    · have := cells_ge r (a + 1) c hc
      omega
    · rcases List.mem_cons.mp hc with rfl | hc
      · simp
      · have := cells_ge r (a + 1) c hc
        omega

theorem get_cells (k : Nat) : (l : List Byte) → (a : Nat) → a ≤ k → get (cells a l) k = (l[k - a]?).getD unwritten
  | [], _, _ => rfl
  | b :: r, a, h => by
    unfold cells
    by_cases e : a = k
    · subst e
      split
      · rename_i hb
        have : ∀ c ∈ cells (a + 1) r, c.1 ≠ a := fun c hc => by
          have := cells_ge r (a + 1) c hc
          omega
        have h0 := get_append a (cells (a + 1) r) [] this
        simp only [List.append_nil] at h0
        simp [h0, get, hb]
      · simp [get]
    · have h1 : k - a = (k - (a + 1)) + 1 := by omega
      have ih := get_cells k r (a + 1) (by omega)
      rw [h1, List.getElem?_cons_succ]
      split
      · exact ih
      · simp [get, e, ih]

theorem above_ge (a : Nat) {m : List Host.Cell} (h : wf m = true) : ∀ c ∈ above m a, a ≤ c.1 := by
  have h3 : wfFrom a (above m a) = true := by simpa using wfFrom_above a m 0 h
  revert h3
  generalize above m a = n
  intro h3
  induction n generalizing a with
  | nil => simp
  | cons e r ih =>
    obtain ⟨x, b⟩ := e
    simp only [wfFrom, Bool.and_eq_true, decide_eq_true_eq] at h3
    intro c hc
    rcases List.mem_cons.mp hc with rfl | hc
    · exact h3.1.1
    · have := ih (x + 1) h3.2 c hc
      omega

/-- A byte inside the written range reads as written. -/
theorem get_write_in {m : List Host.Cell} {a k : Nat} {l : List Byte} (h : wf m = true) (h1 : a ≤ k) (h2 : k < a + l.length) :
    get (write m a l) k = (l[k - a]?).getD unwritten := by
  unfold write
  rw [List.append_assoc, get_append, get_append_left, get_cells k l a h1]
  · intro c hc
    have := above_ge _ h c hc
    omega
  · intro c hc
    have := allBelow_below a m c hc
    omega

/-- A byte outside the written range reads as before. -/
theorem get_write_out {m : List Host.Cell} {a k : Nat} {l : List Byte} (h : wf m = true) (h1 : k < a ∨ a + l.length ≤ k) :
    get (write m a l) k = get m k := by
  unfold write
  rcases h1 with h1 | h1
  · rw [get_append_left, get_append_left, get_below m 0 h h1]
    · intro c hc
      have := cells_ge l a c hc
      omega
    · intro c hc
      have := above_ge _ h c hc
      omega
  · rw [get_append, get_above m h1]
    intro c hc
    rcases List.mem_append.mp hc with hc | hc
    · have := allBelow_below a m c hc
      omega
    · have := allBelow_cells l a c hc
      omega

/-- Writing addressed bytes leaves every other byte alone. -/
theorem get_writeCells_out {k : Nat} : (l : List (Nat × Byte)) → (m : List Host.Cell) → (∀ c ∈ l, c.1 ≠ k) →
    get (writeCells m l) k = get m k
  | [], _, _ => rfl
  | (a, b) :: r, m, h => by
    have ha : k ≠ a := (h (a, b) (by simp)).symm
    rw [writeCells, get_writeCells_out r _ (fun c hc => h c (by simp [hc])), get_set_ne b ha m]

@[simp] theorem length_natToBytes : (n x : Nat) → (natToBytes n x).length = n
  | 0, _ => rfl
  | n + 1, x => by simp [natToBytes, length_natToBytes n]

end Memory

/-- The memory of the state is in canonical form. -/
theorem State.reset_wf : Memory.wf State.reset.mem = true := rfl

theorem State.writeMem_wf {s : State} (pa n x : Nat) (h : Memory.wf s.mem = true) : Memory.wf (s.writeMem pa n x).mem = true :=
  Memory.wf_write _ _ h

end Sys2Proof.Machine
end

