-- ==== Sys2Proof/Safety.lean ====
section
/-! DEFINITION. The terms in which claims about the module are made: when an operation may issue, what an issued bundle leaves, what a
trap leaves, and the invariant of the memory. -/
namespace Sys2Proof.Machine

/-! ### When an operation issues -/

/-- The current context runs the bead `b`, no freeze is being counted, and its buffers hold no more than R45 and R334 allow. -/
structure CanIssue (s : State) (b : Bead) : Prop where
  runs : (s.ctx s.cur).run = some b
  thawed : (s.ctx s.cur).freeze = none
  loads : ((s.ctx s.cur).arch.wtb.filter (·.load)).length ≤ Config.landingMax
  entries : (s.ctx s.cur).withheld.length ≤ Config.withholdMax

/-- No result of the operation lands in a register, predicate or latch at a context cycle at which an older write lands in it
(R53). -/
def NoCollision (a : Arch) (writes : List (Dest × Nat)) : Prop :=
  ∀ l ∈ a.wtb, ∀ w ∈ writes, collides w.1 = true → ¬(l.dest = w.1 ∧ l.due = w.2)

/-- In strict mode, no source of the operation has a write in flight (R52). -/
def NoEarlyRead (a : Arch) (reads : List Nat) : Prop :=
  a.cctl.getLsbD 0 = false ∨ ∀ l ∈ a.wtb, l.dest.code ∉ reads

/-- The writes of results that an operation starts at a context cycle. -/
def writesAt (cc : Nat) (l : List Result) : List (Dest × Nat) := l.map fun r => (r.dest, cc + r.lat)

/-- The write-timing buffer takes the results `l` of an operation that reads `reads`. -/
structure Fits (s : State) (reads : List Nat) (l : List Result) : Prop where
  apart : NoCollision (s.ctx s.cur).arch (writesAt (s.ctx s.cur).arch.cc l)
  early : NoEarlyRead (s.ctx s.cur).arch reads

/-- The context is not in the drain window of a `phase` (R250). -/
def NoDrain (x : Ctx) : Prop := ∀ a b, x.phaseWin = some (a, b) → x.arch.cc ≤ a ∨ b ≤ x.arch.cc

/-! ### What an issued bundle leaves -/

/-- The context after a bundle: pc, context cycle, and the marks of issue (R23, R40, R87).  `jump` is the target of a transfer
that the bundle has taken. -/
def nextBundle (jump : Option Nat) (x : Ctx) : Ctx :=
  { x with
    pc := (x.arch.target.getD (x.pc + 64)) % 2 ^ 64
    arch := { x.arch with cc := x.arch.cc + 1, target := if x.arch.target.isSome then none else jump }
    owed := none, granted := false, ready := 0, spent := x.spent + 1
    stopSkip := x.stopSkip.filter fun k => k.1 != x.pc }

/-- Performance counters of context `c` and their overflow messages are all in which `t` differs from `s` (R304 to R309, R374). -/
def Counted (c : Nat) (s t : State) : Prop :=
  (∃ pmcnt pmctl, t.ctx c = { s.ctx c with pmcnt := pmcnt, pmctl := pmctl }) ∧
  (∀ d, d ≠ c → t.ctx d = s.ctx d) ∧
  ∃ mail defer, t = { s with ctxs := t.ctxs, hub := { s.hub with mail := s.hub.mail ++ mail, pmDefer := defer } }

/-- `t` is what a bundle of context `c` leaves whose operations have turned the state into `s`: the context stands at its next bundle,
and nothing else differs but the performance counters. -/
def Ends (jump : Option Nat) (c : Nat) (s t : State) : Prop := Counted c (s.modCtx c (nextBundle jump)) t

/-- Results enter the write-timing buffer of context `c` (R43). -/
def land (s : State) (c : Nat) (k : Slot) (l : List Result) : State :=
  s.modArch c fun a => { a with wtb := a.wtb ++ l.map (landingOf s c k) }

/-- An operation of slot `k` that reads `reads` completes: its results enter the write-timing buffer, and the context stands at its
next bundle. -/
def Completes (i : Instr) (k : Slot) (reads : List Nat) (l : List Result) (s : State) : Prop :=
  Fits s reads l → ∃ t, exec i s = .next t ∧ Ends none s.cur (land s s.cur k l) t

/-! ### Invariants -/

/-- The memory of the module is in canonical form. -/
def MemoryInv (s : State) : Prop := Memory.wf s.mem = true

/-- A run of `n` steps is safe: no step of it faults or is refused. -/
def SafeFor (n : Nat) (s : State) : Prop := ∃ t, Host.Core.run Sys2Proof.core n s = .next t

end Sys2Proof.Machine
end

