-- ==== Sys2Proof/Laws/Issue.lean ====
section
/-! SUPPORT. What counting, ending a bundle and issuing an operation alone can do. -/
namespace Sys2Proof.Machine

/-! ### Counters -/

theorem Counted.refl (c : Nat) (s : State) : Counted c s s :=
  ⟨⟨_, _, rfl⟩, fun _ _ => rfl, [], s.hub.pmDefer, by simp⟩

theorem Counted.trans {c : Nat} {s t u : State} (h : Counted c s t) (g : Counted c t u) : Counted c s u := by
  obtain ⟨⟨p, q, hc⟩, hd, m, d, ht⟩ := h
  obtain ⟨⟨p', q', gc⟩, gd, m', d', gt⟩ := g
  refine ⟨⟨p', q', by rw [gc, hc]⟩, fun x hx => (gd x hx).trans (hd x hx), m ++ m', d', ?_⟩
  rw [gt, ht]
  simp

theorem sendMail_counted (c : Nat) (s : State) (m : Mail) : Counted c s (sendMail s m) :=
  ⟨⟨_, _, rfl⟩, fun _ _ => rfl, [m], s.hub.pmDefer, rfl⟩

theorem modCtx_counted (c : Nat) (s : State) (f : Ctx → Ctx) (pmcnt : Vector W64 8) (pmctl : W64)
    (h : f (s.ctx c) = { s.ctx c with pmcnt := pmcnt, pmctl := pmctl }) : Counted c s (s.modCtx c f) :=
  ⟨⟨pmcnt, pmctl, by simp [h]⟩, fun _ hd => State.modCtx_ctx_ne s f hd, [], s.hub.pmDefer, by
    simp [State.modCtx, State.setCtx]⟩

theorem countOne_counted (s : State) (c code n : Nat) (i : Fin 8) : Counted c s (countOne s c code n i) := by
  unfold countOne
  dsimp only
  split
  · exact Counted.refl c s
  · split
    · split
      · exact (modCtx_counted c s _ _ _ rfl).trans (sendMail_counted c _ _)
      · exact modCtx_counted c s _ _ _ rfl
    · exact Counted.refl c s

theorem foldl_counted {α : Type} (c : Nat) (f : State → α → State) (h : ∀ s x, Counted c s (f s x)) :
    (l : List α) → (s : State) → Counted c s (l.foldl f s)
  | [], s => Counted.refl c s
  | x :: r, s => (h s x).trans (foldl_counted c f h r (f s x))

theorem count_counted (s : State) (c code n : Nat) : Counted c s (count s c code n) := by
  unfold count
  split
  · exact Counted.refl c s
  · exact foldl_counted c _ (fun s i => countOne_counted s c code n i) _ s

theorem countDeferred_counted (s : State) (c : Nat) : Counted c s (countDeferred s c) := by
  unfold countDeferred
  split
  · exact Counted.refl c s
  · refine Counted.trans (t := s.modHub _) ?_ (foldl_counted c _ (fun s x => count_counted s c _ _) _ _)
    exact ⟨⟨_, _, rfl⟩, fun _ _ => rfl, [], _, by simp only [List.append_nil]; rfl⟩

/-! ### The end of a bundle -/

theorem finishBundle_ends (c : Nat) (h : Header) (ops : List Op) (s : State) (hl : h.lend = false) :
    Ends (firstSome (ops.map (·.jump))) c s (finishBundle c h ops s) := by
  unfold finishBundle
  have hc : ∀ s0 : State, Counted c s s0 → Ends (firstSome (ops.map (·.jump))) c s (s0.modCtx c fun x =>
      let (pc, a) := advance h (firstSome (ops.map (·.jump))) x.pc x.arch
      { x with
        pc := pc, arch := a, owed := none, granted := false, ready := 0, spent := x.spent + 1
        stopSkip := x.stopSkip.filter fun k => k.1 != x.pc }) := by
    rintro s0 ⟨⟨p, q, hx⟩, hd, m, d, ht⟩
    refine ⟨⟨p, q, ?_⟩, ?_, m, d, ?_⟩
    · rw [State.modCtx_ctx_self, State.modCtx_ctx_self, hx]
      simp only [advance, nextBundle, hl]
      cases (s.ctx c).arch.target <;> rfl
    · intro x hx
      rw [State.modCtx_ctx_ne _ _ hx, State.modCtx_ctx_ne _ _ hx, hd x hx]
    · rw [ht]
      rfl
  refine hc _ (((count_counted _ c _ _).trans (count_counted _ c _ _)).trans
    ((countDeferred_counted _ c).trans (foldl_counted c _ (fun s o => ?_) _ _)))
  split
  · exact count_counted _ _ _ _
  · exact Counted.refl c s

/-! ### When nothing forbids an operation -/

theorem thaw_thawed {tally : State → Nat → Nat → State} {r : Bool} {s : State} {c : Nat} (h : (s.ctx c).freeze = none) :
    thaw tally r s c = s := by
  unfold thaw
  simp only [h]
theorem endFreeze_thawed {s : State} {c : Nat} (h : (s.ctx c).freeze = none) : endFreeze s c = s := thaw_thawed h
theorem trapFreeze_thawed {s : State} {c : Nat} (h : (s.ctx c).freeze = none) : trapFreeze s c = s := thaw_thawed h

theorem trapIf_false (s : State) (c : Nat) (k : Slot) (code : TrapCode) (a : Nat) : trapIf false s c k code a = [] := rfl
theorem trapIf_true (s : State) (c : Nat) (k : Slot) (code : TrapCode) (a : Nat) :
    trapIf true s c k code a = [causeAt s c k code a] := rfl

theorem collision_false (old : List (Dest × Nat)) : (l : List (Dest × Nat)) → l.Pairwise (fun v w => collides w.1 = true → v ≠ w) →
    (∀ w ∈ l, collides w.1 = true → w ∉ old) → collision old l = false
  | [], _, _ => rfl
  | w :: r, hp, ho => by
    rw [List.pairwise_cons] at hp
    simp only [collision, Bool.or_eq_false_iff, Bool.and_eq_false_iff]
    refine ⟨?_, collision_false (w :: old) r hp.2 fun x hx hc hm => ?_⟩
    · by_cases hw : collides w.1 = true
      · exact .inr (by simpa using ho w (by simp) hw)
      · exact .inl (by simpa using hw)
    · rcases List.mem_cons.mp hm with rfl | hm
      · exact hp.1 x hx hc rfl
      · exact ho x (by simp [hx]) hc hm

/-- A single operation that is no transfer out of turn breaks no condition of the whole bundle. -/
theorem badBundle_single {x : Ctx} {h : Header} {o : Op} (hl : h.lend = false)
    (hj : x.arch.target.isSome = true → o.jump = none)
    (hv : o.leaves = true → h.ckpt = true ∧ x.arch.wtb = [] ∧ o.entries = 0 ∧ o.lands = [] ∧ o.loads = [])
    (he : (if h.ckpt then 0 else x.withheld.length) + o.entries ≤ 256)
    (hn : (x.arch.wtb.filter (·.load)).length + o.loads.length ≤ 64)
    (hc : collision (x.arch.wtb.map fun l => (l.dest, l.due)) (writesOf x.arch.cc [o]) = false)
    (hg : o.groups ≤ 6) (hr : NoEarlyRead x.arch o.reads) : badBundle x h [o] = false := by
  have hv' : o.leaves = false ∨ (h.ckpt = true ∧ x.arch.wtb = [] ∧ o.entries = 0 ∧ writesOf x.arch.cc [o] = []) := by
    by_cases e : o.leaves = true
    · obtain ⟨a, b, c, d, f⟩ := hv e
      exact .inr ⟨a, b, c, by simp [writesOf, d, f]⟩
    · exact .inl (by simpa using e)
  have hr' : (x.arch.cctl.getLsbD 0 && !h.early && x.arch.wtb.any fun l => o.reads.contains l.dest.code) = false := by
    rcases hr with hr | hr
    · rw [hr]
      rfl
    · have : (x.arch.wtb.any fun l => o.reads.contains l.dest.code) = false := by
        simpa using fun l hl => hr l hl
      rw [this, Bool.and_false]
  have hj' : x.arch.target = none ∨ o.jump = none := by
    cases ht : x.arch.target with
    | none => exact .inl rfl
    | some t => exact .inr (hj (by simp [ht]))
  unfold badBundle
  simp only [hl, hc, List.map_cons, List.map_nil, List.sum_cons, List.sum_nil, List.any_cons, List.any_nil, Nat.add_zero,
    Bool.and_false, Bool.false_and, Bool.or_false]
  have hq : ([o].filter (·.rq)).length ≤ 1 := by
    rw [List.filter_cons]
    split <;> simp
  have e1 : decide (256 < (if h.ckpt = true then 0 else x.withheld.length) + o.entries) = false := by
    simpa using he
  have e2 : decide (64 < (x.arch.wtb.filter (·.load)).length + o.loads.length) = false := by simpa using hn
  have e3 : decide (6 < o.groups) = false := by simpa using hg
  have e4 : decide (1 < ([o].filter (·.rq)).length) = false := by simpa using hq
  rw [e1, e2, e3, e4, hr']
  rcases hv' with hv' | ⟨a, b, c, d⟩
  · rcases hj' with hj' | hj' <;> simp [hj', hv']
  · rcases hj' with hj' | hj' <;> simp [hj', a, b, c, d]

theorem inDrain_false {x : Ctx} (h : NoDrain x) (o : Op) : inDrain x o = false := by
  unfold inDrain
  split
  · rename_i a b hb
    have := h a b hb
    have : (decide (a < x.arch.cc) && decide (x.arch.cc < b)) = false := by
      simp
      omega
    simp [this]
  · simp

/-- No trap at issue. -/
theorem issueTrap_none {c : Nat} {h : Header} {o : Op} {s : State} (ht : o.traps = []) (hk : o.needsCkpt = true → h.ckpt = true)
    (hd : inDrain (s.ctx c) o = false) (hb : badBundle (s.ctx c) h [o] = false) : issueTrap c h [o] s = none := by
  have : (o.needsCkpt && !h.ckpt) = false := by
    cases e : o.needsCkpt <;> simp [hk, e]
  simp only [issueTrap, List.flatMap_cons, List.flatMap_nil, ht, hd, hb, this, List.nil_append, List.append_nil, Bool.or_false,
    trapIf_false]
  rfl

/-- Outside a checkpoint bundle the slots meet the state as it is. -/
theorem metState_plain (c : Nat) (s : State) : metState c {} s = s := rfl

/-- An operation that nothing forbids issues, and its bundle ends (R23, R58). -/
theorem issueAlone_ends {i : Instr} {k : Slot} {f : OpFn} {s : State} {b : Bead} (hs : CanIssue s b)
    (hw : wellFormed i = true) (hh : loneHeader i = {}) (hq : (f s.cur s).waits = none)
    (ht : issueTrap s.cur {} [f s.cur s] s = none) (hl : (f s.cur s).leave = id) :
    ∃ t, issueAlone i k f s = .next t ∧ Ends (f s.cur s).jump s.cur (applyOp s.cur s (f s.cur s)) t := by
  unfold issueAlone
  rw [hs.runs]
  refine ⟨_, rfl, ?_⟩
  simp only [issueBundle, hh, hw, if_true, metState_plain, List.map_cons, List.map_nil, hq, firstSome, endFreeze_thawed hs.thawed, ht,
    List.foldl_cons, List.foldl_nil, hl, id, Bool.false_eq_true, if_false]
  have := finishBundle_ends s.cur {} [f s.cur s] (applyOp s.cur s (f s.cur s)) rfl
  cases hj : (f s.cur s).jump <;> simpa [firstSome, hj] using this

/-- A trap at issue is taken, and nothing else happens (R58, R338). -/
theorem issueAlone_traps {i : Instr} {k : Slot} {f : OpFn} {s : State} {b : Bead} {x : Cause} (hs : CanIssue s b)
    (hw : wellFormed i = true) (hq : (f s.cur (metState s.cur (loneHeader i) s)).waits = none)
    (ht : issueTrap s.cur (loneHeader i) [f s.cur (metState s.cur (loneHeader i) s)] (metState s.cur (loneHeader i) s) = some x) :
    issueAlone i k f s = .next (takeTrap (logIssue (walkMissed s s.cur x) s.cur x) s.cur (numbered (walkMissed s s.cur x) x)) := by
  unfold issueAlone
  rw [hs.runs]
  simp only [issueBundle, hw, if_true, List.map_cons, List.map_nil, hq, firstSome, ht, bundleTrap, trapFreeze_thawed hs.thawed]

/-- A freeze at issue has no other effect (R48). -/
theorem issueAlone_freezes {i : Instr} {k : Slot} {f : OpFn} {s : State} {b : Bead} {y : FreezeCause} (hs : CanIssue s b)
    (hw : wellFormed i = true) (hq : (f s.cur (metState s.cur (loneHeader i) s)).waits = some y) :
    issueAlone i k f s = .next (freezeNow s s.cur y) := by
  unfold issueAlone
  rw [hs.runs]
  simp only [issueBundle, hw, if_true, List.map_cons, List.map_nil, hq, firstSome]

/-- The writes of an operation collide with nothing, and not with each other. -/
theorem noCollision_false {a : Arch} {w : List (Dest × Nat)} (h : NoCollision a w)
    (hp : w.Pairwise (fun u v => collides v.1 = true → u ≠ v)) :
    collision (a.wtb.map fun l => (l.dest, l.due)) w = false := by
  refine collision_false _ w hp fun x hx hc hm => ?_
  obtain ⟨l, hl, rfl⟩ := List.mem_map.mp hm
  exact h l hl _ hx hc ⟨rfl, rfl⟩

/-- Results that land in distinct places, apart from flags. -/
def Apart (l : List Result) : Prop := l.Pairwise fun u v => collides v.dest = true → u.dest ≠ v.dest

theorem Apart.writes {l : List Result} (h : Apart l) (cc : Nat) :
    (writesAt cc l).Pairwise (fun u v => collides v.1 = true → u ≠ v) := by
  unfold writesAt
  rw [List.pairwise_map]
  exact h.imp fun {u v} h hc he => h hc (by simpa using congrArg Prod.fst he)

/-- An operation that does nothing but read and land completes. -/
theorem completes_of {i : Instr} {k : Slot} {f : OpFn} {s : State} {b : Bead} {reads : List Nat} {l : List Result}
    (hs : CanIssue s b) (hw : wellFormed i = true) (he : exec i s = issueAlone i k f s) (hh : loneHeader i = {})
    (hk : k ≠ .ld ∧ k ≠ .st ∧ k ≠ .tm) (ha : Apart l) {o : Op} (hf : f s.cur s = o) (h1 : o.slot = k) (h2 : o.reads = reads)
    (h3 : o.traps = []) (h4 : o.waits = none) (h5 : o.lands = l) (h6 : o.loads = []) (h7 : o.groups ≤ 6) (h8 : o.entries = 0)
    (h9 : o.jump = none) (h10 : o.leaves = false) (h11 : o.needsCkpt = false) (h12 : o.act (land s s.cur k l) = land s s.cur k l)
    (h13 : o.leave = id) : Completes i k reads l s := by
  subst hf
  intro hfit
  have hb : badBundle (s.ctx s.cur) {} [f s.cur s] = false := by
    refine badBundle_single rfl (fun _ => h9) (by simp [h10]) ?_ ?_ ?_ h7 (by rw [h2]; exact hfit.early)
    · simpa [h8, Config.withholdMax] using hs.entries
    · simpa [h6, Config.landingMax] using hs.loads
    · have : writesOf (s.ctx s.cur).arch.cc [f s.cur s] = writesAt (s.ctx s.cur).arch.cc l := by
        simp [writesOf, h5, h6, writesAt]
      rw [this]
      exact noCollision_false hfit.apart (ha.writes _)
  have hd : inDrain (s.ctx s.cur) (f s.cur s) = false := by
    unfold inDrain
    rw [h1]
    obtain ⟨ha, hb, hc⟩ := hk
    cases k <;> simp_all
  obtain ⟨t, ht, hE⟩ := issueAlone_ends hs hw hh h4 (issueTrap_none h3 (by simp [h11]) hd hb) h13
  refine ⟨t, he.trans ht, ?_⟩
  have : applyOp s.cur s (f s.cur s) = land s s.cur k l := by
    unfold applyOp
    rw [h5, h1]
    exact h12
  rw [h9, this] at hE
  exact hE

theorem destOf_latch {q : Port} {d : Dest} (h : destOf q = some d) :
    d ≠ .iq ∧ d ≠ .fq ∧ d ≠ .aq ∧ d ≠ .bq ∧ d ≠ .xq ∧ d ≠ .flagsOnly ∧ ∀ n, d ≠ .creg n := by
  cases q <;> simp only [destOf] at h
  all_goals (try split at h)
  all_goals simp_all
  all_goals (subst h; simp)

/-- A destination, a latch and flags are three places (R32, R37). -/
theorem apart_result (q : Port) (d : Dest) (lat : Nat) (v w m : BitVec 1024) (n : BitVec 1024) (fl : Flags)
    (hd : d = .iq ∨ d = .fq ∨ d = .aq ∨ d = .bq ∨ d = .xq) :
    Apart (landPort q lat v m ++ [landLatch d lat w n] ++ landFlags lat fl) := by
  have hfl : ∀ x : List Result, Apart x → Apart (x ++ landFlags lat fl) := fun x hx => by
    refine List.pairwise_append.mpr ⟨hx, ?_, ?_⟩
    · unfold landFlags
      split <;> simp
    · unfold landFlags
      intro a _ b hb
      split at hb <;> simp_all [collides]
  refine hfl _ (List.pairwise_append.mpr ⟨?_, by simp, ?_⟩)
  · unfold landPort
    split <;> simp
  · intro a ha c hc hcol
    unfold landPort at ha
    split at ha
    · rename_i x hx
      have := destOf_latch hx
      simp only [List.mem_singleton] at ha hc
      subst ha hc
      rcases hd with rfl | rfl | rfl | rfl | rfl <;> simp_all [landLatch]
    · simp at ha

theorem apart_nil : Apart [] := List.Pairwise.nil

end Sys2Proof.Machine
end

