-- ==== Sys2Proof/Certificates/Slice0/Obligations.lean ====
section
/-! DEFINITION. The statements about the model that the provers prove: `def Obligations.<Name> : Prop`. -/
namespace Sys2Proof.Claims
open Sys2Proof Sys2Proof.Machine

/-! ### Scalar values as bit vectors of N bits -/

/-- The source value of an S operation, bits [N-1:0] (R70). -/
def arg (s : State) (a : SArgs) (q : Port) : BitVec (sizeBits a.size) :=
  BitVec.ofNat _ (srcS (s.ctx s.cur).arch a q).toNat

/-- The functions of two sources in the tables of R75 and R76. -/
def intTwo : Instr → Option (SArgs × ((N : Nat) → BitVec N → BitVec N → BitVec N))
  | .add a => some (a, fun _ x y => x + y)
  | .sub a => some (a, fun _ x y => x - y)
  | .mul a => some (a, fun _ x y => x * y)
  | .mulh a => some (a, fun N x y => BitVec.ofInt N (x.toInt * y.toInt / 2 ^ N))
  | .mulhn a => some (a, fun N x y => BitVec.ofNat N (x.toNat * y.toNat / 2 ^ N))
  | .min a => some (a, fun _ x y => if x.sle y then x else y)
  | .max a => some (a, fun _ x y => if x.sle y then y else x)
  | .minn a => some (a, fun _ x y => if x.ule y then x else y)
  | .maxn a => some (a, fun _ x y => if x.ule y then y else x)
  | .and a => some (a, fun _ x y => x &&& y)
  | .or a => some (a, fun _ x y => x ||| y)
  | .xor a => some (a, fun _ x y => x ^^^ y)
  | .andn a => some (a, fun _ x y => x &&& ~~~y)
  | .shl a => some (a, fun N x y => x <<< (y.toNat % N))
  | .shr a => some (a, fun N x y => x >>> (y.toNat % N))
  | .sar a => some (a, fun N x y => x.sshiftRight (y.toNat % N))
  | .rol a => some (a, fun N x y => x.rotateLeft (y.toNat % N))
  | _ => none

/-- The functions of one source in the tables of R75, R76, R77 and R79. -/
def intOne : Instr → Option (SArgs × ((N : Nat) → BitVec N → BitVec N))
  | .neg a => some (a, fun _ x => -x)
  | .abs a => some (a, fun _ x => if x.msb then -x else x)
  | .not a => some (a, fun _ x => ~~~x)
  | .clz a => some (a, fun N x => BitVec.ofNat N (((List.range N).reverse.takeWhile fun i => !x.getLsbD i).length))
  | .ctz a => some (a, fun N x => BitVec.ofNat N (((List.range N).takeWhile fun i => !x.getLsbD i).length))
  | .popc a => some (a, fun N x => BitVec.ofNat N (((List.range N).filter fun i => x.getLsbD i).length))
  | .bswap a => some (a, fun N x => BitVec.ofNat N
      ((List.range (N / 8)).map fun i => (x.toNat / 2 ^ (8 * i) % 256) * 2 ^ (8 * (N / 8 - 1 - i))).sum)
  | .mov a => some (a, fun _ x => x)
  | .li a => some (a, fun _ x => x)
  | _ => none

/-- A scalar result of latency 1 lands in its destination and in iq, unless the operation is disabled (R72, R73, R75). -/
def scalarLands (s : State) (a : SArgs) (v : W64) : List Result :=
  if enabledS (s.ctx s.cur).arch a.pred a.neg then
    landPort a.dst 1 (v.zeroExtend 1024) ++ [landLatch .iq 1 (v.zeroExtend 1024)]
  else []

/-- The values of the field operations and the two-source moves of R77 and R79, with the sources they read. -/
def fieldValue (s : State) : Instr → Option (SArgs × List Port × W64)
  | .bext a =>
    let x := arg s a a.a
    let f := srcS (s.ctx s.cur).arch a a.b
    let pos := (f.extractLsb' 0 6).toNat
    let len := Nat.min (f.extractLsb' 8 7).toNat (sizeBits a.size)
    some (a, [a.a, a.b], BitVec.ofNat 64 (x.toNat / 2 ^ pos % 2 ^ len))
  | .bins a =>
    let x := arg s a a.a
    let old := arg s a a.dst
    let f := srcS (s.ctx s.cur).arch a a.b
    let pos := (f.extractLsb' 0 6).toNat
    let len := Nat.min (f.extractLsb' 8 7).toNat (sizeBits a.size)
    some (a, [a.a, a.b, a.dst], (BitVec.ofFnLE fun i : Fin (sizeBits a.size) =>
      if pos ≤ i.val ∧ i.val < pos + len then x.getLsbD (i.val - pos) else old.getLsbD i.val).zeroExtend 64)
  | .lih a =>
    let x := srcS (s.ctx s.cur).arch a a.a
    let y := srcS (s.ctx s.cur).arch a a.b
    some (a, [a.a, a.b], BitVec.ofFnLE fun i : Fin 64 =>
      if 16 * a.size.toNat ≤ i.val ∧ i.val < 16 * a.size.toNat + 16 then y.getLsbD (i.val - 16 * a.size.toNat) else x.getLsbD i.val)
  | .lea a =>
    let k := if a.b = .imm then 0 else match a.size.toNat with
      | 0 => 0
      | 1 => 2
      | 2 => 3
      | _ => 7
    some (a, [a.a, a.b], srcS (s.ctx s.cur).arch a a.a + srcS (s.ctx s.cur).arch a a.b <<< k)
  | _ => none

/-- The condition of an integer compare (R78). -/
def intCompares : Instr → Option (SArgs × ((N : Nat) → BitVec N → BitVec N → Bool))
  | .cmpEq a => some (a, fun _ x y => x == y)
  | .cmpNe a => some (a, fun _ x y => x != y)
  | .cmpLt a => some (a, fun _ x y => x.slt y)
  | .cmpLe a => some (a, fun _ x y => x.sle y)
  | .cmpLtn a => some (a, fun _ x y => x.ult y)
  | .cmpLen a => some (a, fun _ x y => x.ule y)
  | _ => none

/-- What a compare lands: 128 copies of the truth in a predicate, 1 or 0 in a scalar; iq takes bits [63:0] (R73, R78). -/
def compareLands (s : State) (a : SArgs) (t : Bool) (fl : Flags) : List Result :=
  let v : BitVec 128 := if t then (if a.dst.isP then BitVec.allOnes 128 else 1) else 0
  if enabledS (s.ctx s.cur).arch a.pred a.neg then
    landPort a.dst 1 (v.zeroExtend 1024) ++ [landLatch .iq 1 ((v.extractLsb' 0 64).zeroExtend 1024)] ++ landFlags 1 fl
  else []

/-! ### Predicates, floating point, transfers and control registers -/

/-- The predicate results of R85, with the sources they read. -/
def predValue (r : Arch) : Instr → Option (SArgs × List Port × Pred)
  | .pand a => some (a, [a.a, a.b], srcP r a.a &&& srcP r a.b)
  | .por a => some (a, [a.a, a.b], srcP r a.a ||| srcP r a.b)
  | .pxor a => some (a, [a.a, a.b], srcP r a.a ^^^ srcP r a.b)
  | .pandn a => some (a, [a.a, a.b], srcP r a.a &&& ~~~srcP r a.b)
  | .pmov a => some (a, [a.a], srcP r a.a)
  | .pmovLo a => some (a, [a.a],
      if a.dst.isP then (readScalar r 0 a.a).zeroExtend 128 else ((srcP r a.a).extractLsb' 0 64).zeroExtend 128)
  | .pmovHi a => some (a, a.a :: (if a.dst.isP then [a.dst] else []),
      if a.dst.isP then readScalar r 0 a.a ++ (srcP r a.dst).extractLsb' 0 64
      else ((srcP r a.a).extractLsb' 64 64).zeroExtend 128)
  | _ => none

/-- Value and flags of a floating-point operation with its latency, whether fq takes it, and the sources it reads (R80 to R84). -/
def floatValue (r : Arch) : Instr → Option (SArgs × Nat × Bool × List Port × (Nat × Flags))
  | .fadd a => some (a, 4, true, [a.a, a.b], addF (fmtS a.size) (dynamicMode r) (valF r a a.a) (valF r a a.b))
  | .fsub a => some (a, 4, true, [a.a, a.b], addF (fmtS a.size) (dynamicMode r) (valF r a a.a) (valF r a a.b).negate)
  | .fmul a => some (a, 4, true, [a.a, a.b], mulF (fmtS a.size) (dynamicMode r) (valF r a a.a) (valF r a a.b))
  | .fma a => some (a, 4, true, [a.a, a.b, a.dst],
      fmaF (fmtS a.size) (dynamicMode r) (valF r a a.dst) (valF r a a.a) (valF r a a.b))
  | .fnma a => some (a, 4, true, [a.a, a.b, a.dst],
      fnmaF (fmtS a.size) (dynamicMode r) (valF r a a.dst) (valF r a a.a) (valF r a a.b))
  | .fmin a => some (a, 4, true, [a.a, a.b], minMaxF (fmtS a.size) false (srcF r a a.a) (srcF r a a.b))
  | .fmax a => some (a, 4, true, [a.a, a.b], minMaxF (fmtS a.size) true (srcF r a a.a) (srcF r a a.b))
  | .fabs a => some (a, 4, true, [a.a], (srcF r a a.a % 2 ^ ((fmtS a.size).width - 1), 0))
  | .fneg a => some (a, 4, true, [a.a], (srcF r a a.a ^^^ 2 ^ ((fmtS a.size).width - 1), 0))
  | .fclass a => some (a, 4, true, [a.a], (classF (fmtS a.size) (srcF r a a.a), 0))
  | .fdiv a => some (a, 14, false, [a.a, a.b], divF (fmtS a.size) (dynamicMode r) (valF r a a.a) (valF r a a.b))
  | .fsqrt a => some (a, 14, false, [a.a], sqrtF (fmtS a.size) (dynamicMode r) (valF r a a.a))
  | .frsqrt a => some (a, 14, false, [a.a], rsqrtF (fmtS a.size) (dynamicMode r) (valF r a a.a))
  | _ => none
/-- What a floating-point result lands (R73). -/
def floatLands (r : Arch) (a : SArgs) (lat : Nat) (latch : Bool) (v : Nat × Flags) : List Result :=
  if enabledS r a.pred a.neg then
    landPort a.dst lat (BitVec.ofNat 1024 v.1) ++
      (if latch then [landLatch .fq lat (BitVec.ofNat 1024 v.1)] else []) ++ landFlags lat v.2
  else []
/-- The condition of a floating-point compare (R81). -/
def fcompares : Instr → Option (SArgs × FCond)
  | .fcmpEq a => some (a, .eq)
  | .fcmpNe a => some (a, .ne)
  | .fcmpLt a => some (a, .lt)
  | .fcmpLe a => some (a, .le)
  | .fcmpUn a => some (a, .un)
  | _ => none
/-- Truth and flags of a compare or a predicate test, with the sources it reads (R78, R81, R85). -/
def comparison (s : State) (i : Instr) : Option (SArgs × List Port × Bool × Flags) :=
  let r := (s.ctx s.cur).arch
  match i, intCompares i, fcompares i with
  | .pany a, _, _ => some (a, [a.a], decide (srcP r a.a ≠ 0), 0)
  | .pall a, _, _ => some (a, [a.a], decide (srcP r a.a = BitVec.allOnes 128), 0)
  | _, some (a, f), _ => some (a, [a.a, a.b], f (sizeBits a.size) (arg s a a.a) (arg s a a.b), 0)
  | _, none, some (a, k) =>
    let q := cmpF (fmtS a.size) k (srcF r a a.a) (srcF r a a.b)
    some (a, [a.a, a.b], q.1, q.2)
  | _, none, none => none

/-- The operations of a slot whose results are all that they do. -/
def resultSlot : Slot → Bool
  | .s | .va | .vb | .x => true
  | _ => false

/-- The transfers of control, and whether they land a link (R86). -/
def transfers : Instr → Option (SArgs × Bool)
  | .br a => some (a, false)
  | .jmp a => some (a, false)
  | .call a => some (a, true)
  | .ret a => some (a, false)
  | _ => none
/-- The target of a transfer: pc + 64 imm23 or a register (R86). -/
def target (x : Ctx) (a : SArgs) : W64 := match a.a with
  | .imm => BitVec.ofNat 64 x.pc + 64 * a.imm.signExtend 64
  | q => readScalar x.arch 0 q
/-- What a taken transfer lands: the link of a call (R86). -/
def linkLands (x : Ctx) (a : SArgs) (link : Bool) : List Result :=
  if link then
    let v : BitVec 1024 := (BitVec.ofNat 64 (x.pc + 128)).zeroExtend 1024
    landPort a.dst 1 v ++ [landLatch .iq 1 v]
  else []

/-! ### Control registers -/

/-- A register that a write may never name: every field of it is read-only (R360, R361). -/
def readOnlyRegister (n : Nat) : Prop := (0x010 ≤ n ∧ n ≤ 0x014) ∨ n = 0x058
/-- A register of a job, which only a supervisor writes (R361). -/
def jobRegister (n : Nat) : Prop := 0x080 ≤ n ∧ n ≤ 0x089

/-! ### Vector lanes -/

/-- The value of an integer lane under the element type (R97). -/
def laneInt (a : VArgs) {N : Nat} (x : BitVec N) : Int := if a.ety.isI then x.toInt else x.toNat
/-- A result wrapped, or saturated to the range of the type (R97). -/
def wrapOr (a : VArgs) (N : Nat) (v : Int) : BitVec N :=
  if a.rnd = 1 then
    BitVec.ofInt N (if a.ety.isI then max (-2 ^ (N - 1)) (min (2 ^ (N - 1) - 1) v) else max 0 (min (2 ^ N - 1) v))
  else BitVec.ofInt N v
/-- The function of two integer lanes (R102). -/
def laneTwo : Instr → Option (VArgs × ((N : Nat) → BitVec N → BitVec N → BitVec N))
  | .viadd a => some (a, fun N x y => wrapOr a N (laneInt a x + laneInt a y))
  | .visub a => some (a, fun N x y => wrapOr a N (laneInt a x - laneInt a y))
  | .vimul a => some (a, fun N x y => wrapOr a N (laneInt a x * laneInt a y))
  | .vimulh a => some (a, fun N x y => BitVec.ofInt N (laneInt a x * laneInt a y / 2 ^ N))
  | .vand a => some (a, fun _ x y => x &&& y)
  | .vor a => some (a, fun _ x y => x ||| y)
  | .vxor a => some (a, fun _ x y => x ^^^ y)
  | .vshl a => some (a, fun N x y => x <<< (y.toNat % N))
  | .vshr a => some (a, fun N x y => x >>> (y.toNat % N))
  | .vsar a => some (a, fun N x y => x.sshiftRight (y.toNat % N))
  | .vimin a => some (a, fun _ x y => if x.sle y then x else y)
  | .vimax a => some (a, fun _ x y => if x.sle y then y else x)
  | .viminn a => some (a, fun _ x y => if x.ule y then x else y)
  | .vimaxn a => some (a, fun _ x y => if x.ule y then y else x)
  | _ => none
/-- Lane `i` of `n` bits of a vector. -/
def lane (v : VReg) (n i : Nat) : BitVec n := v.extractLsb' (n * i) n
/-- Lane `i` of a source in the operation's element type (R94). -/
def laneOf (r : Arch) (a : VArgs) (q : Port) (i : Nat) : BitVec a.ety.bits :=
  BitVec.ofNat _ ((srcLanes r a a.ety (lanesV a a.ety.bits) q).getD i 0)

/-- The state after an operation of a vector slot: its results, and the pop of the random queue if it names rq (R36). -/
def vectorEffect (s : State) (k : Slot) (o : Op) : State :=
  let s1 := land s s.cur k o.lands
  if o.rq then s1.modArch s.cur popRandom else s1

/-! ### The crossbar -/

/-- Lane `i` of the result of a crossbar operation of `n` lanes of 32 bits is this lane of the source (R110). -/
def crossLane : Instr → Option (XArgs × (Nat → Nat → Nat))
  | .xmov a => some (a, fun _ i => i)
  | .xrot a => some (a, fun n i => (i + n - a.idx.toNat % n) % n)
  | .xbcast a => some (a, fun _ i => 2 * a.idx.toNat + i % 2)
  | .xzip a => some (a, fun n i => if i % 2 = 0 then i / 2 else n / 2 + i / 2)
  | .xunzip a => some (a, fun n i => if i < n / 2 then 2 * i else 2 * (i - n / 2) + 1)
  | .xshuf a => some (a, fun _ i => i ^^^ 2 ^ a.idx.toNat)
  | _ => none

/-! ### Vector floating point -/

/-- The function of three floating-point lanes, with its latency and whether the unit's latch takes the result (R99, R101, R106). -/
def laneFloat (r : Arch) : Instr → Option (VArgs × Nat × Bool × (Nat → Nat → Nat → Nat × Flags))
  | .vadd a => some (a, 4, true, fun x y _ => addF (ffmt a.ety) (modeOf r a.rnd) (decodeF (ffmt a.ety) x) (decodeF (ffmt a.ety) y))
  | .vsub a => some (a, 4, true, fun x y _ =>
      addF (ffmt a.ety) (modeOf r a.rnd) (decodeF (ffmt a.ety) x) (decodeF (ffmt a.ety) y).negate)
  | .vmul a => some (a, 4, true, fun x y _ => mulF (ffmt a.ety) (modeOf r a.rnd) (decodeF (ffmt a.ety) x) (decodeF (ffmt a.ety) y))
  | .vfma a => some (a, 4, true, fun x y z => fmaF (ffmt a.ety) (modeOf r a.rnd) (decodeF (ffmt a.ety) z)
      (decodeF (ffmt a.ety) x) (decodeF (ffmt a.ety) y))
  | .vfnma a => some (a, 4, true, fun x y z => fnmaF (ffmt a.ety) (modeOf r a.rnd) (decodeF (ffmt a.ety) z)
      (decodeF (ffmt a.ety) x) (decodeF (ffmt a.ety) y))
  | .vmin a => some (a, 4, true, fun x y _ => minMaxF (ffmt a.ety) false x y)
  | .vmax a => some (a, 4, true, fun x y _ => minMaxF (ffmt a.ety) true x y)
  | .vabs a => some (a, 4, true, fun x _ _ => (x % 2 ^ (a.ety.bits - 1), 0))
  | .vneg a => some (a, 4, true, fun x _ _ => (x ^^^ 2 ^ (a.ety.bits - 1), 0))
  | .vclass a => some (a, 4, true, fun x _ _ => (classF (ffmt a.ety) x, 0))
  | .vdiv a => some (a, 14, false, fun x y _ => divF (ffmt a.ety) (modeOf r a.rnd) (decodeF (ffmt a.ety) x) (decodeF (ffmt a.ety) y))
  | .vsqrt a => some (a, 14, false, fun x _ _ => sqrtF (ffmt a.ety) (modeOf r a.rnd) (decodeF (ffmt a.ety) x))
  | .vrsqrt a => some (a, 14, false, fun x _ _ => rsqrtF (ffmt a.ety) (modeOf r a.rnd) (decodeF (ffmt a.ety) x))
  | .vrcp a => some (a, 14, false, fun x _ _ => divF (ffmt a.ety) (modeOf r a.rnd) (ofInt 1) (decodeF (ffmt a.ety) x))
  | .vexp2 a => some (a, 14, false, fun x _ _ => exp2F (ffmt a.ety) (modeOf r a.rnd) x)
  | .vlog2 a => some (a, 14, false, fun x _ _ => log2F (ffmt a.ety) (modeOf r a.rnd) x)
  | .vtanh a => some (a, 14, false, fun x _ _ => tanhF (ffmt a.ety) (modeOf r a.rnd) x)
  | .vsigm a => some (a, 14, false, fun x _ _ => sigmF (ffmt a.ety) (modeOf r a.rnd) x)
  | _ => none
/-- Lane `i` of a source as a number (R94). -/
def laneNat (r : Arch) (a : VArgs) (q : Port) (i : Nat) : Nat := (srcLanes r a a.ety (widthV a / a.ety.bits) q).getD i 0
/-- Flags of all enabled lanes of `n` (R96). -/
def allFlags (on : Nat → Bool) (f : Nat → Flags) : Nat → Flags
  | 0 => 0
  | n + 1 => allFlags on f n ||| (if on n then f n else 0)

/-! ### Values of the other vector operations -/

/-- `v` holds `x j` in every lane of `n` bits that is on and zero elsewhere, and `m` marks the bits of those lanes (R93, R95). -/
def LanesAre (w n : Nat) (on : Nat → Bool) (x : Nat → Nat) (v m : VReg) : Prop :=
  (∀ j, j < w / n → lane v n j = if on j then BitVec.ofNat n (x j) else 0) ∧
  (∀ j, j < w / n → lane m n j = if on j then BitVec.allOnes n else 0) ∧
  ∀ k, w ≤ k → v.getLsbD k = false ∧ m.getLsbD k = false
/-- What a lane operation lands: the lanes in the register and the latch, and the flags of the lanes that are on (R93, R95, R96, R98). -/
def LaneLands (a : VArgs) (lat : Nat) (on : Nat → Bool) (x : Nat → Nat × Flags) (l : List Result) : Prop :=
  ∃ v m : VReg, l = landPort a.dst lat v m ++ [landLatch (latchV a.unit) lat v] ++
      landFlags lat (allFlags on (fun j => (x j).2) (widthV a / a.ety.bits)) ∧
    LanesAre (widthV a) a.ety.bits on (fun j => (x j).1) v m
/-- What a lane compare lands: every bit of a true lane's span in a predicate, a lane of ones in a vector and the latch (R100). -/
def CompareLands (a : VArgs) (on : Nat → Bool) (t : Nat → Bool × Flags) (l : List Result) : Prop :=
  let n := a.ety.bits
  ∃ p pm v m : VReg, l = (if a.dst.isP then landPort a.dst 1 p pm else landPort a.dst 1 v m) ++ [landLatch (latchV a.unit) 1 v] ++
      landFlags 1 (allFlags on (fun j => (t j).2) (widthV a / n)) ∧
    LanesAre (widthV a / 8) (n / 8) on (fun j => if (t j).1 then 2 ^ (n / 8) - 1 else 0) p pm ∧
    LanesAre (widthV a) n on (fun j => if (t j).1 then 2 ^ n - 1 else 0) v m

/-- The conditions of the lane compares on two lanes, with their flags (R81, R100, R103). -/
def laneCompare : Instr → Option (VArgs × (Nat → Nat → Bool × Flags))
  | .vcmpEq a => some (a, cmpF (ffmt a.ety) .eq)
  | .vcmpNe a => some (a, cmpF (ffmt a.ety) .ne)
  | .vcmpLt a => some (a, cmpF (ffmt a.ety) .lt)
  | .vcmpLe a => some (a, cmpF (ffmt a.ety) .le)
  | .vcmpUn a => some (a, cmpF (ffmt a.ety) .un)
  | .vicmpEq a => some (a, fun x y => (decide (x = y), 0))
  | .vicmpNe a => some (a, fun x y => (decide (x ≠ y), 0))
  | .vicmpLt a => some (a, fun x y => ((BitVec.ofNat a.ety.bits x).slt (BitVec.ofNat a.ety.bits y), 0))
  | .vicmpLe a => some (a, fun x y => ((BitVec.ofNat a.ety.bits x).sle (BitVec.ofNat a.ety.bits y), 0))
  | .vicmpLtn a => some (a, fun x y => (decide (x < y), 0))
  | .vicmpLen a => some (a, fun x y => (decide (x ≤ y), 0))
  | _ => none

/-- One converted lane (R104): integers extend or saturate, tapered codes decode exactly, and the others round as `fcvt` does. -/
def convertedLane (t u : ETy) (md : Rm) (x : Nat) : Nat × Flags :=
  if t.isInt ∧ u.isInt then
    let v : Int := if u.isI then (BitVec.ofNat u.bits x).toInt else x
    let fitted : Int := if t.isI then max (-2 ^ (t.bits - 1)) (min (2 ^ (t.bits - 1) - 1) v) else max 0 (min (2 ^ t.bits - 1) v)
    ((BitVec.ofInt t.bits (if u.bits < t.bits then v else fitted)).toNat, 0)
  else if u.isTap then packF (ffmt t) .rne (tapVal u x)
  else if t.isTap then encodeTap t (decodeF (ffmt u) x)
  else convert t u md x
/-- A lane times 2^e, rounded once; a scale of -128 gives the default NaN (R105; for a signalling NaN under it, log 145). -/
def scaledLane (f : FFmt) (md : Rm) (e : Int) (x : Nat) : Nat × Flags :=
  if e = -128 then (f.nan, if (decodeF f x).isSnan then Flags.nv else 0)
  else packF f md (match decodeF f x with
    | .fin n m k => .fin n m (k + e)
    | v => v)

/-- The lane operations with their latency, the lanes that are on, and the value of each (R101, R104, R105, R108). -/
def laneValue (r : Arch) : Instr → Option (VArgs × Nat × (Nat → Bool) × (Nat → Nat × Flags))
  | .vsel a => some (a, 2, fun _ => true, fun j =>
      (if enabledLane r a a.ety.bits j then laneNat r a a.a j else laneNat r a a.b j, 0))
  | .vmov a => some (a, 2, enabledLane r a a.ety.bits, fun j => (laneNat r a a.a j, 0))
  | .vbcast a => some (a, 2, enabledLane r a a.ety.bits, fun _ =>
      (laneNat r a a.a (srcIndex r a a.b (widthV a / a.ety.bits)), 0))
  | .viota a => some (a, 2, enabledLane r a a.ety.bits, fun j => (laneNat r a a.a j + j, 0))
  | .vscale a => some (a, 4, enabledLane r a a.ety.bits, fun j => scaledLane (ffmt a.ety) (modeOf r a.rnd)
      (BitVec.ofNat 8 ((srcLanes r a .sc8 128 a.b).getD (j / 2 ^ a.imm.toNat) 0)).toInt (laneNat r a a.a j))
  | .vcvt a => match ETy.ofCode (a.imm.extractLsb' 0 4) with
    | none => none
    | some u =>
      let q := (a.imm.extractLsb' 4 3).toNat
      let n := widthV a / max a.ety.bits u.bits
      let from_ (i : Nat) := convertedLane a.ety u (modeOf r a.rnd) ((srcLanes r a u (widthV a / u.bits) a.a).getD i 0)
      if u.bits ≤ a.ety.bits then some (a, 4, enabledLane r a a.ety.bits, fun j => from_ (q * n + j))
      else some (a, 4, fun j => decide (q * n ≤ j) && decide (j < q * n + n) && enabledLane r a a.ety.bits j, fun j => from_ (j - q * n))
  | _ => none

/-- Node `i` of level `l` of a reduction's tree: present nodes combine, a lone one passes on (R107). -/
def treeNode (f : Nat → Nat → Nat × Flags) (x : Nat → Option Nat) : Nat → Nat → Option Nat × Flags
  | 0, i => (x i, 0)
  | l + 1, i => match treeNode f x l (2 * i), treeNode f x l (2 * i + 1) with
    | (some u, g), (some v, h) => let (z, k) := f u v; (some z, g ||| h ||| k)
    | (some u, g), (none, h) => (some u, g ||| h)
    | (none, g), (v, h) => (v, g ||| h)
/-- The reductions: the operation of a node and the value of an empty tree (R107). -/
def reduction (r : Arch) : Instr → Option (VArgs × Nat × (Nat → Nat → Nat × Flags))
  | .vsum a => some (a, 0, fun x y =>
      if a.ety.isFp then addF (ffmt a.ety) (modeOf r a.rnd) (decodeF (ffmt a.ety) x) (decodeF (ffmt a.ety) y)
      else ((wrapOr a a.ety.bits (laneInt a (BitVec.ofNat a.ety.bits x) + laneInt a (BitVec.ofNat a.ety.bits y))).toNat, 0))
  | .vrmax a =>
    let n := a.ety.bits
    some (a, if a.ety.isFp then 2 ^ (n - 1) + (ffmt a.ety).inf else if a.ety.isI then 2 ^ (n - 1) else 0, fun x y =>
      if a.ety.isFp then minMaxF (ffmt a.ety) true x y
      else (if laneInt a (BitVec.ofNat n x) ≤ laneInt a (BitVec.ofNat n y) then y else x, 0))
  | .vrmin a =>
    let n := a.ety.bits
    some (a, if a.ety.isFp then (ffmt a.ety).inf else if a.ety.isI then 2 ^ (n - 1) - 1 else 2 ^ n - 1, fun x y =>
      if a.ety.isFp then minMaxF (ffmt a.ety) false x y
      else (if laneInt a (BitVec.ofNat n x) ≤ laneInt a (BitVec.ofNat n y) then x else y, 0))
  | _ => none
/-- What a reduction lands: a scalar takes the root, a vector has it in lane 0 and zero in its other lanes, and the latch has it with
zero above (R107; for a signalling NaN that meets no other lane, log 145). -/
def ReductionLands (r : Arch) (a : VArgs) (identity : Nat) (f : Nat → Nat → Nat × Flags) (l : List Result) : Prop :=
  let n := a.ety.bits
  let x (i : Nat) := if enabledLane r a n i then some (laneNat r a a.a i) else none
  let root := treeNode f x (Nat.log2 (widthV a / n)) 0
  let lone : Flags := if a.ety.isFp && (List.range (widthV a / n)).any fun i => match x i with
    | some v => (decodeF (ffmt a.ety) v).isSnan
    | none => false then Flags.nv else 0
  let v := BitVec.ofNat 1024 (root.1.getD identity)
  l = landPort a.dst 4 v (BitVec.ofNat 1024 (if a.dst.isV then 2 ^ widthV a - 1 else 2 ^ 64 - 1)) ++
    [landLatch (latchV a.unit) 4 v] ++ landFlags 4 (root.2 ||| lone)

/-- Sum `j` of a signature: the accumulator's lane and the enabled elements, each with the sign of its projection, added exactly and
rounded once (R109, R131, R179). -/
def signatureSum (s : State) (r : Arch) (a : VArgs) (j : Nat) : Nat × Flags :=
  let w := readScalar r 0 a.b
  let seed := (predictor s s.cur (w.toNat % 64)).seed
  sigSum (decodeF .f32 (lane (readVector r a.c) 32 j).toNat ::
    ((List.range (widthV a / a.ety.bits)).filter (enabledLane r a a.ety.bits)).map fun i =>
      let x := decodeF (ffmt a.ety) (laneNat r a a.a i)
      if proj seed (w.toNat / 2 ^ 16 % 2 ^ 32 + i) j then x else x.negate)

/-- The bits that an operation of one enable writes: `n` of them, or none (R95, R108). -/
def oneEnable (on : Bool) (n : Nat) : VReg := if on then BitVec.ofNat 1024 (2 ^ n - 1) else 0
/-- What the operations that write one lane, or twelve, land (R108, R109); for a `vsig.fin` that is not enabled, log 136. -/
def SingleLands (s : State) (r : Arch) (l : List Result) : Instr → Prop
  | .vlane a =>
    let k := srcIndex r a a.b (widthV a / a.ety.bits)
    let v := BitVec.ofNat 1024 (laneNat r a a.a k)
    let m := oneEnable (enabledLane r a a.ety.bits k) 1024
    l = landPort a.dst 2 v m ++ [landLatch (latchV a.unit) 2 v m]
  | .vins a =>
    let k := srcIndex r a a.b (widthV a / a.ety.bits)
    let on := enabledLane r a a.ety.bits k
    ∃ v : VReg, l = landPort a.dst 2 v (oneEnable on (widthV a)) ++ [landLatch (latchV a.unit) 2 v (oneEnable on 1024)] ∧
      (∀ j, j < widthV a / a.ety.bits →
        lane v a.ety.bits j = BitVec.ofNat _ (if j = k then laneNat r a a.a 0 else laneNat r a a.dst j)) ∧
      ∀ j, widthV a ≤ j → v.getLsbD j = false
  | .vsigFin a =>
    let m := oneEnable (enabledLane r a 32 0) 1024
    ∃ v : VReg, l = landPort a.dst 2 v m ++ [landLatch (latchV a.unit) 2 v m] ∧
      ∀ j, j < 1024 → v.getLsbD j =
        (decide (j < 12) && !(BitVec.ofNat 32 ((srcLanes r a .f32 32 a.a).getD j 0)).msb)
  | .vsig a => ∃ v : VReg, l = landPort a.dst 4 v ++ [landLatch (latchV a.unit) 4 v] ++
      landFlags 4 (allFlags (fun _ => true) (fun j => (signatureSum s r a j).2) 12) ∧
    ∀ j, j < 32 → lane v 32 j = if j < 12 then BitVec.ofNat 32 (signatureSum s r a j).1 else 0
  | _ => True

/-- What the compares, moves, conversions, reductions and signatures of the vector slots land. -/
def VectorLands (s : State) (i : Instr) (l : List Result) : Prop :=
  let r := (s.ctx s.cur).arch
  (∀ a f, laneCompare i = some (a, f) →
    CompareLands a (enabledLane r a a.ety.bits) (fun j => f (laneNat r a a.a j) (laneNat r a a.b j)) l) ∧
  (∀ a lat on x, laneValue r i = some (a, lat, on, x) → LaneLands a lat on x l) ∧
  (∀ a e f, reduction r i = some (a, e, f) → ReductionLands r a e f l) ∧
  SingleLands s r l i

/-! ### Operations with effects beside results -/

/-- Nothing forbids the operation `o` alone: the checks of its entry pass, it waits for nothing, no `phase` drains, and the buffers
take what it starts (R43, R45, R48, R52, R53, R58, R250, R334). -/
structure Allowed (s : State) (o : Op) : Prop where
  checks : o.traps = []
  ready : o.waits = none
  drain : NoDrain (s.ctx s.cur)
  loads : ((s.ctx s.cur).arch.wtb.filter (·.load)).length + o.loads.length ≤ Config.landingMax
  room : (s.ctx s.cur).withheld.length + o.entries ≤ Config.withholdMax
  apart : NoCollision (s.ctx s.cur).arch (writesOf (s.ctx s.cur).arch.cc [o])
  early : NoEarlyRead (s.ctx s.cur).arch o.reads

/-- An operation completes with the effect `e`: its bundle ends on the state that `e` gives. -/
def Acts (i : Instr) (s : State) (e : State → State) : Prop :=
  ∃ t, exec i s = .next t ∧ Ends none s.cur (e (land s s.cur .s [])) t

/-- The row that `mpush` pushes: row 64·imm + fill of its tile, or zeros from an abandoned register (R136, R169). -/
def pushedRow (s : State) (a : MArgs) : BankRow :=
  let t := (nameTile s s.cur .mx true a.tile .push).ref
  let r := 64 * a.imm.toNat + (bankAt (arrayOf s s.cur) a.mode.toNat).desc.fill
  bankRow t.reg.fmt ((List.range 512).map fun j => if t.reg.abandoned.isSome then (0, 0) else tileElement s t r j)
/-- Row-lane `j` that `mrow` loads (R170). -/
def loadedLane (s : State) (a : MArgs) (j : Nat) : RowLane :=
  let t := (nameTile s s.cur .mx true a.tile .use).ref
  rowLane t.reg.fmt ((List.range 64).map fun k => tileElement s t (4 * a.imm.toNat + j) (64 * a.mode.toNat + k))
/-- The rows that `mdrain` writes: tile row 32·mode + i from accumulator row + i, in the tile's format (R172). -/
def drainedRows (s : State) (a : MArgs) (t : TileRef) : List (Nat × List Nat) :=
  (List.range (a.imm.toNat + 1)).filterMap fun i =>
    if 32 * a.mode.toNat + i < t.reg.rows then
      some (32 * a.mode.toNat + i,
        ((accRow (arrayOf s s.cur) (a.row.toNat + i)).list.take t.reg.cols).map (drainElement t.reg.fmt))
    else none
/-- The rows that `mcombine` writes: per token, the sum of its staging rows in rank order (R191). -/
def combinedRows (s : State) (a : MArgs) (t : TileRef) : List (Nat × List Nat) :=
  (List.range t.reg.rows).map fun i =>
    (i, (combineRows ((List.range (a.mode.toNat + 1)).map fun r =>
      (accRow (arrayOf s s.cur) (a.row.toNat + 4 * i + r)).list)).take t.reg.cols)

/-- The effect of each operation of the matrix slot (R168 to R174, R189 to R191). -/
def matrixEffect (s : State) : Instr → Option (State → State)
  | .mmode a => (changeMode (arrayOf s s.cur) (slotNo s.cur) a.mode.toNat).map fun x t => modArray t s.cur fun _ => x
  | .mpush a =>
    let t := (nameTile s s.cur .mx true a.tile .push).ref
    some fun u => modArray (seeLines u (if t.reg.abandoned.isSome then [] else
        t.elemLines (64 * a.imm.toNat + (bankAt (arrayOf s s.cur) a.mode.toNat).desc.fill) 0 512)) s.cur fun x => { x with
      banks := Vector.ofFn fun i =>
        if i.val = a.mode.toNat ∨ a.map.getLsbD i.val = true then
          pushBank x.banks[i] (t.reg.fmt == .i8) (pushedRow s a) t.reg.abandoned
        else x.banks[i] }
  | .mrow a =>
    let t := (nameTile s s.cur .mx true a.tile .use).ref
    some fun u => modArray (seeLines u ((List.range 4).flatMap fun j =>
        t.elemLines (4 * a.imm.toNat + j) (64 * a.mode.toNat) 64)) s.cur fun x => { x with
      rowBuf := pairSet x.rowBuf (slotNo s.cur) { fmt := t.reg.fmt, lanes := Vector.ofFn fun j => loadedLane s a j.val } }
  | .mbeat a => some fun u => modArray u s.cur fun x =>
      ((List.range 4).filter fun j => (pReg (s.ctx s.cur).arch a.pred).getLsbD j).foldl (fun x j =>
        beatLane (slotNo s.cur) (a.row.toNat + j) (a.map.toNat / 8 ^ j % 8) a.mode.toNat j (a.imm.getLsbD 0) x) x
  | .mdrain a =>
    let t := (nameTile s s.cur .mx true a.tile .use).ref
    some fun u =>
      let u1 := withhold u s.cur .mx (.mxWrite t.tl false (tileBytes s t (drainedRows s a t)))
      if a.map.getLsbD 0 then modArray u1 s.cur fun x => clearRows x a.row.toNat (a.imm.toNat + 1) else u1
  | .mclear a => some fun u => modArray u s.cur fun x =>
      (List.range (a.imm.toNat + 1)).foldl (fun x i => setAcc x (a.row.toNat + i) AccRow.clear) x
  | .mbinv a => some fun u => withhold u s.cur .mx (.mbinv a.mode.toNat)
  | .mtag a => some fun u => modArray u s.cur fun x => setAcc x a.row.toNat
      { elems := 0, tag := (2 : BitVec 2) ++ (readScalar (s.ctx s.cur).arch 0 a.tile).extractLsb' 0 28, load := none }
  | .mcombine a =>
    let t := (nameTile s s.cur .mx true a.tile .use).ref
    some fun u => modArray (withhold u s.cur .mx (.mxWrite t.tl false (tileBytes s t (combinedRows s a t)))) s.cur fun x =>
      (stagingRows a.row.toNat t.reg.rows (a.mode.toNat + 1)).foldl (fun x r => setAcc x r AccRow.clear) x
  | .mresolve a =>
    let t := (nameTile s s.cur .mx true a.tile .use).ref
    let u := (nameTile s s.cur .mx true (.tl a.imm) .use).ref
    let k := a.mode.toNat + 1
    let words := (List.range t.reg.rows).map fun i => (List.range k).map fun r => t.elem s i r
    let x := ((List.range 256).filter fun r => ownsRow (arrayOf s s.cur) (slotNo s.cur) r).foldl
      (resolveRow words a.row.toNat k) (arrayOf s s.cur)
    let miss := missList x words a.row.toNat k
    let out := (inRows u.reg.cols u.reg.rows (miss.length :: miss)).zipIdx.map fun (l, i) => (i, l)
    some fun v => modArray (withhold (seeLines v ((List.range t.reg.rows).flatMap fun i => t.elemLines i 0 k)) s.cur .mx
      (.mxWrite u.tl false (tileBytes s u out))) s.cur fun _ => x
  | _ => none

/-! ### Loads and stores -/

/-- The frames of a checked range, which is empty where the check fails. -/
def framesFor (s : State) (u : Use) (align va n : Nat) : Frames := match checkUse s s.cur u align va n with
  | .inr f => f
  | .inl _ => []

/-- What a load reads: its enable, its unit, the ranges with the bits where they land, and the mask of the bits that it writes
(R229, R230). -/
def loadParts (s : State) : Instr → Option (LArgs × Bool × Nat × List (Nat × Nat × Nat) × BitVec 1024)
  | .ld a =>
    let r := (s.ctx s.cur).arch
    let n := 2 ^ a.size.toNat
    some (a, enabledS r a.pred a.neg, n, [(eaL r a n, n, 0)], BitVec.allOnes 1024)
  | .vld a =>
    let r := (s.ctx s.cur).arch
    let z := 8 * 2 ^ a.size.toNat
    if a.dst.isP then some (a, enabledS r a.pred a.neg, 16, [(eaL r a 128, 16, 0)], BitVec.allOnes 1024)
    else
      let en := lanesOn r a.pred a.neg z (1024 / z)
      some (a, en.any id, 128, [(eaL r a 128, 128, 0)], BitVec.ofNat 1024 (lanesMask z en))
  | .vgath a =>
    let r := (s.ctx s.cur).arch
    let z := 8 * 2 ^ a.size.toNat
    let en := lanesOn r a.pred a.neg z (gatherLanes z)
    let addr (i : Nat) : Nat :=
      (readScalar r 0 a.base + (BitVec.ofInt 64 (indexLane (readVector r a.index) z i) <<< a.shift.toNat) +
        BitVec.ofInt 64 (a.imm.toInt * 128)).toNat
    some (a, en.any id, z / 8, ((List.range (gatherLanes z)).filter fun i => en.getD i false).map fun i => (addr i, z / 8, z * i),
      BitVec.ofNat 1024 (lanesMask z en))
  | _ => none

/-- A load starts: an entry of the landing part waits for data that is due D context cycles on, and the read is queued; a load
that is not enabled does nothing (R45, R47, R207, R229). -/
def loadEffect (s : State) (i : Instr) : Option (State → State) := match loadParts s i with
  | none => none
  | some (a, on, align, l, mask) =>
    if on then
      let segs := l.flatMap fun (va, n, bit) => segsOf (framesFor s .load align va n) va n bit
      some (startRead s.cur .ld (arrivalD a.dist) ((destOf a.dst).toList.map fun d => (d, mask)) (.bytes segs a.hint))
    else some id

/-- The atomics with their function (R235, R236). -/
def atomicOf : Instr → Option (LArgs × AtomicOp × Nat)
  | .aadd a => some (a, .add, 2 ^ a.size.toNat)
  | .aand a => some (a, .and, 2 ^ a.size.toNat)
  | .aor a => some (a, .or, 2 ^ a.size.toNat)
  | .axor a => some (a, .xor, 2 ^ a.size.toNat)
  | .amin a => some (a, .min, 2 ^ a.size.toNat)
  | .amax a => some (a, .max, 2 ^ a.size.toNat)
  | .aminn a => some (a, .minn, 2 ^ a.size.toNat)
  | .amaxn a => some (a, .maxn, 2 ^ a.size.toNat)
  | .aswap a => some (a, .swap, 2 ^ a.size.toNat)
  | .acas a => some (a, .cas, 2 ^ a.size.toNat)
  | .acas16 a => some (a, .cas, 16)
  | _ => none
/-- The places where the old value of an atomic lands: a register, or a pair for `acas16` (R236). -/
def atomicDests (i : Instr) (a : LArgs) : List Dest := match i with
  | .acas16 _ => (destOf a.dst).toList ++ (destOf (nextReg a.dst)).toList
  | _ => (destOf a.dst).toList
/-- A value operand of an atomic: a register, or a pair for `acas16` (R235, R236). -/
def atomicValue (s : State) (i : Instr) (n : Nat) (q : Port) : Nat := match i with
  | .acas16 _ => pairValue (s.ctx s.cur).arch q
  | _ => (readScalar (s.ctx s.cur).arch 0 q).toNat % 2 ^ (8 * n)
/-- The address of an atomic: its base and its displacement in units of its size (R235). -/
def atomicVa (s : State) (a : LArgs) (n : Nat) : Nat :=
  (readScalar (s.ctx s.cur).arch 0 a.base + BitVec.ofInt 64 (a.imm.toInt * n)).toNat
/-- An atomic is withheld: entries of the landing part wait for the old value, and one entry joins the withhold buffer with the
operands as they read at issue (R208, R235, R236). -/
def atomicEffect (s : State) (i : Instr) : Option (State → State) := match atomicOf i with
  | none => none
  | some (a, op, n) =>
    if enabledS (s.ctx s.cur).arch a.pred a.neg then
      let va := atomicVa s a n
      let f := framesFor s .atomic n va n
      some fun t =>
        let (us, t1) := startWithheld s.cur .ld (arrivalD a.dist) (atomicDests i a) t
        withhold t1 s.cur .ld
          (.atomic op (framePa f va) n (atomicValue s i n a.index) (atomicValue s i n a.dst) us
            ((s.ctx s.cur).arch.cc + arrivalD a.dist) (frameLeaf f va))
          [(jobOf s s.cur, va, n)]
    else some id

/-- What a store writes: its enable, its unit, the ranges that are checked, and the bytes with their addresses (R231, R233). -/
def storeParts (s : State) (i : Instr) : Option (Bool × Nat × List (Nat × Nat) × List (Nat × List Byte)) :=
  let r := (s.ctx s.cur).arch
  let scalar (n : Nat) (a : STArgs) : Option (Bool × Nat × List (Nat × Nat) × List (Nat × List Byte)) :=
    let ea := eaST r a n
    some (enabledS r a.pred false, n, [(ea, n)], [(ea, natToBytes n (readVector r a.data).toNat)])
  let vector (z : Nat) (a : STArgs) : Option (Bool × Nat × List (Nat × Nat) × List (Nat × List Byte)) :=
    let ea := eaST r a 128
    let n := if a.data.isP then 16 else 128
    let en := lanesOn r a.pred false z (8 * n / z)
    some (en.any id, n, [(ea, n)], (List.range (8 * n / z)).filterMap fun i =>
      if en.getD i false then some (ea + i * (z / 8), natToBytes (z / 8) ((readVector r a.data).toNat / 2 ^ (z * i))) else none)
  let scatter (z : Nat) (a : STArgs) : Option (Bool × Nat × List (Nat × Nat) × List (Nat × List Byte)) :=
    let en := lanesOn r a.pred false z (gatherLanes z)
    let lanes := (List.range (gatherLanes z)).filter fun i => en.getD i false
    let addr (i : Nat) : Nat :=
      (readScalar r 0 a.base + BitVec.ofInt 64 (indexLane (readVector r a.index) z i * (z / 8 : Nat)) +
        BitVec.ofInt 64 (a.imm.toInt * 128)).toNat
    some (en.any id, z / 8, lanes.map fun i => (addr i, z / 8),
      lanes.map fun i => (addr i, natToBytes (z / 8) ((readVector r a.data).toNat / 2 ^ (z * i))))
  match i with
  | .st8 a => scalar 1 a
  | .st16 a => scalar 2 a
  | .st32 a => scalar 4 a
  | .st64 a => scalar 8 a
  | .vst8 a => vector 8 a
  | .vst16 a => vector 16 a
  | .vst32 a => vector 32 a
  | .vst64 a => vector 64 a
  | .vscat8 a => scatter 8 a
  | .vscat16 a => scatter 16 a
  | .vscat32 a => scatter 32 a
  | .vscat64 a => scatter 64 a
  | _ => none
/-- A store is withheld: one entry with its bytes at their physical addresses; one that is not enabled does nothing (R231 to
R233). -/
def storeEffect (s : State) (i : Instr) : Option (State → State) := match storeParts s i with
  | none => none
  | some (on, align, l, w) =>
    if on then
      let f : Frames := (l.map fun (va, n) => framesFor s .store align va n).flatten
      some fun t => withhold t s.cur .st
        (.store (w.flatMap fun (va, b) => b.zipIdx.map fun (x, j) => (framePa f (va + j), x)) f.leaves)
        (l.map fun (va, n) => (jobOf s s.cur, va, n))
    else some id

/-! ### Tile operations -/

/-- The tile register that a port names in a role, with the frames of its region. -/
def named (s : State) (k : Slot) (q : Port) (role : Role) : TileRef := (nameTile s s.cur k true q role).ref
/-- The frames of a transfer's memory, which are empty where its check fails. -/
def transferFrames (s : State) (u : Use) (align : Nat) (l : List (Nat × Nat)) : Frames :=
  (framesOf (l.map fun (va, n) => checkTransfer s s.cur u align va n)).flatten
/-- A transfer of the current context: its kind, the registers it holds, its pieces, the register whose counter it counts in, and its
memory with the leaves of its frames (R211, R240). -/
def transferWith (s : State) (kind : TransferKind) (tiles : List Nat) (pieces : List Piece) (t : TileReg) (l : List (Nat × Nat))
    (leaves : List (Nat × W64)) : Transfer :=
  newTransfer s s.cur kind tiles pieces (counterPa s s.cur (s.ctx s.cur).arch t)
    (pinsOf s s.cur (l ++ counterRange (s.ctx s.cur).arch t)) leaves
/-- The one piece of a transform, if it moves anything. -/
def wholePiece (l : List Move) : List Piece :=
  if l.isEmpty then [] else [{ line := 0, store := true, moves := l, expand := none }]

/-- A record form translates its record's address and reads the record (R241, R248, R266). -/
def takeRecord (u : State) (c : Nat) (rr : RecordRead) : State := (fetchRecord (pageWalk u c rr.va) c rr.pa rr.leaf).2
/-- The enable of an operation that starts a transfer, what it does first, and the transfer that then enters the tile queue (R241,
R245, R247, R280, R292, R384). -/
def startedTransfer (s : State) (i : Instr) : Option (Bool × (State → State) × Transfer) :=
  let r := (s.ctx s.cur).arch
  let cores (a : LArgs) := receivers (coreNo (coreOf s.cur)) (a.dist.toNat / 64)
  let both (a : TArgs) (kind : TransferKind) (g : TileRef → TileRef → List Move) : Bool × (State → State) × Transfer :=
    let d := named s .tm a.dst .use
    let u := named s .tm a.a .use
    (enabledS r a.pred false, id,
      transferWith s kind [d.tl, u.tl] (wholePiece (g d u)) d.reg [] [])
  match i with
  | .tld a =>
    let t := named s .ld a.dst .load
    let ea := eaL r a 128
    let f := transferFrames s .load 16 [(ea, t.reg.span)]
    some (enabledS r a.pred a.neg, id, transferWith s .load [t.tl]
      (piecesOf false (multicast s s.cur (cores a) (rowLoads f t ea))) t.reg [(ea, t.reg.span)] f.leaves)
  | .tldh a =>
    let t := tldhTile a s.cur s
    let rr := readRecord s s.cur (readScalar r 0 a.base).toNat
    let f := transferFrames s .load 1 (tldhRanges a s.cur s)
    some (enabledS r a.pred a.neg,
      fun u => (takeRecord u s.cur rr).modArch s.cur fun r =>
        setTReg r (tileNo a.dst) { tReg r (tileNo a.dst) with image := t.reg.image },
      transferWith s .load [t.tl] (piecesOf false (multicast s s.cur (cores a)
        (recordLoads f t rr.record (Coords.of (readScalar r 0 a.index) a.imm)))) t.reg (tldhRanges a s.cur s)
        (uncachedLeaves rr.record.home f.leaves))
  | .texp a =>
    let t := named s .tm a.dst .load
    let sa := (readScalar r 0 a.a).toNat
    let p := 16 * a.imm.toNat
    let n := t.reg.rows * (t.reg.rb / 128) * p
    let f := transferFrames s .load 16 [(sa, n)]
    some (enabledS r a.pred false, id,
      transferWith s .load [t.tl] (blockPieces f t sa p) t.reg [(sa, n)] f.leaves)
  | .tcopy a => some (both a .transform fun d u => elementMoves d u fun i j => (i, j))
  | .ttrans a => some (both a .transform fun d u => elementMoves d u fun i j => (j, i))
  | .tconv a => some (both a (.convert (named s .tm a.dst .use) (named s .tm a.a .use)
      (rmCode (modeOf r (a.imm.extractLsb' 0 3)))) fun _ _ => [])
  | .tfill a =>
    let d := named s .tm a.dst .use
    some (enabledS r a.pred false, id,
      transferWith s .transform [d.tl] (wholePiece (fillTile d (fillCode r a d.reg.fmt))) d.reg [] [])
  | .hmget a =>
    let d := named s .tm a.dst .mutation
    let u := named s .tm a.a .mutation
    let segs := tileSegs u ((readScalar r 0 a.b).toNat * u.reg.pitch) 16
    let x : Name := BitVec.ofNat 128 (issueRead s s.cur segs).1
    let found := findName s (hidOf s (jobOf s s.cur)) x
    let part (k : Nat) : Move := match found with
      | some f => { dst := d.pa (16 * k) * 8, src := (heapLinePa s f.agent f.line + 16 * k) * 8, n := 128, lit := none }
      | none => { dst := d.pa (16 * k) * 8, src := d.pa (16 * k) * 8, n := 128, lit := some 0 }
    let kind : TransferKind := match found with
      | some f => .hmget (f.heapLine s)
      | none => .load
    some (enabledS r a.pred false,
      fun v => look (issueRead v s.cur segs).2 (hidOf v (jobOf v s.cur)) x,
      transferWith s kind [d.tl] (piecesOf false ((List.range 8).map part)) d.reg [] [])
  | .chrecv a =>
    let t := named s .sy a.a .load
    let ch := a.imm.toNat
    let key := chanKey (jobOf s s.cur) ch
    let x := s.chans.get key Chan.reset
    some (enabledS r a.pred false,
      fun u =>
        seeChannel { u with chans := u.chans.set key { x with recvs := x.recvs ++ [(s.uid, s.hub.timebase.toNat)] } } (jobOf s s.cur) ch,
      transferWith s (.chrecv (jobOf s s.cur) ch t) [t.tl] [] t.reg [] [])
  | _ => none
/-- The failure that a speculative tile load turns into an abandon mark (R182). -/
def loadFailure (s : State) : Instr → Option (TrapCode × Nat)
  | .tld a => if a.spec then specFail true (tldChecks a s.cur s) else none
  | .tldh a => if a.spec then specFail true (tldhChecks a s.cur s) else none
  | _ => none
/-- The operands of a tile load. -/
def tileLoad : Instr → Option LArgs
  | .tld a | .tldh a => some a
  | _ => none
/-- A failing address has been translated, but for one that is not aligned (R227, R266). -/
def walkFailed (c : Nat) (code : TrapCode) (va : Nat) (u : State) : State := if code = .align then u else pageWalk u c va
/-- What a tile load reads of its tensor record at issue, where the record can be read (R241, R248). -/
def recordRead (s : State) (i : Instr) (u : State) : State := match i with
  | .tldh a =>
    let rr := readRecord s s.cur (readScalar (s.ctx s.cur).arch 0 a.base).toNat
    match rr.check with
    | .inr _ => takeRecord u s.cur rr
    | .inl _ => u
  | _ => u

/-- The withheld entry of an operation on tiles: its enable, what it does first, the entry, and the pages it pins (R242, R244, R247,
R249, R353, R355). -/
def tileEntry (s : State) (i : Instr) : Option (Bool × (State → State) × (State → Act) × List (Nat × Nat × Nat)) :=
  let r := (s.ctx s.cur).arch
  match i with
  | .tst a =>
    let t := named s .st a.data .use
    let ea := eaST r a 128
    let f := transferFrames s .store 1 [(ea, t.reg.span)]
    let x := transferWith s .store [t.tl] (piecesOf true (rowStores f t ea)) t.reg [(ea, t.reg.span)] f.leaves
    some (enabledS r a.pred false, id, fun _ => .tileStore x t, x.pins)
  | .tsth a =>
    let t := named s .st a.data .use
    let rr := readRecord s s.cur (readScalar r 0 a.base).toNat
    let k := Coords.of (readScalar r 0 a.index) a.imm
    let l := boundRange t.reg.bits ((recordElems rr.record k t.reg).filterMap fun (_, _, x) => x)
    let f := transferFrames s .store 1 l
    let x := transferWith s .store [t.tl] (piecesOf true (recordStores f t rr.record k)) t.reg l
      (uncachedLeaves rr.record.home f.leaves)
    some (enabledS r a.pred false, fun u => takeRecord u s.cur rr, fun _ => .tileStore x t, x.pins)
  | .append a =>
    let t := named s .st a.data .use
    let va := (readScalar r 0 a.base).toNat
    let segs := segsOf (transferFrames s .atomic 128 [(va, 16)]) va 16 0
    let h := (issueRead s s.cur segs).1
    let pitch := h / 2 ^ 64 % 2 ^ 32
    let limit := h / 2 ^ 32 % 2 ^ 32
    let f := transferFrames s .store 128 [(va, 128 + limit * pitch)]
    let head := framePa (transferFrames s .atomic 128 [(va, 16)]) va
    let x := transferWith s (.append head t.reg.rows) [t.tl] [] t.reg [(va, 128 + limit * pitch)] f.leaves
    some (enabledS r a.pred false, fun u => (issueRead u s.cur segs).2,
      fun _ => .append x t head pitch limit f.plain va, x.pins)
  | .tcmp a =>
    let t := named s .tm a.b .use
    let sa := (readScalar r 0 a.a).toNat
    let p := 16 * a.imm.toNat
    let n := t.reg.rows * (t.reg.rb / 128) * p
    let f := transferFrames s .store 1 [(sa, n)]
    let x := transferWith s .store [t.tl] (piecesOf true (packedMoves f sa (packedBlocks s s.cur t p))) t.reg [(sa, n)] f.leaves
    some (enabledS r a.pred false, id, fun _ => .tileStore x t, x.pins)
  | .tsrf a =>
    let sa := (readScalar r 0 a.a).toNat
    some (enabledS r a.pred false, id, fun _ => .tsrf (framePa (framesFor s .load 128 sa 128) sa), [(jobOf s s.cur, sa, 128)])
  | .chsend a =>
    let t := named s .sy a.a .use
    let ch := a.imm.toNat
    let e := chanEntry s (jobOf s s.cur) ch
    let x := transferWith s (.chsend (jobOf s s.cur) ch e.peerAgent e.peerCore e.cidx 0 e.depth []) [t.tl] [] t.reg [] []
    some (enabledS r a.pred false, fun u => seeChannel u (jobOf s s.cur) ch, fun _ => .chsend ch t e.va x, x.pins)
  | .post a =>
    let t := named s .sy a.b .use
    let segs := tileSegs t 0 32
    let x := readScalar r 0 a.a
    some (enabledS r a.pred false, fun u => (issueRead u s.cur segs).2,
      fun u => .post (x.extractLsb' 0 16).toNat (x.extractLsb' 16 5).toNat (BitVec.ofNat 256 (issueRead u s.cur segs).1), [])
  | _ => none
/-- The slot of such an operation. -/
def entrySlot (i : Instr) : Slot := match i with
  | .tcmp _ | .tsrf _ => .tm
  | .chsend _ | .post _ => .sy
  | _ => .st

/-! ### Hallmarks and system operations -/

/-- The withheld entry of a hallmark mutation: its enable, the destination and distance of a result, the entry, and the pages it
pins (R277 to R279, R281, R282, R298, R299). -/
def hallmarkEntry (s : State) (i : Instr) : Option (Bool × List Dest × Nat × (List Nat → Act) × List (Nat × Nat × Nat)) :=
  let r := (s.ctx s.cur).arch
  let tile (q : Port) : TileRef := named s .tm q .mutation
  let row (a : TArgs) : Nat := (readScalar r 0 a.b).toNat
  let n (a : TArgs) : Nat := (a.imm.extractLsb' 0 4).toNat + 1
  match i with
  | .hmput a => some (enabledS r a.pred false, [], 0, fun _ => .hmput (tile a.dst) (tile a.a) (row a) (n a), [])
  | .hmnode a => some (enabledS r a.pred false, [], 0, fun _ => .hmnode (tile a.dst) (tile a.a) (row a), [])
  | .hmhold a => some (enabledS r a.pred false, [], 0, fun _ => .hmhold (tile a.a) (row a) (n a), [])
  | .hmdrop a => some (enabledS r a.pred false, [], 0, fun _ => .hmdrop (tile a.a) (row a) (n a), [])
  | .hmswap a =>
    let va := (readScalar r 0 a.b).toNat
    let f := framesFor s .store 16 va 16
    some (enabledS r a.pred false, (destOf a.dst).toList, arrivalD (a.imm.extractLsb' 0 8),
      fun us => .hmswap (tile a.a) (framePa f va) us.head? (frameLeaf f va), [(jobOf s s.cur, va, 16)])
  | .hmcopy a =>
    let va := (readScalar r 0 a.b).toNat
    let depth := (a.imm.extractLsb' 0 3).toNat
    let bytes := 128 * 8 ^ depth
    let f := transferFrames s .store 128 [(va, bytes)]
    let t := tile a.a
    let x := transferWith s (.hmcopy 0 0) [t.tl] [] t.reg [(va, bytes)] f.leaves
    some (enabledS r a.pred false, [], 0, fun _ => .hmcopy t (a.imm.extractLsb' 3 13).toNat depth f.plain va x, x.pins)
  | _ => none

/-- What the forms of `hmstat` read, and what they read first at issue (R203, R300). -/
def statusRead (s : State) (i : Instr) : Option (TArgs × (State → State) × (State → ReadWhat)) :=
  let r := (s.ctx s.cur).arch
  match i with
  | .hmstatDirectory a =>
    let t := named s .tm a.a .mutation
    let segs := tileSegs t ((readScalar r 0 a.b).toNat * t.reg.pitch) 16
    some (a, fun u => (issueRead u s.cur segs).2,
      fun u => .directory (BitVec.ofNat 128 (issueRead u s.cur segs).1) (hidOf s (jobOf s s.cur)))
  | .hmstatLineTag a =>
    let va := (readScalar r 0 a.a).toNat
    some (a, id, fun _ => .lineTag (framePa (framesFor s .load 1 va 1) va))
  | .hmstatFree a => some (a, id, fun _ => .freeCounts ((readScalar r 0 a.a).toNat % 128))
  | _ => none

/-- The withheld entry of the other system operations (R187, R188, R199, R252, R350, R352, R354, R357 to R359). -/
def systemEntry (s : State) (i : Instr) : Option (YArgs × List Dest × Nat × (List Nat → Act) × List (Nat × Nat × Nat)) :=
  let r := (s.ctx s.cur).arch
  let x (a : YArgs) : Nat := (readScalar r 0 a.a).toNat
  let j := jobOf s s.cur
  let at32 (a : YArgs) : Frames := (framesOf [checkPlace s s.cur .store 32 (x a) 32 true]).flatten
  let clasp (a : YArgs) : Nat := framePa (at32 a) (x a)
  let leaf (a : YArgs) : W64 := frameLeaf (at32 a) (x a)
  match i with
  | .cbind a => some (a, [], 0, fun _ => .cbind (clasp a) (readScalar r 0 a.b) (128 * a.imm.toNat) (leaf a), [(j, x a, 32)])
  | .cacq a => some (a, [], 0, fun _ => .cacq (clasp a) (leaf a), [(j, x a, 32)])
  | .crel a => some (a, [], 0, fun _ => .crel (clasp a) (a.imm.getLsbD 0) (leaf a), [(j, x a, 32)])
  | .ctry a => some (a, (destOf a.b).toList, arrivalD (a.imm.extractLsb' 0 8), fun us => .ctry (clasp a) us.head? (leaf a),
      [(j, x a, 32)])
  | .fence a => some (a, [], 0, fun _ => .fence a.imm.toNat, [])
  | .sig a => some (a, [], 0, fun _ => .sig (framePa (framesOf [checkPlace s s.cur .store 8 (x a) 8 false]).flatten (x a))
      (a.imm.toNat % 4) (readScalar r 0 a.b) (frameLeaf (framesOf [checkPlace s s.cur .store 8 (x a) 8 false]).flatten (x a)),
      [(j, x a, 8)])
  | .spawn a => some (a, [], 0, fun _ => .spawn (x a), [])
  | .cancelInstr a => some (a, [], 0, fun _ => .cancel a.imm.toNat (readScalar r 0 a.a), [])
  | .eret a => some (a, [], 0, fun _ => .eret (x a), [])
  | .tlbinv a => some (a, [], 0, fun _ => .tlbinv (a.imm.toNat % 4) (s.ctx s.cur).jobsel.toNat (readScalar r 0 a.a), [])
  | .qset a => some (a, [], 0, fun _ => .qset (x a % 8192) (a.imm.toNat % 4) (readScalar r 0 a.b), [])
  | .epupd a => some (a, [], 0, fun _ => .epupd (a.imm.toNat % 64) (x a % 4096)
      (actualExperts (readScalar r 0 a.b).toNat ((a.imm.extractLsb' 8 2).toNat + 1)), [])
  | .epcfg a => some (a, [], 0, fun _ => .epcfg (a.imm.toNat % 64) (a.imm.extractLsb' 6 2).toNat (readScalar r 0 a.a)
      ((readScalar r 0 a.b).extractLsb' 0 16), [])
  | _ => none

/-- An entry is withheld, after the entries of the landing part that wait for its result (R208). -/
def withholdResult (s : State) (k : Slot) (dests : List Dest) (d : Nat) (x : List Nat → Act) (pins : List (Nat × Nat × Nat))
    (u : State) : State :=
  let (us, u1) := startWithheld s.cur k d dests u
  withhold u1 s.cur k (x us) pins

/-- Leaving the context: what `yield`, `wait` and `done` do once their bundle has issued (R347 to R349). -/
def leaving (s : State) (i : Instr) : Option (YArgs × (State → State)) :=
  let r := (s.ctx s.cur).arch
  match i with
  | .yield a => some (a, leaveYield s.cur ((srcY r a a.a).toNat % 2 ^ 32))
  | .wait a => some (a, leaveWait s.cur (readScalar r 0 a.a).toNat (a.imm.toNat % 4) ((readScalar r 0 a.b).toNat % 2 ^ 32))
  | .done a => some (a, leaveDone s.cur)
  | _ => none
/-- The operations that only a supervisor may issue, whatever their enable (R354, R358, R359). -/
def supervisorOnly (i : Instr) : Bool := match i with
  | .tlbinv _ => true
  | .qset a => a.imm.toNat % 4 == 0
  | .cancelInstr a => a.imm.toNat == 4
  | _ => false

/-! ### Steps of the machine's parts -/

/-- What a step at the head of a store queue asks and does. -/
def atHead (s : State) (c : Nat) (f : Entry → Act → Option (Bool × State)) : Option (Bool × State) := match headEntry s c with
  | some e => f e e.act
  | none => none
/-- The lines of core `k`'s L1 can all be pushed (R223). -/
def canPush (s : State) (k : Nat) : Bool := (badPush s k (l1Lines s k)).isNone
/-- The head leaves the queue once every dirty line of its core's L1 has been pushed and counted, and waiters have seen what
the pushes wrote (R202, R213, R345, R348). -/
def pushed (s : State) (c : Nat) (e : Entry) : State := markWaiters (pushFor (popHead s c) c e.life)

/-- No line of a list holds bad data (R273). -/
def readable (s : State) (l : List Nat) : Bool := (l.find? s.homes.dataErr.contains).isNone

/-- Steps of a context's issue, landings, reads, traps and preemption: when they happen, and what they leave. -/
def contextStep (s : State) (i : Instr) : Option (Bool × State) :=
  match i with
  | .stallCycle c => some (moves s c && stallLeft s c != 0 && !phaseDue s c,
      (countDeferred (count (endFreeze (fetchLine s c) c) c evCycle 1) c).modCtx c fun x => { x with
        owed := some (stallLeft s c - 1), spent := x.spent + 1, ready := 0, arch := { x.arch with cc := x.arch.cc + 1 } })
  | .bundleIssue c => match fetchPlace s c with
    | .inr (pa, _) => some (moves s c && !debugStops s c && stallLeft s c == 0 && (freezeAt s c (opsAt s c)).isNone && (s.ctx c).granted &&
          !breaksAt s c && !(decodeBundle (bundleBits s (coreOf c) pa)).reservedBits,
        let b := decodeBundle (bundleBits s (coreOf c) pa)
        issueBundle c { early := b.early, lend := b.lend, ckpt := b.ckpt } (b.slots.map slotFn)
          { fetchLine s c with cur := c })
    | .inl _ => none
  | .issueMerge k => some (!((s.ctx (2 * k)).granted && ready s (2 * k)) && !((s.ctx (2 * k + 1)).granted && ready s (2 * k + 1)) &&
        (ready s (2 * k) || ready s (2 * k + 1)),
      if ready s (2 * k) && ready s (2 * k + 1) then
        let x := firstOf s (2 * k) (2 * k + 1)
        let y := 4 * k + 1 - x
        if mergeable s (2 * k) (2 * k + 1) then grant (grant s x) y else loseMerge (grant s x) y
      else if ready s (2 * k) then unready (grant s (2 * k)) (2 * k + 1)
      else unready (grant s (2 * k + 1)) (2 * k))
  | .resultLand c =>
    let l := (s.ctx c).arch.wtb.filter fun l => decide (l.due ≤ (s.ctx c).arch.cc)
    some ((s.ctx c).run.isSome && !l.isEmpty && l.all (fun e => (cregOf e).isNone && !e.deadline && !e.waiting) &&
        (heldBack s c l).isNone,
      landDue (endLate s c) c l)
  | .controlRegisterWrite c => some ((s.ctx c).run.isSome && !lateDue (s.ctx c).arch && !cregWaits (s.ctx c) isXpdata,
      landCregs s c isPlainRegister)
  | .xpdataWrite c => some ((s.ctx c).run.isSome && !lateDue (s.ctx c).arch, landCregs s c isXpdata)
  | .rqRegisterWrite c => some ((s.ctx c).run.isSome && !lateDue (s.ctx c).arch, landCregs s c isRqRegister)
  | .atomicReleaseDeadline c =>
    let l := dueNow (s.ctx c).arch
    some ((s.ctx c).run.isSome && !lateDue (s.ctx c).arch && plainDue l && l.any (·.deadline) &&
        (heldBack s c (l.filter fun e => !e.deadline)).isNone,
      (landDue (endLate s c) c (l.filter fun e => !e.deadline)).modCtx c fun k => { k with
        pendTraps := k.pendTraps ++ [Cause.plain .illsched none (s.ctx c).pc (s.ctx c).arch.cc 0] })
  | .loadDataArrive c err => match (s.ctx c).reads with
    | r :: rest => some (!readWaits s c r, takeRead (s.modCtx c fun x => { x with reads := rest }) c r err)
    | [] => none
  | .registerMissMicroTrap c port => match (s.ctx c).run, (s.ctx c).freeze with
    | some b, some (.registerMiss, _) => some ((missing s c (opsAt s c)).contains port && canFetch s b port,
        endFreeze (countLater (fetchRegister s c port) b.life evMicro 1) c)
    | _, _ => none
  | .trapDelivery c => match (s.ctx c).run, nextTrap (s.ctx c) with
    | some b, some x => some (!landsFirst (s.ctx c) && !shadowWaits s c && !x.deferred && (s.ctx c).preempt != some .cancelled,
        deliverTrap (s.modCtx c fun k => { k with pendTraps := k.pendTraps.filter (· != x) }) c b
          (if x.cc = 0 then { x with cc := (s.ctx c).arch.cc } else x))
    | _, _ => none
  | .hmFaultTrap c => match (s.ctx c).run, nextTrap (s.ctx c) with
    | some b, some x => some (!landsFirst (s.ctx c) && !shadowWaits s c && x.deferred && (s.ctx c).preempt != some .cancelled && beforeBundle (s.ctx c),
        deliverTrap (s.modCtx c fun k => { k with pendTraps := k.pendTraps.filter (· != x) }) c b
          (if x.cc = 0 then { x with cc := (s.ctx c).arch.cc } else x))
    | _, _ => none
  | .budgetOverrun c => match (s.ctx c).run with
    | some b => some (decide (b.budget < (s.ctx c).spent) && (s.ctx c).preempt.isNone,
        s.modCtx c fun x => { x with preempt := some .overrun })
    | none => none
  | .debugStop c => some ((s.ctx c).run.isSome && (s.ctx c).preempt.isNone && beforeBundle (s.ctx c) && debugStops s c,
      s.modCtx c fun x => { x with preempt := some .debugStop })
  | .worldSwitch k vf => some (decide (k < 512),
      [2 * k, 2 * k + 1].foldl (fun s c => match (s.ctx c).run with
        | some b => if (s.job b.job).vf = vf ∨ (s.ctx c).preempt.isSome then s else s.modCtx c fun x => { x with preempt := some .worldSwitch }
        | none => s) (s.modCore k fun x => { x with vf := vf }))
  | .forcedPreemption c =>
    let x := s.ctx c
    match x.run, x.preempt with
    | some b, some why => some (stopsHere x && (why == .cancelled || settled x), match why with
        | .cancelled => leaveCancelled s c b
        | .worldSwitch => enqueue (writeBack (saveBead s c b) b x.pc 1) b.queue b.job b.addr
        | .overrun =>
          let s1 := writeBack (saveBead s c b) b x.pc 1
          let w := beadWord s1 b.job b.addr 1
          enqueue (setBeadWord s1 b.job b.addr 1 (putBits w 0 16 (sat 0xFFFF (bitsOf w 0 16 + 1)))) b.queue b.job b.addr
        | .debugStop =>
          let s1 := saveBead (s.modCtx c fun x => { x with stopSkip := Table.set x.stopSkip x.pc (skipped x ++ stopsAt s c) }) c b
          let s2 := vWrite s1 b.job b.save 64 (trapRecord (Cause.plain .brk none x.pc x.arch.cc 0) x.pc b.launch b.index)
          setBeadWop (writeBack s2 b x.pc 3) b.job b.addr 3)
    | _, _ => none
  | .pageWalk c va => match (s.ctx c).run with
    | some b => match walk s b.job va with
      | some e => some ((tlbFind (s.core (coreOf c)).tlb b.job va).isNone &&
            (tlbFind (s.dieTlb.get (dieOf (coreOf c)) []) b.job va).isNone,
          let t := tlbEntryOf b.job va e
          let s0 := (walkLines s b.job va).foldl (walkerRead (agentOf s c)) s
          let s1 := s0.modCore (coreOf c) fun x => { x with tlb := tlbAdd Config.coreTlbMax t x.tlb }
          { s1 with dieTlb := s1.dieTlb.set (dieOf (coreOf c)) (tlbAdd Config.dieTlbMax t (s1.dieTlb.get (dieOf (coreOf c)) [])) })
      | none => none
    | none => none
  | .phaseSplitTakesEffect k => match (s.core k).phase with
    | some (u, c, due) =>
      let x := s.ctx c
      some (!(x.run.isSome && x.phaseWin.isSome && decide (x.arch.cc < due)),
        let s1 := dropLines (pushAll s k) k (l1Lines s k)
        ((clearPart s1 k u (s1.core k).u).modCore k fun y => { y with u := u, phase := none }).modCtx c fun x =>
          { x with phaseWin := none })
    | none => none
  | _ => none

/-- Steps of a store queue: when they happen, and what they leave. -/
def queueStep (s : State) (i : Instr) : Option (Bool × State) :=
  match i with
  | .drain c => atHead s c fun e x => match x with
    | .store l ptes => some (!hostStep s e && !phaseHolds s c && (drainFault s (coreOf c) ptes l).isNone,
        let s1 := drainBytes (touchHome s (coreOf c) ptes l) (coreOf c) ptes (l.filter fun (a, _) => !ownMgmt s a)
        mgmtWrite (popHead (written s1 (byteBits (l.filter fun (a, _) => !cacheable s a (pteOf ptes a)))) c)
          ((l.filter fun (a, _) => ownMgmt s a).map fun (a, b) => (mgmtOff a, b)))
    | .mxWrite _ true b => some (!phaseHolds s c,
        popHead (written { s with mem := Memory.writeCells s.mem b } (byteBits b)) c)
    | _ => none
  | .host c => atHead s c fun e x => match x with
    | .store l ptes => some (hostStep s e && !phaseHolds s c,
        let s1 := toHost s c false (hostBytes s l)
        let rest := l.filter fun (a, _) => !isHost s a
        if rest.isEmpty then popHead s1 c else setHead s1 c { e with act := .store rest ptes })
    | .atomic op pa n v expected uids due _ => some (hostStep s e && !phaseHolds s c && !readsBefore (s.ctx c) e,
        let new := atomicNew op n (s.readMem pa n) v expected
        landAtomic (popHead (toHost s c true (bytesAt pa n new)) c) e uids due n (s.readMem pa n) 0)
    | _ => none
  | .atom c => atHead s c fun e x => match x with
    | .atomic op pa n v expected uids due pte => some (!isHost s pa && !phaseHolds s c && !readsBefore (s.ctx c) e &&
          !refused s (agentOf s c) pa pte true && !dataFault s (coreOf c) pa n pte,
        let lines := if !ownMgmt s pa && cacheable s pa pte && lacks s (coreOf c) pa n then 1 else 0
        let new (old : Nat) : Nat := atomicNew op n old v expected
        let r := if ownMgmt s pa then pointAtom (popHead s c) (agentOf s c) pa pte n new
          else atomStep (popHead s c) (coreOf c) pa n pte new
        landAtomic r.2 e uids due n r.1 lines)
    | _ => none
  | .hand c => atHead s c fun _ x => match x with
    | .tileStore t _ =>
      let l := linesUnder (t.pieces.flatMap Piece.reads)
      some (!phaseHolds s c && readable s l,
        let s1 := popHead (l.foldl findErrors s) c
        queueTransfer s1 { t with pieces := t.pieces.map fun p => { p with moves := takeMoves s1.mem p.moves }, after := 0 })
    | .append t src hdr pitch limit frames va =>
      let l := linesUnder (bitRanges src.ranges)
      some (!phaseHolds s c && (atomFault s t.agent hdr (pteOf t.leaves hdr)).isNone && readable s l,
        let r := pointAtom (popHead (l.foldl findErrors s) c) t.agent hdr (pteOf t.leaves hdr) 4 fun x => (x + src.reg.rows) % 2 ^ 32
        queueTransfer r.2 { t with
          pieces := piecesOf true (takeMoves r.2.mem (appendMoves src frames va r.1 limit pitch)), after := 0 })
    | _ => none
  | .mxTileWriteFormed c => match formFirst (s.ctx c).storeQ, formFirst (s.ctx c).withheld with
    | some q, _ => some (true, s.modCtx c fun x => { x with storeQ := q })
    | none, some w => some (true, s.modCtx c fun x => { x with withheld := w })
    | none, none => none
  | .cbindPerform c => atHead s c fun _ x => match x with
    | .cbind pa base len pte => some (!phaseHolds s c && (atomFault s (agentOf s c) pa pte).isNone,
        (pointAtom (popHead s c) (agentOf s c) (pa + 8) pte 16 fun _ => base.toNat + len * 2 ^ 64).2)
    | _ => none
  | .cacqLock c => atHead s c fun e x => match x with
    | .cacq pa pte => some (!phaseHolds s c && !readsFirst (s.ctx c) e && (atomFault s (agentOf s c) pa pte).isNone &&
          (!isHeld (lockWord s pa) || isCancelled s c e),
        if isHeld (lockWord s pa) then popHead s c else acquire (popHead s c) c pa pte e)
    | _ => none
  | .ctryPerform c => atHead s c fun e x => match x with
    | .ctry pa uid pte => some (!phaseHolds s c && !readsFirst (s.ctx c) e && (atomFault s (agentOf s c) pa pte).isNone,
        let free := !isHeld (lockWord s pa)
        let s1 := if free then acquire (popHead s c) c pa pte e else popHead s c
        match uid with
        | some u => deliverValue s1 u free.toNat
        | none => s1)
    | _ => none
  | .crelPerform c => atHead s c fun e x => match x with
    | .crel pa keep pte =>
      let s0 := reclaimAll s (pa / 128)
      let l := (claspLines s0 (coreOf c) e.job pa).filter (dirtyLines s0 (coreOf c)).contains
      some (!phaseHolds s c && (atomFault s (agentOf s c) pa pte).isNone && (badPush s0 (coreOf c) l).isNone,
        let s1 := markWaiters (countLater (pushLines (popHead s0 c) (coreOf c) l) e.life evPush l.length)
        (pointAtom s1 (agentOf s0 c) pa pte 8 (unlock keep)).2)
    | _ => none
  | .fencePerform c => atHead s c fun e x => match x with
    | .fence n =>
      if n = 0 then some (true, popHead s c)
      else if n = 2 ∧ (s.ctx c).hostAddr.isSome then
        some (!(s.ctx c).flush && canPush s (coreOf c), (pushFor s c e.life).modCtx c fun x => { x with flush := true })
      else some (!(s.ctx c).flush && canPush s (coreOf c), emptyIcache (pushed s c e) (coreOf c))
    | _ => none
  | .hostFlushComplete c => atHead s c fun _ x => match x with
    | .fence 2 => some ((s.ctx c).flush,
        (emptyIcache (popHead s c) (coreOf c)).modCtx c fun x => { x with flush := false, hostAddr := none })
    | _ => none
  | .sigPerform c => atHead s c fun e x => match x with
    | .sig pa op b pte => some (!phaseHolds s c && (atomFault s (agentOf s c) pa pte).isNone && canPush s (coreOf c),
        let u := pushed s c e
        let s1 := (pointAtom u (agentOf u c) pa pte 8 (sigValue op b.toNat)).2
        settleLaunches (if op = 2 then countPhase (markWaiters s1) c e else s1))
    | _ => none
  | .spawnPerform c => atHead s c fun e x => match x with
    | .spawn desc =>
      let u := seeLaunch (pushed s c e) e.job desc
      some (canPush s (coreOf c) && !spawnRefused u e (descWord u e.job desc 0), pushStart u (.launch e.job desc .plain))
    | _ => none
  | .postPerform c => atHead s c fun e x => match x with
    | .post locket m msg =>
      let u := pushed s c e
      some (canPush s (coreOf c),
        if m = u.pos then sendMail u { locket := locket, msg := msg, src := .bead e.job }
        else countFabric { u with fabricOut := u.fabricOut ++ [.post m locket e.job msg] } evFabTx)
    | _ => none
  | .cancelPerform c => atHead s c fun e x => match x with
    | .cancel lvl sa => some (targetJob s e lvl sa.toNat == e.job || e.sup,
        (cancelTargets s e lvl sa.toNat).foldl pushCancel (seeTarget (popHead s c) e lvl sa.toNat))
    | _ => none
  | .eretPerform c => atHead s c fun e x => match x with
    | .eret va =>
      let u0 := pushed s c e
      let u := vSee (vSee u0 e.job va 64) e.job (beadSave u0 e.job va) 64
      some (canPush s (coreOf c) && eretOk u e.job e.sup va, makeReady u e.job va)
    | _ => none
  | .tlbinvPerform c => atHead s c fun e x => match x with
    | .tlbinv scope job va => some (canPush s (coreOf c) && !(livePins s c e).any (pinRemoved s scope job va.toNat),
        dropTranslations (pushed s c e) scope job va.toNat)
    | _ => none
  | .qsetPerform c => atHead s c fun e x => match x with
    | .qset q f v => some (e.sup || (queue s q).job == e.job, modQueue (startRound (popHead s c)) q (qsetQueue f v))
    | _ => none
  | .tsrfPerform c => atHead s c fun _ x => match x with
    | .tsrf pa => some ((badPush s (coreOf c) [pa / 128]).isNone,
        dropRecord (pushLine (popHead s c) (coreOf c) (pa / 128)) (pa / 128))
    | _ => none
  | .predictorUpdateRelease c => atHead s c fun e x => match x with
    | .epupd t i actual => some ((predictor s c t).bound && (predictor s c t).job == e.job,
        setPredictor (popHead s c) c t { predictor s c t with
          entries := (predictor s c t).entries.set i (updateEntry (predEntry (predictor s c t) i) actual) })
    | _ => none
  | .predictorBindRelease c => atHead s c fun e x => match x with
    | .epcfg t op seed layer => some (true, setPredictor (popHead s c) c t (configure (predictor s c t) e.job op seed layer))
    | _ => none
  | .hm c => atHead s c fun e x =>
    let ok := !hmWaits s c e && (entryFault s e).isNone
    let u := (entryReads e).foldl findErrors s
    match x with
    | .hmput names lines row n => match putRows c e names lines row n 0 none (popHead u c) with
      | .inr t => some (ok, t)
      | .inl _ => none
    | .hmnode names line row => match putNode (popHead u c) c e names line row with
      | .inr t => some (ok, t)
      | .inl _ => none
    | .hmhold names row n => some (ok, holdRows c e names n row (popHead u c))
    | .hmdrop names row n => some (ok,
        let l := nameRows u names row n
        let out := freedBy u (hidOf u e.job) l
        if out.isEmpty then performDrop u c e l
        else sendInvs (markGroup u (groupOf e) e.job false) (hidOf u e.job) e.job (groupOf e) out)
    | .hmswap values pa uid pte => some (!hmWaits s c e && (swapFault s c pa pte (entryReads e)).isNone,
        swapCell (popHead u c) c e values pa pte uid)
    | _ => none
  | .hmcopyHmStep c => atHead s c fun e x => match x with
    | .hmcopy names row depth frames va t =>
      let root := nameRow s names row
      some (!hmWaits s c e && (copyEntryFault s e names row depth).isNone &&
          (root == 0 || (findName s (hidOf s e.job) root).isSome),
        startCopy (popHead ((entryReads e).foldl findErrors s) c) c e root depth frames va t)
    | _ => none
  | .chsendHand c => atHead s c fun e x => match x with
    | .chsend _ src entry t => match translateHub s e.job (entry + 32) with
      | some (pa, pte) =>
        let l := linesUnder (bitRanges src.ranges)
        some (!phaseHolds s c && (atomFault s (agentOf s c) pa pte).isNone && readable s l,
          let r := cpAtomOld (hubWalk (popHead (l.foldl findErrors s) c) e.job (entry + 32)) t.agent pa pte 4 fun x => (x + 1) % 2 ^ 32
          sendTransfer r.2 t src r.1)
      | none => none
    | _ => none
  | _ => none

/-- A request of agent `q` reaches the home of an idle line that it can serve, and completes in one access: when, and what the home then
serves (R220 to R222). -/
def oneAccess (s : State) (req : Request) (q line : Nat) (serve : State → Nat → Nat → State) : Bool × State :=
  let s1 := carry s req.message line q (paAgent (line * 128))
  (tagged s (line * 128) && s.homes.present.contains q && !s.homes.lost.contains q && !lineBusy s1 line && !tagFault s1 line &&
    (if inHeap s1 (line * 128) then req == .rds else needs s1 req q line == ([], none)),
   serve (sendAnswer s1 req q line false (marks s1 q line)) q line)
/-- The home of a line that is not a heap line takes the WB or CE of an owner: when, and what it leaves (R222, R223, R225). -/
def takenBack (s : State) (kind : CohKind) (a line : Nat) (data : Option (BitVec 1024)) (x : L2Copy) : Bool × State :=
  let s1 := dropL2 (carry s kind line a (paAgent (line * 128))) a line
  let s2 := match data with
    | some d => if isForeign s a then writeLine s1 line d else s1
    | none => s1
  (x.inWriteback && !lineBusy s line && !s.homes.lost.contains a && !tagFault s line && tagOwned (lineTag s line) a && !inHeap s (line * 128),
   setTag (touch s2 line) line (tagAfterWb (lineTag s line)))
/-- The hm step that waits in `s` for the Acks of heap lines performs on `t`, once the last of them has arrived (R225, R294, R299). -/
def afterAcks (s t : State) (x : Name) (group j : Nat) : State := match waitingDrop s group, waitingCopy s group with
  | some (c, e, l), _ => performDrop t c e l
  | none, some y => endCopy (dropName t (hidOf s j) j group x id) y group
  | none, none => dropName t (hidOf s j) j group x id

/-- Steps of transfers, caches and coherence: when they happen, and what they leave. -/
def memoryStep (s : State) (i : Instr) : Option (Bool × State) :=
  match i with
  | .piece t k => match transferOf s t with
    | some x => match x.pieces[k]? with
      | some p => some (hasPieces x && pieceReady s x p && (pieceFault s x p).isNone,
          let s1 := p.lines.foldl (readForPiece x) (setTransfer s { x with pieces := x.pieces.eraseIdx k })
          countPiece (if p.store then writePiece s1 x p else loadPiece s1 p) x p)
      | none => none
    | none => none
  | .count t => match transferOf s t with
    | some x => match x.kind with
      | .load | .hmget _ => some (x.pieces.isEmpty, finishTransfer (clearMarks s x) x)
      | .store => some (x.pieces.isEmpty, finishTransfer s x)
      | .append hdr rows => some (x.pieces.isEmpty && (atomFault s x.agent (hdr + 12) (pteOf x.leaves hdr)).isNone,
          setTransfer (pointAtom s x.agent (hdr + 12) (pteOf x.leaves hdr) 4 fun v => (v + rows) % 2 ^ 32).2
            { x with kind := .store })
      | .graphCopy g j => some (x.pieces.isEmpty, tellCopy (finishNode (finishTransfer s x) g j false) x g j)
      | .hmcopy root group => match x.ctx with
        | some c => some (x.pieces.isEmpty && s.hall.freeing.isEmpty && nameReady s root &&
              (dropFault s (hidOf s x.job) [root]).isNone && (freedBy s (hidOf s x.job) [root]).isEmpty,
            let place := slotNo c * 128 + coreNo (coreOf c)
            endCopy (dropName s (hidOf s x.job) x.job group root fun s => eventRecord s x.job root x.pc 1 place x.agent) x group)
        | none => none
      | _ => none
    | none => none
  | .transformComplete t => match transferOf s t with
    | some x => match x.kind with
      | .transform => some (wholeReady s x && readable s (linesUnder x.toRead),
          let u := (linesUnder x.toRead).foldl findErrors s
          finishTransfer (written { u with mem := x.pieces.foldl (performMoves u.mem) u.mem } (x.pieces.flatMap Piece.writes)) x)
      | .convert dst src rounding => some (wholeReady s x && readable s (linesUnder x.toRead),
          let u := (linesUnder x.toRead).foldl findErrors s
          finishTransfer (written { u with mem := convertTile u dst src rounding } (cutLines (bitRanges dst.ranges))) x)
      | _ => none
    | none => none
  | .channelSlotWrite (.transfer t deliv) => match transferOf s t with
    | some x => match x.kind with
      | .chsend j ch agent core k n depth data => some (
          if agent / 4 = s.pos then !slotWaits s j ch n else !slotTaken depth deliv n,
          if agent / 4 = s.pos then finishTransfer (takeSlot s x.agent j ch k n data) x
          else finishTransfer (countFlits { s with fabricOut := s.fabricOut ++ [.slot agent core j ch k n data] } evFabTx
            (flitsOf data.length)) x)
      | _ => none
    | none => none
  | .channelSlotWrite (.peer agent j ch k n data) => some (!s.homes.lost.contains agent && !slotWaits s j ch n,
      takeSlot (countFlits s evFabRx (flitsOf data.length)) agent j ch k n data)
  | .channelFlush job ch =>
    let x := s.chans.get (chanKey job ch) Chan.reset
    match x.recvs with
    | (u, issued) :: _ => match transferOf s u with
      | some t => match t.kind with
        | .chrecv _ _ tile => some (wholeReady s t && flushDue s x (chanEntry s job ch) issued,
            flushChannel s job ch x (chanEntry s job ch) t tile)
        | _ => none
      | none => none
    | [] => none
  | .recordCacheEviction die line => some (true, { s with
      recCache := List.map (fun (p : Nat × Table (BitVec 1024)) => if p.1 = die then (p.1, p.2.erase line) else p) s.recCache })
  | .l1Push k ⟨line, err⟩ => match l1Line s k line with
    | some x => some (x.dirty != 0,
        ownError (if err = .tagBad then s else clearExcl (pushLine s k line) k line) line 1 err)
    | none => none
  | .l1Drop k line => match l1Line s k line with
    | some x => some (!pushFault s k line x, dropLine s k line)
    | none => none
  | .rds q line => some (oneAccess s .rds q line serveRdS)
  | .rdx q line => some (oneAccess s .rdx q line serveRdX)
  | .upg q line => some (oneAccess s .upg q line serveRdX)
  | .fwds ⟨line, dirty, data⟩ => match s.homes.busy.get? line with
    | some x => match x.req, x.owner with
      | .rds, some o => some (!x.forwarded,
          let r := answerOf s o line dirty
          let s1 := supply (sendOwner s line x.q o) o line r.2 data
          downgrade (setTxn s1 line { x with forwarded := true, ownerDirty := r.2, fromWriteback := r.1 }) o line
            (if r.2 then .o else .s))
      | _, _ => none
    | none => none
  | .fwdx ⟨line, dirty, data⟩ => match s.homes.busy.get? line with
    | some x => match x.req, x.owner with
      | .rds, _ => none
      | _, some o => some (!x.forwarded,
          let r := answerOf s o line dirty
          let s1 := supply (sendOwner s line x.q o) o line r.2 data
          forwardX (setTxn s1 line { x with forwarded := true, ownerDirty := r.2, fromWriteback := r.1 }) o line)
      | _, none => none
    | none => none
  | .inv a line => match s.homes.busy.get? line with
    | some x => some (x.acks.contains a,
        let s1 := if l2Copy s a line |>.any (fun y => y.st == .s) then dropL2 s a line else s
        setTxn (carry s1 .ack line a (paAgent (line * 128))) line { x with acks := x.acks.filter (· != a) })
    | none =>
      let h := paAgent (line * 128)
      some (inHeap s (line * 128) && isForeign s h && !isForeign s a && s.homes.present.contains a,
        carry (dropAt (carry s .inv line h a) a line) .ack line a h)
  | .transactionComplete line => match s.homes.busy.get? line with
    | some x => some (x.forwarded && x.acks.isEmpty, nextRequest (settle s line) line)
    | none => none
  | .wb a ⟨line, data⟩ => match l2Copy s a line with
    | some x => some ((x.dirty || isForeign s a) && (takenBack s .wb a line (some data) x).1, (takenBack s .wb a line (some data) x).2)
    | none => none
  | .ce a line => match l2Copy s a line with
    | some x => some (!x.dirty && (takenBack s .ce a line none x).1, (takenBack s .ce a line none x).2)
    | none => none
  | .l2Eviction a line err => match l2Copy s a line with
    | some x => some (!x.pinned && !x.inWriteback,
        let s1 := ownError s line 1 err
        if x.st = .s then dropL2 s1 a line else setL2 s1 a line { x with inWriteback := true })
    | none => none
  | .agentLost a =>
    let s1 := logFault (s.modHomes fun h => { h with lost := h.lost ++ [a] }) { kind := 0x06, detail := a }
    let s2 := loseTxns a s.homes.busy s1
    some (s.homes.present.contains a && !s.homes.lost.contains a && a / 4 != s.pos,
      s2.jobs.foldl (fun s (j, _) => abortJob s j a) s2)
  | .flitResend port => some (decide (port < 16), countFabric s evFabTx)
  | .scrub line err => some (tagged s (line * 128), ownError s line 3 err)
  | .heapLineFree => match s.hall.freeing with
    | (x, group, j) :: r => match findName s (hidOf s j) x with
      | some f => some (true,
          let s1 := takeInv (s.modHall fun h => { h with freeing := r }) (f.heapLine s)
          if r.isEmpty then afterAcks s s1 x group j else s1)
      | none => none
    | [] => none
  | .releaseWalkerDrop job => match takeChild job s.hall.walker with
    | some ((g, x), rest) =>
      let s1 := s.modHall fun h => { h with walker := rest }
      let freed := !(freedBy s (hidOf s job) [x]).isEmpty
      some (s.hall.freeing.isEmpty && nameReady s x && (dropFault s (hidOf s job) [x]).isNone,
        if freed then sendInvs s1 (hidOf s job) job g [x]
        else dropName s1 (hidOf s job) job g x fun s => eventRecord s job x 0 1 0 0)
    | none => none
  | .walkerCounterAdd job => match doneGroup s.hall job with
    | some g =>
      let s1 := s.modHall fun h => { h with groups := h.groups.filter fun (k, _, _) => k != g }
      let va := (s.job job).hmwcnt.toNat / 8 * 8
      match translateHub s1 job va with
      | some (pa, e) => some (va != 0 && vWritable s1 job va, homeAtom (hubWalk s1 job va) pa e 8 fun x => (x + 1) % 2 ^ 64)
      | none => none
    | none => none
  | _ => none

/-- Steps of the hub, the arbiters and the walkers: when they happen, and what they leave. -/
def hubStep (s : State) (i : Instr) : Option (Bool × State) :=
  match i with
  | .arbiterChoice c =>
    let s1 := (liveQueues (startRound s) (coreOf c)).foldl (fun s q => dropBadHead (seeHead s q) q) (startRound s)
    match chooseQueue s1 (dieOf (coreOf c)) (candidates s1 c) with
    | some q => some (s.mgmt.ready && !s.mgmt.halt && isContext c && slotIdle s c && s.hub.chosen.isEmpty &&
          !(slotNo c == 1 && slotIdle s1 (c - 1) && !(candidates s1 (c - 1)).isEmpty),
        s1.modHub fun h => { h with
          chosen := h.chosen.set c q
          rotate := h.rotate.set (rotateKey (dieOf (coreOf c)) (queue s1 q).rank) ((q + 1) % 8192) })
    | none => none
  | .beadDispatch c => match s.hub.chosen.get? c with
    | some q =>
      let s1 := s.modHub fun h => { h with chosen := h.chosen.erase c }
      some (s.mgmt.ready && !s.mgmt.halt && (s.ctx c).run.isNone && (queue s1 q).head != 0 && headOk s1 q && fits s1 c q, dispatch s1 c q)
    | none => none
  | .roundStart => some (decide (s.hub.roundAt ≤ s.hub.timebase.toNat), s.modHub fun h => { h with
      roundAt := (h.timebase.toNat / 100000 + 1) * 100000
      queues := List.map (fun (p : Nat × Queue) => (p.1, { p.2 with left := p.2.allot })) h.queues })
  | .launchStart => match s.hub.starts with
    | .launch j desc kind :: r => some (true, startLaunch (s.modHub fun h => { h with starts := r }) j desc kind)
    | .handler j t kind (some k) _ lid :: r =>
      some (true, startInstance (s.modHub fun h => { h with starts := r }) j t k kind lid)
    | .handler j t kind none super lid :: r => some (true, s.modHub fun h => { h with
        starts := r, handlerWait := h.handlerWait ++ [.handler j t kind none super lid] })
    | [] => none
  | .handlerInstanceStart => match takeHandler (seeHandlers s) [] s.hub.handlerWait with
    | some ((.handler j t kind _ _ lid, k), r) =>
      some (true, startInstance ((seeHandlers s).modHub fun h => { h with handlerWait := r }) j t k kind lid)
    | _ => none
  | .beadComplete k => match s.hub.completing[k]? with
    | some x =>
      let s1 := s.modHub fun h => { h with
        completing := h.completing.eraseIdx k, pmDefer := h.pmDefer.filter fun e => e.1 != x.life }
      some (s.ctxs.all (fun (_, y) => y.storeQ.all fun e => e.life != x.life), advanceLaunch s1 x.launch false)
    | none => none
  | .locketHandlerComplete k => match s.hub.handlersDone[k]? with
    | some (n, _) => some (true, s.modHub fun h => { h with
        handlersDone := h.handlersDone.eraseIdx k
        lockets := h.lockets.set n (BitVec.ofNat 256 (putBits (h.lockets.get n 0).toNat 224 16
          (bitsOf (h.lockets.get n 0).toNat 224 16 - 1))) })
    | none => none
  | .waitWake k => match (markWaiters s).hub.waiters[k]? with
    | some (j, va, held) => some (held,
        makeReady ((markWaiters s).modHub fun h => { h with waiters := h.waiters.eraseIdx k }) j va)
    | none => none
  | .graphStart die job desc =>
    let x : Graph := { die := die, job := job, desc := desc, finished := [], gone := [], cancelled := false }
    let s2 := s.fresh.2.modHub fun h => { h with graphs := h.graphs.set s.uid x }
    some (decide (die < 4), runFirst s.uid x (List.range (nodesOf s2 x))
      (vAtom (resetLefts x (nodesOf s2 x) (vSee s2 job desc 32)) job (graphCounter s2 x) 8 fun _ => 0))
  | .graphNodeComplete g j => match s.hub.graphs.get? g with
    | some x => match takeNode j x.finished with
      | some (canc, rest) => some (true,
          let s1 := vAtom (s.modHub fun h => { h with graphs := h.graphs.set g { x with finished := rest } }) x.job
            (graphCounter s x) 8 (advanceCount false)
          let s2 := seeNode s1 x j
          let n := bitsOf (nodeWord s2 x j 0) 32 16
          closeGraph (successors g (canc || x.cancelled)
            ((List.range n).map fun k => vRead s1 x.job (nodeWord s1 x j 2 + 2 * k) 2) (vSee s2 x.job (nodeWord s2 x j 2) (2 * n))) g)
      | none => none
    | none => none
  | .locketMessage n msg src =>
    let reach (s : State) : State :=
      if n ≠ 0xFFFF then arrive s n msg src
      else if src = .physicalFunction then s.modHub fun h => { h with resync := h.resync ++ [msg] }
      else logFault s { kind := 0x09, first := 32 * n, detail := n }
    match src with
    | .host _ | .physicalFunction => some (decide (n < 65536), reach s)
    | .peer _ => some (decide (n < 65536), reach (countFabric s evFabRx))
    | _ => match takeMail n s.hub.mail with
      | some (m, r) => some (decide (n < 65536) && m.msg == msg && m.src == src, reach (s.modHub fun h => { h with mail := r }))
      | none => none
  | .cancel => match s.hub.cancels with
    | t :: r => some (true, cancelLevel (s.modHub fun h => { h with
        cancels := r, aborts := (h.aborts ++ (cancelJob s t).toList).eraseDups }) t)
    | [] => none
  | .dbgresWrite addr => match stoppedJob s addr with
    | some j => some (true, makeReady s j addr)
    | none => none
  | .functionLevelReset vf => some (true, (s.jobs.filter fun (_, j) => j.vf == vf).foldl (fun s (n, _) => pushCancel s (.job n true)) s)
  | .workEntryRun port k =>
    let x := workEntry s port k
    some (decide (port < 16) && decide (k < 256) && workState x == 1 && triggered s x,
      let s1 := vSee s (workJob x) (wordOf x 1 / 8 * 8) 8
      if emptyRun x then endRun s1 port k else setWork s1 port k (withState x 2))
  | .workRunComplete port k => some (decide (port < 16) && decide (k < 256) && workState (workEntry s port k) == 2,
      endRun (runMemory s (workEntry s port k)) port k)
  | .collectiveAbort job =>
    let l := liveWork s job
    let chans := ((l.map fun (_, x) => bitsOf x.toNat 36 12).eraseDups).filter (chanExists s job)
    let s1 := (chans.foldl (fun s ch => seeChannel s job ch) s).modHub fun h => { h with aborts := h.aborts.filter (· != job) }
    let s2 := l.foldl (fun s (k, x) => s.modMgmt fun m => { m with work := m.work.set k (withState x 3) }) s1
    some (s.hub.aborts.contains job,
      ((chans.map fun ch => (chanEntry s job ch).peerAgent).eraseDups).foldl (sendAbort job) s2)
  | .abortMessage job agent => some (!s.homes.lost.contains agent, abortJob (countFabric s evFabRx) job agent)
  | _ => none

/-- Steps of the base dies, of reset and bring-up, of management and power: when they happen, and what they leave. -/
def deviceStep (s : State) (i : Instr) : Option (Bool × State) :=
  match i with
  | .migratorEpoch a =>
    let n := epochsOver s a
    some (s.mgmt.migen && n != 0, s.modTiers fun t => { t with
      pageCount := List.map (fun (p : Nat × Nat) => if p.1 / 2 ^ 29 = a then (p.1, p.2 / 2 ^ n) else p) t.pageCount
      moves := t.moves.erase a, epochAt := t.epochAt.set a (epochEnd s a + n * 1000000) })
  | .pageMigrate a err => match s.tiers.migrating.get? a, hotPage s a, coldPage s a with
    | some m, _, _ =>
      let p := m.up * 512 + m.done
      let q := m.down * 512 + m.done
      if m.busy then some (true, nextRequest (nextRequest (endMove s a m) p) q)
      else some ((s.homes.busy.get? p).isNone && (s.homes.busy.get? q).isNone,
        (foundError (reportBad (reportBad s p) q) p 2 err).modTiers fun t => { t with
          migrating := t.migrating.set a { m with busy := true } })
    | none, some p, some q => some (s.mgmt.migen && decide (s.tiers.moves.get a 0 + 2 ≤ 2048) && (localDie s a).isSome,
        s.modTiers fun t => { t with migrating := t.migrating.set a { up := p, down := q, done := 0, busy := false } })
    | _, _, _ => none
  | .dcctlWrite stack val =>
    let d := if val.getLsbD 30 then { dcctl s stack with err := false } else dcctl s stack
    let w := (val.extractLsb' 0 4).toNat
    some (decide (stack < 8) && !d.busy && decide (w ≤ 12), setDcctl s stack { d with busy := true, target := w })
  | .nearConversionDone stack =>
    let d := dcctl s stack
    let s1 := if d.ways < d.target then flushWays s stack d.ways d.target
      else { s with mem := Memory.clear s.mem (nearBase s stack + d.target * 2 ^ 28) ((d.ways - d.target) * 2 ^ 28) }
    some (d.busy && !layerBusy s stack (layerLines s stack d.ways d.target), setDcctl s1 stack { d with ways := d.target, busy := false })
  | .refresh stack bank =>
    let due := s.hub.timebase.toNat * 8192 / 32000000
    let had := refreshesHad s stack bank
    some (decide (had < due),
      if 8 < due - had then (List.range 4).foldl (fun s k => setRefreshed s stack (bank / 4 * 4 + k) due) s
      else setRefreshed s stack bank (had + 1))
  | .hotRowCapture stack row =>
    let s1 := s.modTiers fun t => { t with hotDue := t.hotDue.filter (· != (stack, row)) }
    some (s.tiers.hotDue.contains (stack, row),
      if (s.tiers.hotRows.filter (·.1 == stack)).length < 4096 then
        (List.range 8).foldl (fun s k => allocLayer s stack (8 * row + k))
          (s1.modTiers fun t => { t with hotRows := t.hotRows ++ [(stack, row)] })
      else s1.modTiers fun t => { t with
        rowAct := t.rowAct.erase (rowKey stack row), rowRefreshed := (neighbours row).foldl (refreshRow stack) t.rowRefreshed })
  | .refreshWindowEnd stack => some (decide (windowEnd s stack ≤ s.hub.timebase.toNat), s.modTiers fun t => { t with
      hotRows := t.hotRows.filter (·.1 != stack), rowAct := t.rowAct.keep fun k _ => k / 2 ^ 32 != stack
      hotDue := t.hotDue.filter (·.1 != stack)
      windowAt := t.windowAt.set stack ((s.hub.timebase.toNat / 32000000 + 1) * 32000000) })
  | .heapInit a => some (s.hall.heapInit.contains a,
      initHeap (s.modHall fun h => { h with heapInit := h.heapInit.filter (· != a) }) a)
  | .mctlHalt on => some (true, s.modMgmt fun m => { m with halt := on })
  | .mctlMigen on =>
    let s1 := s.modMgmt fun m => { m with migen := on }
    some (true, if on && !s.mgmt.migen then s1.modTiers fun t => { t with
        epochAt := (List.range 4).foldl (fun e d => e.set (4 * s.pos + d) (s.hub.timebase.toNat + 1000000)) t.epochAt }
      else s1)
  | .pwrAllowWrite watts => some (true, s.modMgmt fun m => { m with
      pwrAllow := BitVec.ofNat 16 (Nat.max 200 (Nat.min 1600 watts)) })
  | .powerGrantSend port watts => some (decide (port < 16) && decide (s.mgmt.pwrFloor.toNat + watts ≤ s.mgmt.pwrAllow.toNat),
      countFabric { s.modMgmt fun m => { m with pwrAllow := BitVec.ofNat 16 (m.pwrAllow.toNat - watts) } with
        fabricOut := s.fabricOut ++ [.grant port watts] } evFabTx)
  | .powerGrantReceive port watts => some (decide (port < 16),
      countFabric (s.modMgmt fun m => { m with pwrAllow := BitVec.ofNat 16 (Nat.min 1600 (m.pwrAllow.toNat + watts)) }) evFabRx)
  | .operatingPointChange need => some (!pointDue s,
      if workRuns s then s.modMgmt fun m => { m with
        pointNext := some (Nat.min (governed s) (Nat.max 6 need), (s.hub.timebase.toNat / 100000 + 1) * 100000) }
      else { s with free := s.free + 1, mgmt := { s.mgmt with
        point := governed s, pwrDraw := Config.draw s.free (governed s), pointNext := none } })
  | .thermalLimit degrees => some (true,
      if 115 ≤ degrees then resetModule s
      else if 105 ≤ degrees then s.modMgmt fun m => { m with point := 6, hot := true }
      else s.modMgmt fun m => { m with hot := false })
  | .moduleReset => some (true, resetModule s)
  | .bringUpStep f ⟨pos, answer⟩ => some (!s.mgmt.ready && !s.mgmt.bootStopped,
      let r := bringUp s f pos answer (s.mgmt.step + 1)
      if r.2 then r.1.modMgmt fun x => { x with step := s.mgmt.step + 1 } else r.1)
  | .resync => match takeRequest 0x52 s.hub.resync with
    | some (x, rest) =>
      let r := summary (startRound s)
      some (true, { hostWrite (s.modHub fun h => { h with resync := rest }) (bitsOf x.toNat 64 64)
          (if bitsOf x.toNat 128 32 < r.1.length + r.2.length then r.1 else r.1 ++ r.2) with hostOut := s.hostOut ++ [0] })
    | none => none
  | .attestation => match takeRequest 0x41 s.hub.resync with
    | some (x, rest) =>
      let report := natToBytes 8 Config.fuseId.toNat ++ natToBytes 16 (bitsOf x.toNat 128 128) ++
        (s.mgmt.images.flatMap fun d => natToBytes 64 d.toNat) ++ natToBytes 2 Config.enabledVfs ++
        fabBytes s ++ ((List.range 132).map fun k => Config.signatureByte (s.free + k))
      some (true, { hostWrite (s.modHub fun h => { h with resync := rest }) (bitsOf x.toNat 64 64) (report.take 512) with
        free := s.free + 132 })
    | none => none
  | _ => none

/-! ### Frames -/

/-- The registers, latches, tile registers and control registers of a context are the same. -/
structure SameRegisters (x y : Arch) : Prop where
  scalars : y.s = x.s
  vectors : y.v = x.v
  predicates : y.p = x.p
  latches : y.iq = x.iq ∧ y.fq = x.fq ∧ y.aq = x.aq ∧ y.bq = x.bq ∧ y.xq = x.xq
  tiles : y.tiles = x.tiles
  patterns : y.pattern = x.pattern
  flags : y.fflags = x.fflags
  modes : y.fmode = x.fmode ∧ y.cctl = x.cctl ∧ y.xpctl = x.xpctl ∧ y.rqctl = x.rqctl ∧ y.rqseed = x.rqseed ∧ y.tcbase = x.tcbase

/-- Nothing outside the contexts is different but what counters write: the memory, the caches, the queues and every unit. -/
structure SameOutside (s t : State) : Prop where
  memory : t.mem = s.mem
  caches : t.cores = s.cores ∧ t.homes = s.homes ∧ t.dieTlb = s.dieTlb ∧ t.recCache = s.recCache
  units : t.transfers = s.transfers ∧ t.pred = s.pred ∧ t.jobs = s.jobs ∧ t.hall = s.hall ∧ t.mgmt = s.mgmt ∧ t.tiers = s.tiers ∧
    t.chans = s.chans
  hub : t.hub = { s.hub with mail := t.hub.mail, pmDefer := t.hub.pmDefer }
  outside : t.fabricOut = s.fabricOut ∧ t.hostOut = s.hostOut ∧ t.hostIn = s.hostIn ∧ t.pos = s.pos

/-- The byte at `a` that core `k`'s L1 holds. -/
def l1Byte (s : State) (k a : Nat) : Option Byte := match l1Line s k (a / 128) with
  | some x => if x.valid.getLsbD (a % 128) then some (lineByte x.data (a % 128)) else none
  | none => none
/-- The byte at `a` is dirty in core `k`'s L1. -/
def l1Dirty (s : State) (k a : Nat) : Bool := match l1Line s k (a / 128) with
  | some x => x.dirty.getLsbD (a % 128)
  | none => false
/-- Core `k`'s L1 takes the bytes `l` without an eviction: it has their lines, or they are of one line and its set has room. -/
def L1Takes (s : State) (k : Nat) (l : List (Nat × Byte)) : Prop :=
  (∀ p ∈ l, (l1Line s k (p.1 / 128)).isSome = true) ∨
    ∃ line, (∀ p ∈ l, p.1 / 128 = line) ∧ (l1Set s k line).length < Config.l1Ways


end Sys2Proof.Claims

open Sys2Proof Sys2Proof.Machine Sys2Proof.Claims

/-! ### Encoding -/

/-- Decoding the encoding of a well-formed operation gives it back, with every operand (spec 03, R24, R30, R61). -/
def Obligations.DecodeEncode : Prop :=
  ∀ (i : Instr) (k : Slot), slotOf i = some k → wellFormed i = true → decodeSlot k (encode i) = .op i

/-! ### Scalar integer -/

/-- The operations of R75 and R76 on two sources complete with the value of their table, modulo 2^N, in sd and in iq at c+1. -/
def Obligations.IntegerOfTwo : Prop :=
  ∀ i a f s b, intTwo i = some (a, f) → wellFormed i = true → CanIssue s b →
    Completes i .s (readsS a [a.a, a.b])
      (scalarLands s a ((f (sizeBits a.size) (arg s a a.a) (arg s a a.b)).zeroExtend 64)) s

/-- The operations of R75 to R77 and R79 on one source complete with the value of their table in sd and in iq at c+1. -/
def Obligations.IntegerOfOne : Prop :=
  ∀ i a f s b, intOne i = some (a, f) → wellFormed i = true → CanIssue s b →
    Completes i .s (readsS a [a.a]) (scalarLands s a ((f (sizeBits a.size) (arg s a a.a)).zeroExtend 64)) s

/-- `bext`, `bins`, `lih` and `lea` complete with the value that R77 and R79 give; an immediate b of `lea` takes shift 0 whatever the size field
(log 143). -/
def Obligations.FieldsAndAddresses : Prop :=
  ∀ i a l v s b, fieldValue s i = some (a, l, v) → wellFormed i = true → CanIssue s b →
    Completes i .s (readsS a l) (scalarLands s a v) s

/-- `sel` writes the source that its predicate selects, and is never disabled (R72, R79). -/
def Obligations.Select : Prop :=
  ∀ a s b, wellFormed (.sel a) = true → CanIssue s b →
    let v := (arg s a (if enabledS (s.ctx s.cur).arch a.pred a.neg then a.a else a.b)).zeroExtend 1024
    Completes (.sel a) .s (readsS a [a.a, a.b]) (landPort a.dst 1 v ++ [landLatch .iq 1 v]) s


/-! ### Predicates and floating point -/

/-- The predicate operations complete with their value in all 128 bits, and iq takes bits [63:0] (R73, R85). -/
def Obligations.PredicateOperations : Prop :=
  ∀ i a l v s b, predValue (s.ctx s.cur).arch i = some (a, l, v) → wellFormed i = true → CanIssue s b →
    Completes i .s (readsS a l)
      (if enabledS (s.ctx s.cur).arch a.pred a.neg then
        landPort a.dst 1 (v.zeroExtend 1024) ++ [landLatch .iq 1 ((v.extractLsb' 0 64).zeroExtend 1024)] else []) s

/-- The scalar floating-point operations complete with their value and flags at their latency; the special functions enter no
latch (R39, R73, R80, R82, R84). -/
def Obligations.FloatOperations : Prop :=
  ∀ i a lat q l v s b, floatValue (s.ctx s.cur).arch i = some (a, lat, q, l, v) → wellFormed i = true → CanIssue s b →
    Completes i .s (readsS a l) (floatLands (s.ctx s.cur).arch a lat q v) s

/-- `fcvt` converts from the type U to the type T that imm23 names, in the rounding mode that it names (R83). -/
def Obligations.FloatConversion : Prop :=
  ∀ a t u s b, wellFormed (.fcvt a) = true → CanIssue s b →
    ETy.ofCode (a.imm.extractLsb' 0 4) = some t → ETy.ofCode (a.imm.extractLsb' 4 4) = some u →
    let r := (s.ctx s.cur).arch
    let x := if u.isInt then (srcS r a a.a).toNat % 2 ^ u.bits
      else floatSource r a (ffmt u) (if u == .bf16 then 0 else 1) a.a
    Completes (.fcvt a) .s (readsS a [a.a]) (floatLands r a 4 true (convert t u (modeOf r (a.imm.extractLsb' 8 3)) x)) s

/-- The compares and the predicate tests complete at c+1 with their truth, in a predicate as 128 copies, and with the flags of a
floating-point compare (R78, R81, R85). -/
def Obligations.Compares : Prop :=
  ∀ i a l t fl s b, comparison s i = some (a, l, t, fl) → wellFormed i = true → CanIssue s b →
    Completes i .s (readsS a l) (compareLands s a t fl) s

/-! ### Transfers of control and loops -/

/-- An enabled `br`, `jmp`, `call` or `ret` whose target is aligned is taken: the target is pending and the bundle at pc + 64
comes next; one that is not enabled does nothing (R86, R87). -/
def Obligations.Transfers : Prop :=
  ∀ i a link s b, transfers i = some (a, link) → wellFormed i = true → CanIssue s b →
    let x := s.ctx s.cur
    (enabledS x.arch a.pred a.neg = true → x.arch.target = none → (target x a).toNat % 64 = 0 →
      Fits s (readsS a [a.a]) (linkLands x a link) →
      ∃ t, exec i s = .next t ∧ Ends (some (target x a).toNat) s.cur (land s s.cur .s (linkLands x a link)) t) ∧
    (enabledS x.arch a.pred a.neg = false → Completes i .s (readsS a [a.a]) [] s)

/-- An enabled transfer to a target that is not a multiple of 64 raises ALIGN at its own issue, and an enabled one in the delay
bundle of another raises ILLSCHED; neither bundle does anything else (R86, R88). -/
def Obligations.TransferFaults : Prop :=
  ∀ i a link s b, transfers i = some (a, link) → wellFormed i = true → CanIssue s b →
    let x := s.ctx s.cur
    enabledS x.arch a.pred a.neg = true →
    (x.arch.target = none → (target x a).toNat % 64 ≠ 0 → Fits s (readsS a [a.a]) (linkLands x a link) →
      exec i s = .next (takeTrap s s.cur (causeAt s s.cur .s .align (target x a).toNat))) ∧
    (x.arch.target ≠ none →
      exec i s = .next (takeTrap s s.cur (Cause.plain .illsched (some .s) x.pc x.arch.cc 0)))

/-- The bundle after a taken transfer goes on at the target: an operation of the scalar, vector or crossbar slot that issues there with no
trap leaves the context at the target, with no target pending (R23, R87). -/
def Obligations.DelayBundle : Prop :=
  ∀ i f k s b u, slotOp i = some f → slotOf i = some k → resultSlot k = true → wellFormed i = true → CanIssue s b →
    (f s.cur s).waits = none → issueTrap s.cur {} [f s.cur s] s = none → (s.ctx s.cur).arch.target = some u →
    ∃ t, exec i s = .next t ∧ (t.ctx s.cur).pc = u % 2 ^ 64 ∧ (t.ctx s.cur).arch.target = none

/-- An enabled `loop` with a count other than 0 pushes an entry that starts at pc + 64, and a fifth raises ILLSCHED; with 0 it pops
the innermost entry; one that is not enabled does nothing (R89). -/
def Obligations.Loop : Prop :=
  ∀ a s b, wellFormed (.loop a) = true → CanIssue s b → Fits s (readsS a [a.a]) [] →
    let x := s.ctx s.cur
    let n := (arg s a a.a).toNat
    let on := enabledS x.arch a.pred a.neg
    let l := if on = false then x.arch.loops
      else if n = 0 then x.arch.loops.tail else { start := x.pc + 64, remaining := n } :: x.arch.loops
    (¬(on = true ∧ n ≠ 0 ∧ x.arch.loops.length = 4) →
      ∃ t, exec (.loop a) s = .next t ∧ Ends none s.cur (s.modArch s.cur fun r => { r with loops := l }) t) ∧
    (on = true → n ≠ 0 → x.arch.loops.length = 4 →
      exec (.loop a) s = .next (takeTrap s s.cur (causeAt s s.cur .s .illsched 0)))

/-- A bundle that carries the L bit ends the innermost loop: it goes back to the start of the body while passes remain, and
else pops the entry and goes on; with an empty loop stack it raises ILLSCHED (R90). -/
def Obligations.LoopBack : Prop :=
  ∀ s c b, (s.ctx c).run = some b → (s.ctx c).freeze = none → (s.ctx c).arch.target = none →
    ((s.ctx c).arch.wtb.filter (·.load)).length ≤ Config.landingMax → (s.ctx c).withheld.length ≤ Config.withholdMax →
    let t := issueBundle c { lend := true } [] s
    (∀ e r, (s.ctx c).arch.loops = e :: r → 1 < e.remaining → (t.ctx c).pc = e.start % 2 ^ 64 ∧
      (t.ctx c).arch.loops = { e with remaining := e.remaining - 1 } :: r) ∧
    (∀ e r, (s.ctx c).arch.loops = e :: r → e.remaining ≤ 1 → (t.ctx c).pc = ((s.ctx c).pc + 64) % 2 ^ 64 ∧
      (t.ctx c).arch.loops = r) ∧
    ((s.ctx c).arch.loops = [] → t = takeTrap s c (Cause.plain .illsched none (s.ctx c).pc (s.ctx c).arch.cc 0))

/-! ### Control registers -/

/-- `getc` completes with the register's value at issue in sd and in iq; JOBSEL needs the supervisor bit.  A read of LENERGY takes
one more free value, since the spec gives no figure for the energy (R91, R361, R375; log 11). -/
def Obligations.ControlRead : Prop :=
  ∀ a s b, wellFormed (.getc a) = true → CanIssue s b → (cregNo a = 0x0F0 → b.sup = true) →
    let l := scalarLands s a (readControl s s.cur (cregNo a))
    Fits s (readsS a []) l →
    ∃ t, exec (.getc a) s = .next t ∧ Ends none s.cur
      (let s1 := land s s.cur .s l
       if cregNo a = 0x058 ∧ enabledS (s.ctx s.cur).arch a.pred a.neg = true then { s1 with free := s1.free + 1 } else s1) t

/-- `setc` to a register that its bead may write completes: the value, with the job that a J register belongs to, lands at c+1
(R91, R361). -/
def Obligations.ControlWrite : Prop :=
  ∀ a s b, wellFormed (.setc a) = true → CanIssue s b → ¬readOnlyRegister (cregNo a) →
    (jobRegister (cregNo a) ∨ cregNo a = 0x0F0 → b.sup = true) →
    Completes (.setc a) .s (readsS a [a.a])
      (if enabledS (s.ctx s.cur).arch a.pred a.neg then
        [landLatch (.creg (a.imm.extractLsb' 0 12)) 1
          (BitVec.ofNat 1024 ((srcS (s.ctx s.cur).arch a a.a).toNat + controlJob s s.cur * 2 ^ 64))] else []) s

/-- A `setc` to a read-only register raises PRIV in every bead, and one to a J register or JOBSEL in a bead that is not a
supervisor, whatever its enable (R58, R361). -/
def Obligations.ControlWritePrivilege : Prop :=
  ∀ a s b, wellFormed (.setc a) = true → CanIssue s b → NoEarlyRead (s.ctx s.cur).arch (readsS a [a.a]) →
    (readOnlyRegister (cregNo a) ∨ ((jobRegister (cregNo a) ∨ cregNo a = 0x0F0) ∧ b.sup = false)) →
    exec (.setc a) s = .next (takeTrap s s.cur (causeAt s s.cur .s .priv 0))

/-! ### Vector and crossbar -/

/-- Every vector operation completes with the results of its lanes, and pops the random queue once if it names rq; `vsig` needs
a predictor table that is bound to its job.  Compares, selections, conversions, scalings, reductions, lane moves and signatures land the
values of their tables; those of the integer and floating-point lanes have statements of their own (R36, R93 to R109). -/
def Obligations.VectorOperations : Prop :=
  ∀ i f k s b, slotOp i = some f → slotOf i = some k → (k = .va ∨ k = .vb) → wellFormed i = true → CanIssue s b →
    (∀ a, i = .vsig a → boundHere s s.cur ((readScalar (s.ctx s.cur).arch 0 a.b).toNat % 64) = true) →
    Fits s (f s.cur s).reads (f s.cur s).lands →
    VectorLands s i (f s.cur s).lands ∧ ∃ t, exec i s = .next t ∧ Ends none s.cur (vectorEffect s k (f s.cur s)) t

/-- The integer lane operations compute each enabled lane by the table of R102; the latch takes zero in disabled lanes and above
the width, and the register keeps its bits there (R93, R95, R97, R98, R102). -/
def Obligations.VectorIntegerLanes : Prop :=
  ∀ i a f g s, laneTwo i = some (a, g) → slotOp i = some f → wellFormed i = true →
    let r := (s.ctx s.cur).arch
    let n := a.ety.bits
    ∃ v m : VReg, (f s.cur s).lands = landPort a.dst 2 v m ++ [landLatch (latchV a.unit) 2 v] ∧
      (∀ j, j < widthV a / n → lane v n j =
        (if enabledLane r a n j then g n (laneOf r a a.a j) (laneOf r a a.b j) else 0)) ∧
      (∀ j, j < widthV a / n → lane m n j = (if enabledLane r a n j then BitVec.allOnes n else 0)) ∧
      ∀ k, widthV a ≤ k → v.getLsbD k = false ∧ m.getLsbD k = false

/-- The floating-point lane operations compute each enabled lane, and raise the flags of all enabled lanes; disabled lanes take no
part (R93, R95, R96, R98, R99, R101, R106). -/
def Obligations.VectorFloatLanes : Prop :=
  ∀ i a lat q f g s, laneFloat (s.ctx s.cur).arch i = some (a, lat, q, f) → slotOp i = some g → wellFormed i = true →
    let r := (s.ctx s.cur).arch
    let n := a.ety.bits
    let res (j : Nat) : Nat × Flags := f (laneNat r a a.a j) (laneNat r a a.b j) (laneNat r a a.c j)
    ∃ v m : VReg, (g s.cur s).lands = landPort a.dst lat v m ++ (if q then [landLatch (latchV a.unit) lat v] else []) ++
        landFlags lat (allFlags (enabledLane r a n) (fun j => (res j).2) (widthV a / n)) ∧
      (∀ j, j < widthV a / n → lane v n j = (if enabledLane r a n j then BitVec.ofNat n (res j).1 else 0)) ∧
      (∀ j, j < widthV a / n → lane m n j = (if enabledLane r a n j then BitVec.allOnes n else 0)) ∧
      ∀ k, widthV a ≤ k → v.getLsbD k = false ∧ m.getLsbD k = false

/-- `xmov`, `xrot`, `xshuf`, `xbcast`, `xzip` and `xunzip` complete at c+2 with the lanes that R110 gives; the register keeps its
bits above the width, and xq has zeros there. -/
def Obligations.CrossbarLanes : Prop :=
  ∀ i a σ s b, crossLane i = some (a, σ) → wellFormed i = true → CanIssue s b →
    let n := widthX a / 32
    let x := readVector (s.ctx s.cur).arch a.src
    ∃ v : VReg,
      (∀ j, j < n → lane v 32 j = lane x 32 (σ n j)) ∧ (∀ k, widthX a ≤ k → v.getLsbD k = false) ∧
      Completes i .x (readCodes a.src)
        (landPort a.dst 2 v (BitVec.ofNat 1024 (2 ^ widthX a - 1)) ++ [landLatch .xq 2 v]) s

/-- `xperm` completes with the lane that its pattern aims at each lane, and zero where none is aimed; a pattern that aims two lanes
at one, or whose reserved bits are set, raises ILLSCHED (R56, R111, R112). -/
def Obligations.CrossbarPattern : Prop :=
  ∀ a s b, wellFormed (.xperm a) = true → CanIssue s b →
    let n := lanesX a
    let r := (s.ctx s.cur).arch
    let bytes := (List.range n).map (patternByte r a)
    let x := readVector r a.src
    let bad : Prop := (∃ j, j < n ∧ patternV (bytes.getD j 0) = true ∧ bytes.getD j 0 / 32 % 4 ≠ 0) ∨
      ∃ j k, j < k ∧ k < n ∧ patternV (bytes.getD j 0) = true ∧ patternV (bytes.getD k 0) = true ∧
        patternDest (bytes.getD j 0) = patternDest (bytes.getD k 0) ∧ patternDest (bytes.getD j 0) < n
    (¬bad →
      ∃ v : VReg,
        (∀ i, i < n → ∀ j, j < n → patternV (bytes.getD j 0) = true → patternDest (bytes.getD j 0) = i →
          lane v 32 i = lane x 32 j) ∧
        (∀ i, i < n → (∀ j, j < n → ¬(patternV (bytes.getD j 0) = true ∧ patternDest (bytes.getD j 0) = i)) → lane v 32 i = 0) ∧
        (∀ k, widthX a ≤ k → v.getLsbD k = false) ∧
        Completes (.xperm a) .x (readCodes a.src)
          (landPort a.dst 2 v (BitVec.ofNat 1024 (2 ^ widthX a - 1)) ++ [landLatch .xq 2 v]) s) ∧
    (bad → exec (.xperm a) s = .next (takeTrap s s.cur (causeAt s s.cur .x .illsched 0)))


/-! ### The matrix array -/

/-- Every operation of the matrix slot whose checks pass completes with the effect of its entry: the array, and one withheld entry
where it writes a tile or invalidates a bank (R135, R137, R138, R168 to R174, R189 to R191).  That an abandoned tile pushes zeros is the
model's reading (log 49), and that a row's last byte keeps the bits which its elements do not fill the model's choice (log 31). -/
def Obligations.MatrixOperations : Prop :=
  ∀ i f e s b, matrixEffect s i = some e → slotOp i = some f → wellFormed i = true → CanIssue s b → Allowed s (f s.cur s) →
    Acts i s e

/-- An operation that names accumulator rows or a bank outside the halves that its context owns raises ILLENC (R162).
That ILLENC comes ahead of the ILLSCHED of a context that owns no half is the model's reading (log 109, from R58). -/
def Obligations.OutsideOwnedHalves : Prop :=
  ∀ s b, CanIssue s b → ∀ a,
    (wellFormed (.mclear a) = true →
      (∃ r, a.row.toNat ≤ r ∧ r ≤ a.row.toNat + a.imm.toNat ∧ ownsRow (arrayOf s s.cur) (slotNo s.cur) r = false) →
      exec (.mclear a) s = .next (takeTrap s s.cur (causeAt s s.cur .mx .illenc 0))) ∧
    (wellFormed (.mbinv a) = true → ownsBank (arrayOf s s.cur) (slotNo s.cur) a.mode.toNat = false →
      exec (.mbinv a) s = .next (takeTrap s s.cur (causeAt s s.cur .mx .illenc 0)))

/-! ### Loads, stores and atomics -/

/-- Every load whose checks pass completes: it queues its read, and its landing entry is due D context cycles on (R45, R47, R207,
R229, R230).
That a vector or gather load with no enabled lane does nothing is the model's reading (log 35). -/
def Obligations.Loads : Prop :=
  ∀ i f e s b, loadEffect s i = some e → slotOp i = some f → wellFormed i = true → CanIssue s b → Allowed s (f s.cur s) →
    Acts i s e

/-- `pref` completes without a trap, whatever its address: it brings a line that a load could read, and changes nothing where a
load would trap (R234).  An enabled one waits while a `phase` of the core's other context is pending (R250). -/
def Obligations.Prefetch : Prop :=
  ∀ a s b, wellFormed (.pref a) = true → CanIssue s b → NoDrain (s.ctx s.cur) →
    (enabledS (s.ctx s.cur).arch a.pred a.neg = true → phaseHolds s s.cur = false) →
    NoEarlyRead (s.ctx s.cur).arch (reading a.pred [a.base, a.index]) →
    Acts (.pref a) s fun t =>
      if enabledS (s.ctx s.cur).arch a.pred a.neg then prefetch t s.cur (eaL (s.ctx s.cur).arch a 128) a.hint else t

/-- Every atomic whose checks pass completes: it is withheld with its operands, and no memory changes (R208, R235, R236). -/
def Obligations.Atomics : Prop :=
  ∀ i f e s b, atomicEffect s i = some e → slotOp i = some f → wellFormed i = true → CanIssue s b → Allowed s (f s.cur s) →
    Acts i s e

/-- Every store whose checks pass completes: its bytes are withheld, at their physical addresses, and no memory changes (R196,
R231 to R233, R334). -/
def Obligations.Stores : Prop :=
  ∀ i f e s b, storeEffect s i = some e → slotOp i = some f → wellFormed i = true → CanIssue s b → Allowed s (f s.cur s) →
    Acts i s e

/-- An enabled `ld` whose address is not a multiple of its size raises ALIGN at that address, and one that is aligned and not mapped
raises XLATE at its first unmapped address, once the walk for it has read its entries; where the walk for that address meets a page-table line that its home does not serve, or whose data
is bad, the trap is that line's, with its entry in the fault log (R227; log 146). -/
def Obligations.LoadFaults : Prop :=
  ∀ a s b, wellFormed (.ld a) = true → CanIssue s b → NoDrain (s.ctx s.cur) →
    let r := (s.ctx s.cur).arch
    let n := 2 ^ a.size.toNat
    let va := eaL r a n
    enabledS r a.pred a.neg = true → 10 ≤ arrivalD a.dist →
    (r.wtb.filter (·.load)).length < Config.landingMax →
    NoEarlyRead r (reading a.pred [a.base, a.index]) →
    NoCollision r ((destOf a.dst).toList.map fun d => (d, r.cc + arrivalD a.dist)) →
    (va % n ≠ 0 → exec (.ld a) s = .next (takeTrap s s.cur (causeAt s s.cur .ld .align va))) ∧
    (∀ x, va % n = 0 → translateRange s (coreOf s.cur) (jobOf s s.cur) va n = .inl x →
      (leaf s (coreOf s.cur) (jobOf s s.cur) x).isSome = true ∨ walkFault s (jobOf s s.cur) x = none →
      exec (.ld a) s = .next (takeTrap (pageWalk s s.cur x) s.cur (causeAt s s.cur .ld .xlate x))) ∧
    (∀ x code line, va % n = 0 → translateRange s (coreOf s.cur) (jobOf s s.cur) va n = .inl x →
      leaf s (coreOf s.cur) (jobOf s s.cur) x = none → walkFault s (jobOf s s.cur) x = some (code, line) →
      exec (.ld a) s = .next (bundleTrap s s.cur
        { causeAt s s.cur .ld code x with log := s.mgmt.flogN, line := some line }))

/-! ### Tiles -/

/-- Every enabled operation that starts a tile transfer completes: the transfer, with its pieces, enters the tile queue; one that is
not enabled does nothing (R211, R240, R241, R245, R247, R280, R384). -/
def Obligations.TileTransfers : Prop :=
  ∀ i f on pre x s b, startedTransfer s i = some (on, pre, x) → slotOp i = some f → wellFormed i = true → CanIssue s b →
    Allowed s (f s.cur s) → loadFailure s i = none →
    Acts i s (if on then fun u => startTransfer (pre u) x else id)

/-- A speculative tile load whose memory cannot be read takes no trap: its register keeps the record of the failure as its abandon
mark, its failing address has been walked, and nothing is transferred (R182, R183, R266). -/
def Obligations.SpeculativeTileLoad : Prop :=
  ∀ i f a code va s b, tileLoad i = some a → slotOp i = some f → wellFormed i = true → CanIssue s b → Allowed s (f s.cur s) →
    enabledS (s.ctx s.cur).arch a.pred a.neg = true → loadFailure s i = some (code, va) →
    Acts i s fun u => (walkFailed s.cur code va (recordRead s i u)).modArch s.cur fun r => setTReg r (tileNo a.dst) { tReg r (tileNo a.dst) with
      abandoned := some { pc := (s.ctx s.cur).pc, slot := .ld, code := code, addr := va } }

/-- Every enabled tile store, `append`, `tcmp`, `tsrf`, `chsend` and `post` whose checks pass completes: it is withheld as one
entry (R232, R242, R244, R247, R249, R353, R355). -/
def Obligations.TileEntries : Prop :=
  ∀ i f on pre x pins s b, tileEntry s i = some (on, pre, x, pins) → slotOp i = some f → wellFormed i = true → CanIssue s b →
    Allowed s (f s.cur s) → Acts i s (if on then fun u => withhold (pre u) s.cur (entrySlot i) (x u) pins else id)

/-- An enabled `tdef` whose image and region are legal completes: the register takes the 16 bytes at Sa and the base Sb, and is not
abandoned (R136, R239). -/
def Obligations.DefineTile : Prop :=
  ∀ a s b, wellFormed (.tdef a) = true → CanIssue s b → Allowed s (opTdef a s.cur s) →
    let r := (s.ctx s.cur).arch
    let sa := (readScalar r 0 a.a).toNat
    let segs := segsOf (framesFor s .load 16 sa 16) sa 16 0
    let t : TileReg := { defined := true, image := BitVec.ofNat 128 (issueRead s s.cur segs).1, base := readScalar r 0 a.b,
                         abandoned := none }
    Acts (.tdef a) s (if enabledS r a.pred false then
      fun u => (issueRead u s.cur segs).2.modArch s.cur fun r => setTReg r (tileNo a.dst) t else id)

/-- A `phase` in a checkpoint bundle completes: the core's L1 is pushed and emptied, the new split lands D context cycles on, and
until then the context is in its drain window (R250). -/
def Obligations.MoveSplit : Prop :=
  ∀ a s b, wellFormed (.phase a) = true → CanIssue s b →
    let k := coreOf s.cur
    let cc := (s.ctx s.cur).arch.cc
    let d := (a.imm.extractLsb' 8 8).toNat
    let m := metState s.cur { ckpt := true } s
    (opPhase a s.cur m).waits = none →
    issueTrap s.cur { ckpt := true } [opPhase a s.cur m] m = none →
    ∃ t, exec (.phase a) s = .next t ∧ Ends none s.cur
      (let s1 := checkpoint s s.cur (s.ctx s.cur).pc
       let s2 := land s1 s.cur .tm []
       ((dropLines (pushAll s2 k) k (l1Lines s2 k)).modCore k fun x =>
         { x with phase := some ((a.imm.extractLsb' 0 3).toNat, s.cur, cc + d) }).modCtx s.cur fun x =>
           { x with phaseWin := some (cc, cc + d) }) t

/-! ### Hallmarks and the system slot -/

/-- Every hallmark mutation whose checks pass completes: it is withheld as one entry, with the landing entry of `hmswap`; one that is
not enabled does nothing (R277 to R279, R281, R282, R298, R299). -/
def Obligations.HallmarkMutations : Prop :=
  ∀ i f on l d x pins s b, hallmarkEntry s i = some (on, l, d, x, pins) → slotOp i = some f → wellFormed i = true →
    CanIssue s b → Allowed s (f s.cur s) → Acts i s (if on then withholdResult s .tm l d x pins else id)

/-- Every form of `hmstat` whose checks pass completes as a load whose data is due D context cycles on (R203, R300). -/
def Obligations.HallmarkStatus : Prop :=
  ∀ i f a pre x s b, statusRead s i = some (a, pre, x) → slotOp i = some f → wellFormed i = true → CanIssue s b →
    Allowed s (f s.cur s) →
    Acts i s (if enabledS (s.ctx s.cur).arch a.pred false then
      fun u => startRead s.cur .tm (arrivalD (a.imm.extractLsb' 0 8)) ((destOf a.dst).toList.map fun d => (d, BitVec.allOnes 1024))
        (x u) (pre u) else id)

/-- Every other withheld operation of the system slot whose checks pass completes: one entry joins the withhold buffer, and nothing
else happens until a checkpoint (R187, R188, R196, R199, R252, R345, R350, R352, R354, R357 to R359). -/
def Obligations.SystemEntries : Prop :=
  ∀ i f a l d x pins s b, systemEntry s i = some (a, l, d, x, pins) → slotOp i = some f → wellFormed i = true → CanIssue s b →
    Allowed s (f s.cur s) →
    Acts i s (if enabledS (s.ctx s.cur).arch a.pred false then withholdResult s .sy l d x pins else id)

/-- `eplook` lands the predictor entry at c+8 when its table is bound to the bead's job (R186).  That the entry is read at issue is the
model's choice (log 138). -/
def Obligations.PredictorLookup : Prop :=
  ∀ a s b, wellFormed (.eplook a) = true → CanIssue s b → boundHere s s.cur (a.imm.toNat % 64) = true →
    let r := (s.ctx s.cur).arch
    Completes (.eplook a) .sy (reading a.pred [a.b])
      (if enabledS r a.pred false then
        landPort a.a 8 ((predEntry (predictor s s.cur (a.imm.toNat % 64)) ((readScalar r 0 a.b).toNat % 4096)).zeroExtend 1024)
        else []) s

/-- `mark` completes with one drift record, and sets TRARM at the next context cycle when the drift exceeds the job's threshold
(R351, R368, R370). -/
def Obligations.Mark : Prop :=
  ∀ a s b, wellFormed (.mark a) = true → CanIssue s b →
    let r := (s.ctx s.cur).arch
    let v := (BitVec.ofNat 64 r.cc - srcY r a a.a).toInt
    let on := enabledS r a.pred false
    let l := if on = true ∧ ((s.job b.job).mkthr.toNat : Int) < v then [landLatch (.creg 0x003) 1 2 2] else []
    Fits s (reading a.pred [a.a]) l →
    ∃ t, exec (.mark a) s = .next t ∧ Ends none s.cur
      (let u := land s s.cur .sy l
       if on then driftRecord u s.cur b (s.ctx s.cur).pc r.cc (sat32 v) 1 0 else u) t

/-- `yield`, `wait` and `done` complete in their checkpoint bundle: the bead leaves its context once the bundle has issued, ready,
waiting or ended; one that is not enabled goes on (R317, R346 to R349). -/
def Obligations.LeavingTheContext : Prop :=
  ∀ i f a e s b, leaving s i = some (a, e) → slotOp i = some f → wellFormed i = true → CanIssue s b →
    let m := metState s.cur { ckpt := true } s
    issueTrap s.cur { ckpt := true } [f s.cur m] m = none →
    ∃ u, Ends none s.cur (checkpoint s s.cur (s.ctx s.cur).pc) u ∧
      exec i s = .next (if enabledS (s.ctx s.cur).arch a.pred false then e u else u)

/-- `trap` is opcode 0x40 with imm20 in [43:24], its predicate in [47:44] and zeros in both ports; an enabled one raises BREAK at its
own issue, whatever its number, and one that is not enabled completes with no effect (R356). -/
def Obligations.TrapInstruction : Prop :=
  (∀ a, wellFormed (.trap a) = true → encode (.trap a) = 0x40 + a.imm.toNat * 2 ^ 24 + a.pred.toNat * 2 ^ 44 ∧
    decodeSlot .sy (0x40 + a.imm.toNat * 2 ^ 24 + a.pred.toNat * 2 ^ 44) = .op (.trap a)) ∧
  ∀ a s b, wellFormed (.trap a) = true → CanIssue s b → Fits s (reading a.pred []) [] →
    (enabledS (s.ctx s.cur).arch a.pred false = true →
      exec (.trap a) s = .next (takeTrap s s.cur (causeAt s s.cur .sy .brk 0))) ∧
    (enabledS (s.ctx s.cur).arch a.pred false = false → Acts (.trap a) s id)

/-- `tlbinv`, `qset` of form 0 and `cancel` of level 4 raise PRIV in a bead that is not a supervisor (R354, R358, R359). -/
def Obligations.SupervisorOperations : Prop :=
  ∀ i f s b, supervisorOnly i = true → slotOp i = some f → wellFormed i = true → CanIssue s b → b.sup = false →
    Fits s (f s.cur s).reads [] → (s.ctx s.cur).withheld.length < Config.withholdMax →
    exec i s = .next (takeTrap s s.cur (causeAt s s.cur .sy .priv 0))

/-! ### Steps of contexts and store queues -/

/-- Each step of a context happens under its conditions with its effect: issue, merge, stall, landing, control-register writes, data
arrival, micro-traps, trap delivery, preemption, page walks and the move of the split (R23, R41, R46, R50, R51, R59, R91, R207,
R208, R250, R266, R310, R317, R337, R338, R372).  The model's choices here are those of logs 68 (a preempted bead joins the tail of its queue),
78 (delivery by rank in a step of its own), 80 (the deadline at c + D comes first), 95, 123 and 132 (a full TLB drops its oldest entry). -/
def Obligations.ContextSteps : Prop :=
  ∀ i p u s, contextStep s i = some (p, u) → p = true → exec i s = .next u

/-- Each step of a store queue performs its head under its conditions with its effect (R196, R200 to R202, R206, R209, R214, R235,
R242, R244, R249, R252, R350 to R354, R357 to R359, R383).  The model's choices here are those of logs 30, 34, 53, 86, 96, 97, 98, 141
and 166. -/
def Obligations.QueueSteps : Prop :=
  ∀ i p u s, queueStep s i = some (p, u) → p = true → exec i s = .next u

/-- Each step of a tile transfer, a cache, a home or the hallmark walker happens under its conditions with its effect (R196, R206,
R211, R219 to R225, R245, R248, R273, R281, R287, R294, R295, R299, R378, R383, R384, R389).  The model's choices here are those of logs
25, 55, 56, 58 (a flit sent again counts again), 83, 87, 89 (240 bytes a flit), 101, 103 (a send has no timeout), 104, 156, 163, 166 and
169. -/
def Obligations.MemorySteps : Prop :=
  ∀ i p u s, memoryStep s i = some (p, u) → p = true → exec i s = .next u

/-- Each step of the arbiters, the hub, the graph walkers and the communication processors happens under its conditions with its
effect (R316, R317, R319 to R329, R343, R348, R354, R372, R387, R388, R391, R402).  The model's choices here are those of logs 57, 63, 72, 73, 74, 77, 88 (free bytes at DST), 102, 115 and
161. -/
def Obligations.HubSteps : Prop :=
  ∀ i p u s, hubStep s i = some (p, u) → p = true → exec i s = .next u

/-- Each step of the base dies, of reset, bring-up, management and power happens under its conditions with its effect; a value that
the spec leaves open is a free value (R259, R260, R262, R263, R271, R272, R287, R392, R394 to R401; logs 10, 11, 43).
The model's choices here are also those of logs 40, 41 (groups of four banks), 42, 44 (the summary's layout), 59, 60, 61 (two moves an
exchange), 139 (the first epoch starts at MIGEN), 140 and 166. -/
def Obligations.DeviceSteps : Prop :=
  ∀ i p u s, deviceStep s i = some (p, u) → p = true → exec i s = .next u

/-! ### Registers, frames and landing -/

/-- s0 reads zero and p0 reads all ones, whatever they hold; a result for either, or for no port, enters no buffer, and the latch
still receives the result of an operation that names one of them, that of a compare with its flags (R32, R35, R37). -/
def Obligations.HardWired : Prop :=
  (∀ (s : State) (a : SArgs) (v : W64), a.dst = .s 0 → enabledS (s.ctx s.cur).arch a.pred a.neg = true →
    scalarLands s a v = [landLatch .iq 1 (v.zeroExtend 1024)]) ∧
  (∀ (s : State) (a : SArgs) (t : Bool) (fl : Flags), a.dst = .p 0 → enabledS (s.ctx s.cur).arch a.pred a.neg = true →
    compareLands s a t fl = [landLatch .iq 1 (if t then (BitVec.allOnes 64).zeroExtend 1024 else 0)] ++ landFlags 1 fl) ∧
  ∀ (a : Arch) (imm : W64) (lat : Nat) (v m : BitVec 1024),
    readScalar a imm (.s 0) = 0 ∧ pReg a 0 = BitVec.allOnes 128 ∧
    landPort (.s 0) lat v m = [] ∧ landPort (.p 0) lat v m = [] ∧ landPort .none lat v m = []

/-- An operation of the scalar, vector or crossbar slot that takes no trap changes no register at issue but the position of the random
queue if it names rq and the loop stack if it is `loop`; it withholds nothing, and leaves memory, every other context and every unit as
they were but for event counts and their messages (R36, R41, R43, R89, R334). -/
def Obligations.RegisterFrame : Prop :=
  ∀ i f k s b, slotOp i = some f → slotOf i = some k → resultSlot k = true → wellFormed i = true → CanIssue s b →
    (f s.cur s).waits = none → issueTrap s.cur {} [f s.cur s] s = none →
    ∃ t, exec i s = .next t ∧ SameRegisters (s.ctx s.cur).arch (t.ctx s.cur).arch ∧ SameOutside s t ∧
      (∀ d, d ≠ s.cur → t.ctx d = s.ctx d) ∧
      (t.ctx s.cur).withheld = (s.ctx s.cur).withheld ∧ (t.ctx s.cur).storeQ = (s.ctx s.cur).storeQ ∧
      (t.ctx s.cur).shadow = (s.ctx s.cur).shadow ∧ (t.ctx s.cur).ckpt = (s.ctx s.cur).ckpt ∧
      (t.ctx s.cur).reads = (s.ctx s.cur).reads ∧ (t.ctx s.cur).pendTraps = (s.ctx s.cur).pendTraps ∧
      (t.ctx s.cur).jobsel = (s.ctx s.cur).jobsel ∧
      ((f s.cur s).rq = false → (t.ctx s.cur).arch.rqpos = (s.ctx s.cur).arch.rqpos ∧
        (t.ctx s.cur).arch.rqaddr = (s.ctx s.cur).arch.rqaddr) ∧
      ((∀ a, i ≠ .loop a) → (t.ctx s.cur).arch.loops = (s.ctx s.cur).arch.loops)

/-- The results due land: each register, predicate and latch takes the enabled bits of its result, every other one keeps its value, and the flags
of all of them are ORed into FFLAGS; memory and the other contexts stay as they were (R19, R32, R41, R43, R54). -/
def Obligations.ResultsLand : Prop :=
  ∀ s c b, (s.ctx c).run = some b → (s.ctx c).freeze = none → (s.ctx c).unfetched = [] →
    let x := (s.ctx c).arch
    let l := x.wtb.filter fun e => decide (e.due ≤ x.cc)
    l ≠ [] → (∀ e ∈ l, cregOf e = none ∧ e.deadline = false ∧ e.waiting = false) →
    ∃ t, exec (.resultLand c) s = .next t ∧
      (∀ n : BitVec 6, (∀ e ∈ l, e.dest ≠ .s n) → sReg (t.ctx c).arch n = sReg x n) ∧
      (∀ n : BitVec 6, (∀ e ∈ l, e.dest ≠ .v n) → vReg (t.ctx c).arch n = vReg x n) ∧
      (∀ n : BitVec 4, (∀ e ∈ l, e.dest ≠ .p n) → pReg (t.ctx c).arch n = pReg x n) ∧
      (∀ (n : BitVec 6) (e : Landing), n ≠ 0 → e ∈ l → e.dest = .s n → (∀ u ∈ l, u.dest = .s n → u = e) →
        sReg (t.ctx c).arch n = merge64 (sReg x n) e) ∧
      (∀ (n : BitVec 6) (e : Landing), e ∈ l → e.dest = .v n → (∀ u ∈ l, u.dest = .v n → u = e) →
        ∀ k, (vReg (t.ctx c).arch n).getLsbD k = if e.mask.getLsbD k then e.value.getLsbD k else (vReg x n).getLsbD k) ∧
      (∀ (n : BitVec 4) (e : Landing), n ≠ 0 → e ∈ l → e.dest = .p n → (∀ u ∈ l, u.dest = .p n → u = e) →
        ∀ k, k < 128 → (pReg (t.ctx c).arch n).getLsbD k = if e.mask.getLsbD k then e.value.getLsbD k else (pReg x n).getLsbD k) ∧
      (∀ e ∈ l, e.dest = .iq → (∀ u ∈ l, u.dest = .iq → u = e) → (t.ctx c).arch.iq = merge64 x.iq e) ∧
      (∀ e ∈ l, e.dest = .fq → (∀ u ∈ l, u.dest = .fq → u = e) → (t.ctx c).arch.fq = merge64 x.fq e) ∧
      (∀ e ∈ l, e.dest = .aq → (∀ u ∈ l, u.dest = .aq → u = e) →
        ∀ k, (t.ctx c).arch.aq.getLsbD k = if e.mask.getLsbD k then e.value.getLsbD k else x.aq.getLsbD k) ∧
      (∀ e ∈ l, e.dest = .bq → (∀ u ∈ l, u.dest = .bq → u = e) →
        ∀ k, (t.ctx c).arch.bq.getLsbD k = if e.mask.getLsbD k then e.value.getLsbD k else x.bq.getLsbD k) ∧
      (∀ e ∈ l, e.dest = .xq → (∀ u ∈ l, u.dest = .xq → u = e) →
        ∀ k, (t.ctx c).arch.xq.getLsbD k = if e.mask.getLsbD k then e.value.getLsbD k else x.xq.getLsbD k) ∧
      ((∀ e ∈ l, e.dest ≠ .iq) → (t.ctx c).arch.iq = x.iq) ∧ ((∀ e ∈ l, e.dest ≠ .fq) → (t.ctx c).arch.fq = x.fq) ∧
      ((∀ e ∈ l, e.dest ≠ .aq) → (t.ctx c).arch.aq = x.aq) ∧ ((∀ e ∈ l, e.dest ≠ .bq) → (t.ctx c).arch.bq = x.bq) ∧
      ((∀ e ∈ l, e.dest ≠ .xq) → (t.ctx c).arch.xq = x.xq) ∧
      (t.ctx c).arch.fflags = l.foldl (fun w e => w ||| e.flags.zeroExtend 64) x.fflags ∧
      (t.ctx c).arch.wtb = x.wtb.filter (fun e => !decide (e.due ≤ x.cc)) ∧
      t.mem = s.mem ∧ ∀ d, d ≠ c → t.ctx d = s.ctx d

/-- The head store of a queue drains into the bytes that it names and into no other.  Bytes that no cache holds are written where they
lie; cacheable ones become dirty bytes of the core's L1, or, where the core has no L1, are written at the coherent point (R196, R206,
R232, R256). -/
def Obligations.StoredBytes : Prop :=
  ∀ s c e l ptes, MemoryInv s → (s.ctx c).storeQ.head? = some e → e.act = .store l ptes → hostStep s e = false →
    phaseHolds s c = false → drainFault s (coreOf c) ptes l = none → (∀ p ∈ l, ownMgmt s p.1 = false) →
    let k := coreOf c
    ((∀ p ∈ l, cacheable s p.1 (pteOf ptes p.1) = false) →
      ∃ t, exec (.drain c) s = .next t ∧
        t.ctx c = { s.ctx c with
          storeQ := (s.ctx c).storeQ.tail, pmcnt := (t.ctx c).pmcnt, pmctl := (t.ctx c).pmctl } ∧
        (∀ a, (∀ p ∈ l, p.1 ≠ a) → Memory.get t.mem a = Memory.get s.mem a) ∧
        (l.Pairwise (fun p q => p.1 ≠ q.1) → ∀ p ∈ l, Memory.get t.mem p.1 = p.2)) ∧
    ((∀ p ∈ l, cacheable s p.1 (pteOf ptes p.1) = true) → (s.core k).u ≠ 0 → L1Takes s k l →
      ∃ t, exec (.drain c) s = .next t ∧ t.ctx c = { s.ctx c with storeQ := (s.ctx c).storeQ.tail } ∧ t.mem = s.mem ∧
        (∀ a, (∀ p ∈ l, p.1 ≠ a) → l1Byte t k a = l1Byte s k a ∧ l1Dirty t k a = l1Dirty s k a) ∧
        (l.Pairwise (fun p q => p.1 ≠ q.1) → ∀ p ∈ l, l1Byte t k p.1 = some p.2 ∧ l1Dirty t k p.1 = true)) ∧
    ((∀ p ∈ l, cacheable s p.1 (pteOf ptes p.1) = true) → (s.core k).u = 0 →
      (∀ p ∈ l, ∀ q x, (q, x) ∈ s.cores → x.l1.get? (p.1 / 128) = none) →
      ∃ t, exec (.drain c) s = .next t ∧ (t.ctx c).storeQ = (s.ctx c).storeQ.tail ∧
        (∀ a, (∀ p ∈ l, p.1 ≠ a) → Memory.get t.mem a = Memory.get s.mem a) ∧
        (l.Pairwise (fun p q => p.1 ≠ q.1) → ∀ p ∈ l, Memory.get t.mem p.1 = p.2))

/-! ### Checkpoints and traps -/

/-- A checkpoint bundle applies the withheld invalidations, copies the shadow set, and releases every other withheld entry to the
store queue; it writes no memory and changes no other context (R163, R332). -/
def Obligations.Checkpoint : Prop :=
  ∀ s c b, (s.ctx c).run = some b → (s.ctx c).freeze = none →
    ((s.ctx c).arch.wtb.filter (·.load)).length ≤ Config.landingMax →
    let x := s.ctx c
    let t := issueBundle c { ckpt := true } [] s
    (t.ctx c).ckpt = x.pc ∧ (t.ctx c).withheld = [] ∧
    (t.ctx c).storeQ = x.storeQ ++ number x.released (x.withheld.filter fun e => match e.act with
      | .mbinv _ => false
      | _ => true) ∧
    (x.unfetched = [] → (t.ctx c).shadow = { x.arch with wtb := x.arch.wtb.map fun l => { l with deadline := false } }) ∧
    arrayOf t c = snapArray (applyMbinv (arrayOf s c) (slotNo c) x.withheld) (slotNo c) ∧
    t.mem = s.mem ∧ ∀ d, d ≠ c → t.ctx d = s.ctx d

/-- A trap waits, its context frozen, until the data of every landing of the shadow set has arrived; then the bead leaves its context with its state of the
last checkpoint saved and its withheld entries gone, its trap record and its record with STATE 3 and WOP 0 are written, and one
handler starts, or one cancel of the launch in which the bead counts is queued; other contexts keep everything but their event
counters (R310, R317, R338, R339, R373, R392). -/
def Obligations.TrapDelivery : Prop :=
  ∀ s c b x, (s.ctx c).run = some b →
    let t := takeTrap s c x
    (shadowWaits s c = true → t = (waitFrozen s c).modCtx c fun k => { k with pendTraps := k.pendTraps ++ [x] }) ∧
    (shadowWaits s c = false →
      (t.ctx c).run = none ∧ (t.ctx c).withheld = [] ∧ (t.ctx c).storeQ = (s.ctx c).storeQ ∧
      (∀ d, d ≠ c → t.ctx d = { s.ctx d with pmctl := (t.ctx d).pmctl, pmcnt := (t.ctx d).pmcnt }) ∧
      (∃ v, t.hub.saved.get? (saveKey b.job b.save) = some v ∧ v.arch = (s.ctx c).shadow ∧ v.shadow = (s.ctx c).shadow ∧
        v.ckpt = (s.ctx c).ckpt ∧ v.withheld = [] ∧ v.owed = some 0) ∧
      (∃ u, t = startHandler (setBeadWop (setBeadState (setBeadWord
          (vWrite u b.job b.save 64 (trapRecord x (s.ctx c).ckpt b.launch b.index))
          b.job b.addr 0 (s.ctx c).ckpt) b.job b.addr 3) b.job b.addr 0) c b x 0 ∧ (u.ctx c).run = none) ∧
      ((t.hub.starts = s.hub.starts ++ [.handler b.job (trapTemplate s b) (.trap b.addr b.save) none b.sup 0] ∧
          t.hub.cancels = s.hub.cancels) ∨
        (t.hub.starts = s.hub.starts ∧ t.hub.cancels = s.hub.cancels ++
          [if b.launch = 0 ∨ b.sup = true then .unit b.job b.addr else .launch (launchOf s b.job b.addr b.launch)])) ∧
      (trapTemplate s b = 0 → t.hub.starts = s.hub.starts))

/-- The fields of a trap record stand where the table gives them (R340). -/
def Obligations.TrapRecord : Prop :=
  ∀ (x : Cause) (resume launch index : Nat),
    let r := trapRecord x resume launch index
    bitsOf r 0 64 = x.pc % 2 ^ 64 ∧ bitsOf r 64 64 = resume % 2 ^ 64 ∧ bitsOf r 128 32 = x.cc % 2 ^ 32 ∧ bitsOf r 160 15 = 0 ∧
    bitsOf r 175 5 = x.aflags.toNat ∧ bitsOf r 180 4 = slotCode x.slot ∧ bitsOf r 184 8 = x.code.num ∧
    bitsOf r 192 64 = x.addr % 2 ^ 64 ∧ bitsOf r 320 16 = x.row % 2 ^ 16 ∧ bitsOf r 336 36 = 0 ∧
    (∀ l, x.load = some l → bitsOf r 256 64 = l.pc % 2 ^ 64 ∧ bitsOf r 372 8 = l.code.num ∧ bitsOf r 380 4 = l.slot.index) ∧
    (x.load = none → bitsOf r 256 64 = 0 ∧ bitsOf r 372 12 = 0) ∧
    bitsOf r 384 32 = index % 2 ^ 32 ∧ bitsOf r 416 32 = launch % 2 ^ 32 ∧ bitsOf r 448 64 = x.log % 2 ^ 64

/-- An operation whose entry refuses its encoding raises ILLENC at issue, ahead of every other trap, and has no effect (R5, R58). -/
def Obligations.IllEncoded : Prop :=
  ∀ i k s b, slotOf i = some k → wellFormed i = false → CanIssue s b →
    exec i s = .next (takeTrap s s.cur (causeAt s s.cur k .illenc 0))

/-! ### The whole machine -/

/-- When the next step is the issue of a granted, unfrozen bundle whose stall is served, and the bytes at the context's pc decode to
one operation in the bundle it needs, the step is that operation at the state with its line fetched, the corrected errors that it logs naming the context, and what has
fallen due before and after it (R20, R23, R51, R59, R384, R393). -/
def Obligations.StepRunsDecoded : Prop :=
  ∀ s c i k r pa e, s.script = .bundleIssue c :: r →
    let s0 := { expire (tick s) with script := r }
    let d := decodeBundle (bundleBits s0 (coreOf c) pa)
    moves s0 c = true → debugStops s0 c = false → stallLeft s0 c = 0 → freezeAt s0 c (opsAt s0 c) = none →
    (s0.ctx c).granted = true → fetchPlace s0 c = .inr (pa, e) → breaksAt s0 c = false →
    d.reservedBits = false → d.slots = [(k, .op i)] → slotOf i = some k →
    { early := d.early, lend := d.lend, ckpt := d.ckpt : Header } = loneHeader i →
    ∃ t, exec i { fetchLine s0 c with cur := c } = .next t ∧ step s = .next (settleDue (credit s0 (ctxActor s0 c) t))

/-- Words of the spec's own examples, one or more of each slot, decode to the operations that they stand for; a slot of zeros is empty
and an opcode of zero beside other bits is refused (R20 to R26, R30, R61). -/
def Obligations.WordsDecode : Prop :=
  decodeSlot .s 0x0001000E20104C01 = .op (.add { size := 3, dst := .s 4, a := .s 1, b := .imm, pred := 0, neg := false, imm := 128 }) ∧
  decodeSlot .s 0x0000000D00681893 =
    .op (.fcmpLe { size := 2, dst := .p 1, a := .s 6, b := .const 16, pred := 0, neg := false, imm := 0 }) ∧
  decodeSlot .s 0x00002C100E200100 = .op (.br { size := 0, dst := .s 0, a := .imm, b := .s 0, pred := 1, neg := false, imm := 22 }) ∧
  decodeSlot .va 0x001460013410F872 = .op (.vlane { unit := .a, width := 2, dst := .s 15, a := .v 1, b := .s 19, c := .s 0, pred := 6
                                                    neg := false, ety := .f32, rnd := 0, imm := 0 }) ∧
  decodeSlot .x 0x20426101 = .op (.xmov { width := 2, idx := 0, src := .v 2, dst := .v 33 }) ∧
  decodeSlot .mx 0x380008000006 = .op (.mclear { imm := 7, pred := 0, tile := .s 0, row := 16, map := 0, mode := 0 }) ∧
  decodeSlot .ld 0x2001800203040601 = .op (.ld { hint := 0, size := 2, spec := false, neg := false, pred := 0, dist := 6, imm := 0
                                                 shift := 2, index := .s 3, base := .s 4, dst := .s 6 }) ∧
  decodeSlot .st 0x006100010904 = .op (.st64 { pred := 0, imm := 0x61, index := .s 0, base := .s 1, data := .s 9 }) ∧
  decodeSlot .tm 0x0000000007049601 = .op (.tdef { fmt := 0, pred := 0, imm := 0, b := .s 7, a := .s 4, dst := .tl 6 }) ∧
  decodeSlot .sy 0x900005000040 = .op (.trap { pred := 9, imm := 5, b := .s 0, a := .s 0 }) ∧
  decodeBundle 0 = { reservedBits := false, early := false, lend := false, ckpt := false, stall := 0, slots := [] } ∧
  (decodeBundle 0x10000000000000000).slots = [(.s, .illegal .opcode)]

/-- Every step keeps the memory in its canonical form: addresses rise, and no entry holds what an unlisted address reads as. -/
def Obligations.MemoryInvStep : Prop := ∀ s t, MemoryInv s → step s = .next t → MemoryInv t

/-- No step is refused, and a step faults only where its script names an operation for a context slot that runs no bead. -/
def Obligations.StepsGoOn : Prop :=
  ∀ s, (∀ r, step s ≠ .refused r) ∧
    ∀ f, step s = .fault f → ∃ i r, s.script = i :: r ∧ slotOf i ≠ none ∧
      ((expire (tick s)).ctx (expire (tick s)).cur).run = none

/-- After reset no context runs a bead, no queue is enabled, no line has an owner, no predictor table is bound, bring-up has
completed no step, TIMEBASE is 0 and the memory is in canonical form. -/
def Obligations.ResetState : Prop :=
  (∀ c, (State.reset.ctx c).run = none) ∧ (∀ q, (queue State.reset q).en = false) ∧
  (∀ line, lineTag State.reset line = 0) ∧ (∀ c t, (predictor State.reset c t).bound = false) ∧
  State.reset.mgmt.ready = false ∧ State.reset.hub.timebase = 0 ∧ MemoryInv State.reset
end

