-- ==== Sys2Proof/Laws/Due.lean ====
section
/-! SUPPORT. What marking bits as written, and naming contexts in the fault log, leave unchanged; what they change. -/
namespace Sys2Proof.Machine

variable (s : State)

@[simp] theorem unpad_mem (l : List (Nat × Nat)) : (unpad s l).mem = s.mem := by
  unfold unpad
  split <;> rfl
@[simp] theorem unpad_ctxs (l : List (Nat × Nat)) : (unpad s l).ctxs = s.ctxs := by
  unfold unpad
  split <;> rfl
@[simp] theorem unpad_homes (l : List (Nat × Nat)) : (unpad s l).homes = s.homes := by
  unfold unpad
  split <;> rfl

/-- Lines that are whole again change in their error codes alone. -/
theorem cleanLines_same (l : List Nat) : (l.foldl cleanLine s).mem = s.mem ∧ (l.foldl cleanLine s).ctxs = s.ctxs := by
  induction l generalizing s with
  | nil => exact ⟨rfl, rfl⟩
  | cons a r ih => exact ih (cleanLine s a)

@[simp] theorem written_mem (l : List (Nat × Nat)) : (written s l).mem = s.mem := by
  unfold written
  simp only
  split
  · simp
  · simp [cleanLines_same]
@[simp] theorem written_ctxs (l : List (Nat × Nat)) : (written s l).ctxs = s.ctxs := by
  unfold written
  simp only
  split
  · simp
  · simp [cleanLines_same]

/-- Bytes that another module writes stand in memory, and nothing else of it changes. -/
@[simp] theorem putBytes_mem (l : List (Nat × Byte)) : (putBytes s l).mem = Memory.writeCells s.mem l := by simp [putBytes]
@[simp] theorem putBytes_ctxs (l : List (Nat × Byte)) : (putBytes s l).ctxs = s.ctxs := by simp [putBytes]

/-- Naming contexts in the fault log changes entries of it, and nothing else. -/
theorem credit_same (t : State) (who : Actor) : ∃ l, credit s who t = t.modMgmt fun m => { m with flog := l } := by
  unfold credit
  split
  · exact ⟨t.mgmt.flog, rfl⟩
  · split
    · exact ⟨t.mgmt.flog, rfl⟩
    · exact ⟨_, rfl⟩

end Sys2Proof.Machine
end

