-- ==== Sys2Proof/Tests/Slice0.lean ====
section
/-! SUPPORT. The model's own tests, with expected results from the spec's examples, and the states that meet the hypotheses of each
statement. -/
namespace Sys2Proof.Tests
open Sys2Proof Sys2Proof.Machine Sys2Proof.Claims
set_option Elab.async false

/-! ### Words of the spec's examples (each entry's 'Example') -/

/-- Fields of an S word that are zero where an example does not give them. -/
def sW (size : BitVec 2) (dst a b : Port) (imm : BitVec 23 := 0) (pred : BitVec 4 := 0) : SArgs :=
  { size := size, dst := dst, a := a, b := b, pred := pred, neg := false, imm := imm }
/-- A V word of VA with width 1024 and type f32. -/
def vW (dst a b c : Port) (pred : BitVec 4 := 0) : VArgs :=
  { unit := .a, width := 2, dst := dst, a := a, b := b, c := c, pred := pred, neg := false, ety := .f32, rnd := 0, imm := 0 }
/-- An M word. -/
def mW (mode : BitVec 3 := 0) (map : BitVec 12 := 0) (row : BitVec 8 := 0) (tile : Port := .s 0) (imm : BitVec 5 := 0) : MArgs :=
  { imm := imm, pred := 0, tile := tile, row := row, map := map, mode := mode }
/-- An L word. -/
def lW (size : BitVec 2) (dst base index : Port) (dist : BitVec 8 := 0) (imm : BitVec 12 := 0) (shift : BitVec 2 := 0)
    (spec : Bool := false) : LArgs :=
  { hint := 0, size := size, spec := spec, neg := false, pred := 0, dist := dist, imm := imm, shift := shift, index := index
    base := base, dst := dst }
/-- An ST word. -/
def stW (data base index : Port) (imm : BitVec 12 := 0) : STArgs := { pred := 0, imm := imm, index := index, base := base, data := data }
/-- A T word. -/
def tW (dst a b : Port) (imm : BitVec 16 := 0) : TArgs := { fmt := 0, pred := 0, imm := imm, b := b, a := a, dst := dst }
/-- A Y word. -/
def yW (a b : Port) (imm : BitVec 20 := 0) (pred : BitVec 4 := 0) : YArgs := { pred := pred, imm := imm, b := b, a := a }

theorem test_decode_scalar :
    decodeSlot .s 0x0001000E20104C01 = .op (.add (sW 3 (.s 4) (.s 1) .imm 128)) ∧
    decodeSlot .s 0x0000000D00681893 = .op (.fcmpLe (sW 2 (.p 1) (.s 6) (.const 16))) ∧
    decodeSlot .s 0x00000000006078A1 = .op (.fsqrt (sW 2 (.s 7) (.s 6) (.s 0))) ∧
    decodeSlot .s 0x00002C100E200100 = .op (.br (sW 0 (.s 0) .imm (.s 0) 22 1)) ∧
    decodeSlot .s 0x000006200E200100 = .op (.br (sW 0 (.s 0) .imm (.s 0) 3 2)) ∧
    decodeSlot .s 0x000000200D000D04 = .op (.loop { sW 3 (.s 0) (.const 16) (.s 0) with pred := 2 }) ∧
    decodeSlot .s 0x000002000E210180 = .op (.getc (sW 0 (.s 16) .imm (.s 0) 1)) ∧
    decodeSlot .s 0x0000060E2D100181 = .op (.setc (sW 0 (.s 0) (.const 17) .imm 3)) := by decide +kernel
theorem test_decode_vector :
    decodeSlot .va 0x0014043420A43805 = .op (.vfnma (vW (.v 3) (.s 10) (.v 2) (.v 3))) ∧
    decodeSlot .va 0x001460013410F872 = .op (.vlane (vW (.s 15) (.v 1) (.s 19) (.s 0) 6)) ∧
    decodeSlot .x 0x20426101 = .op (.xmov { width := 2, idx := 0, src := .v 2, dst := .v 33 }) ∧
    decodeSlot .x 0x05484902 = .op (.xperm { width := 0, idx := 5, src := .v 8, dst := .v 9 }) := by decide +kernel
theorem test_decode_matrix :
    decodeSlot .mx 0x000000000101 = .op (.mmode (mW 1)) ∧
    decodeSlot .mx 0x004900007802 = .op (.mpush (mW 0 0x0F 0 (.tl 2))) ∧
    decodeSlot .mx 0x084880000003 = .op (.mrow (mW 0 0 0 (.tl 1) 1)) ∧
    decodeSlot .mx 0x000002344204 = .op (.mbeat (mW 2 0x688 4)) ∧
    decodeSlot .mx 0x384980000005 = .op (.mdrain (mW 0 0 0 (.tl 3) 7)) ∧
    decodeSlot .mx 0x380008000006 = .op (.mclear (mW 0 0 16 (.s 0) 7)) ∧
    decodeSlot .mx 0x000000000407 = .op (.mbinv (mW 4)) ∧
    decodeSlot .mx 0x001502000008 = .op (.mtag (mW 0 0 4 (.s 42))) ∧
    decodeSlot .mx 0x484C08000109 = .op (.mresolve (mW 1 0 16 (.tl 8) 9)) ∧
    decodeSlot .mx 0x004D8800010A = .op (.mcombine (mW 1 0 16 (.tl 11))) := by decide +kernel
theorem test_decode_memory :
    decodeSlot .ld 0x2001800203040601 = .op (.ld (lW 2 (.s 6) (.s 4) (.s 3) 6 0 2)) ∧
    decodeSlot .ld 0x200F000246044503 = .op (.vgath (lW 2 (.v 5) (.s 4) (.v 6) 60 0 2)) ∧
    decodeSlot .ld 0x000000080004E006 = .op (.pref (lW 0 .none (.s 4) (.s 0) 0 2)) ∧
    decodeSlot .ld 0x3002800409020710 = .op (.aadd (lW 3 (.s 7) (.s 2) (.s 9) 10 1)) ∧
    decodeSlot .ld 0x0800000014039204 = .op (.tld (lW 0 (.tl 2) (.s 3) (.s 20) 0 0 0 true)) ∧
    decodeSlot .ld 0x0000000015149705 = .op (.tldh (lW 0 (.tl 7) (.s 20) (.s 21))) ∧
    decodeSlot .st 0x000046044516 = .op (.vscat32 (stW (.v 5) (.s 4) (.v 6))) ∧
    decodeSlot .st 0x006100010904 = .op (.st64 (stW (.s 9) (.s 1) (.s 0) 0x61)) ∧
    decodeSlot .st 0x000200059320 = .op (.tst (stW (.tl 3) (.s 5) (.s 0) 2)) ∧
    decodeSlot .st 0x000000049528 = .op (.append (stW (.tl 5) (.s 4) (.s 0))) := by decide +kernel
theorem test_decode_tiles :
    decodeSlot .tm 0x0000000007049601 = .op (.tdef (tW (.tl 6) (.s 4) (.s 7))) ∧
    decodeSlot .tm 0x0000000400089405 = .op (.texp (tW (.tl 4) (.s 8) (.s 0) 4)) ∧
    decodeSlot .tm 0x0000300100000009 = .op (.phase (tW (.s 0) (.s 0) (.s 0) 0x3001)) ∧
    decodeSlot .tm 0x000000020E919220 = .op (.hmput (tW (.tl 2) (.tl 1) (.s 14) 2)) ∧
    decodeSlot .tm 0x00000000D1949521 = .op (.hmnode (tW (.tl 5) (.tl 4) (.const 17))) ∧
    decodeSlot .tm 0x00000000D0959322 = .op (.hmget (tW (.tl 3) (.tl 5) (.const 16))) ∧
    decodeSlot .tm 0x000000020E920023 = .op (.hmhold (tW (.s 0) (.tl 2) (.s 14) 2)) ∧
    decodeSlot .tm 0x000000020E920024 = .op (.hmdrop (tW (.s 0) (.tl 2) (.s 14) 2)) ∧
    decodeSlot .tm 0x0000000A01951025 = .op (.hmswap (tW (.s 16) (.tl 5) (.s 1) 10)) ∧
    decodeSlot .tm 0x0000000214950026 = .op (.hmcopy (tW (.s 0) (.tl 5) (.s 20) 2)) ∧
    decodeSlot .tm 0x0000003CD1920827 = .op (.hmstatDirectory (tW (.s 8) (.tl 2) (.const 17) 60)) := by decide +kernel
theorem test_decode_system :
    decodeSlot .sy 0x00000A0C0204 = .op (.ctry (yW (.s 2) (.s 12) 10)) ∧
    decodeSlot .sy 0x00030A0E30 = .op (.eplook (yW (.s 14) (.s 10) 3)) ∧
    decodeSlot .sy 0x000103230A31 = .op (.epupd (yW (.s 10) (.s 35) 0x103)) ∧
    decodeSlot .sy 0x000043060532 = .op (.epcfg (yW (.s 5) (.s 6) 0x43)) ∧
    decodeSlot .sy 0x0007D000E212 = .op (.yield (yW .imm (.s 0) 2000)) ∧
    decodeSlot .sy 0x000001060510 = .op (.wait (yW (.s 5) (.s 6) 1)) ∧
    decodeSlot .sy 0x000000000014 = .op (.done (yW (.s 0) (.s 0))) ∧
    decodeSlot .sy 0x000000D10511 = .op (.sig (yW (.s 5) (.const 17))) ∧
    decodeSlot .sy 0x00007800E213 = .op (.mark (yW .imm (.s 0) 120)) ∧
    decodeSlot .sy 0x000000000815 = .op (.spawn (yW (.s 8) (.s 0))) ∧
    decodeSlot .sy 0x000000940916 = .op (.post (yW (.s 9) (.tl 4))) ∧
    decodeSlot .sy 0x000001000817 = .op (.cancelInstr (yW (.s 8) (.s 0) 1)) := by decide +kernel
theorem test_decode_system_rest :
    decodeSlot .sy 0x000011009320 = .op (.chsend (yW (.tl 3) (.s 0) 17)) ∧
    decodeSlot .sy 0x000011009321 = .op (.chrecv (yW (.tl 3) (.s 0) 17)) ∧
    decodeSlot .sy 0x900005000040 = .op (.trap (yW (.s 0) (.s 0) 5 9)) ∧
    decodeSlot .sy 0x000000000141 = .op (.eret (yW (.s 1) (.s 0))) ∧
    decodeSlot .sy 0x000000000542 = .op (.tlbinv (yW (.s 5) (.s 0))) ∧
    decodeSlot .sy 0x000001040343 = .op (.qset (yW (.s 3) (.s 4) 1)) := by decide +kernel
/-- The bundle in bytes of spec 03: S `fcmp.le p1, s6, #0` and VA `(p6) vlane.f32 s15, v1, s19`. -/
theorem test_decode_bundle :
    decodeBundle (BitVec.ofNat 512 (0x0000000D00681893 * 2 ^ 16 + 0x001460013410F872 * 2 ^ 80)) =
      { reservedBits := false, early := false, lend := false, ckpt := false, stall := 0
        slots := [(.s, .op (.fcmpLe (sW 2 (.p 1) (.s 6) (.const 16)))), (.va, .op (.vlane (vW (.s 15) (.v 1) (.s 19) (.s 0) 6)))] } := by
  decide +kernel
theorem test_decode_table_word :
    decodeTableWord 32 0x20426101 = some (.xmov { width := 2, idx := 0, src := .v 2, dst := .v 33 }) := by decide +kernel

/-! ### Encodings that the checks refuse, one for each check of WellFormed -/

/-- A load word that is well formed with a distance of 10. -/
def ldW : LArgs := lW 2 (.s 6) (.s 4) (.s 3) 6
theorem test_smoke_scalar :
    [.add (sW 3 (.v 1) (.s 1) (.s 2)), .add (sW 3 (.s 4) (.v 1) (.s 2)), .add (sW 3 (.s 4) (.s 1) (.s 2) 5), .neg (sW 3 (.s 4) (.s 1) (.s 2)),
     .bswap (sW 0 (.s 4) (.s 1) (.s 0)), .bins (sW 3 .none (.s 1) (.s 2)), .cmpEq (sW 3 (.v 1) (.s 1) (.s 2)),
     .li (sW 3 (.s 4) (.s 1) (.s 0)), .lih (sW 3 .none (.s 1) (.s 2)), .fadd (sW 3 (.s 4) (.s 1) (.s 2)), .fma (sW 2 .none (.s 1) (.s 2)),
     .fabs (sW 3 (.s 4) (.s 1) (.s 0)), .fcmpEq (sW 3 (.p 1) (.s 1) (.s 2)), .fcvt (sW 0 (.s 4) (.s 1) .imm 0xAA),
     .fcvt (sW 0 (.s 4) (.s 1) .imm 0x10), .fcvt (sW 0 (.s 4) (.s 1) .imm 0x58A), .fsqrt (sW 2 .none (.s 1) (.s 0)),
     .pand (sW 0 (.s 1) (.p 1) (.p 2)), .pmov (sW 0 (.s 1) (.p 1) (.s 0)), .pmovLo (sW 0 (.s 1) (.s 1) (.s 0)),
     .pmovHi (sW 0 (.s 1) (.p 1) (.s 0)), .pany (sW 0 (.s 1) (.s 1) (.s 0)), .br (sW 0 (.s 0) (.s 1) (.s 0)), .jmp (sW 0 (.s 0) (.p 1) (.s 0)),
     .call (sW 0 (.p 1) .imm (.s 0)), .ret (sW 0 (.s 0) (.s 1) (.s 0) 1), .loop (sW 0 (.s 1) (.s 1) (.s 0)),
     .getc (sW 0 (.s 1) .imm (.s 0) 0x0B), .setc (sW 0 (.s 0) (.s 1) .imm 0x1001)].all (fun i => !wellFormed i) = true := by decide +kernel
theorem test_smoke_vector :
    [.vadd (vW (.v 40) (.v 1) (.v 2) (.s 0)), .vadd { vW (.v 3) (.v 1) (.v 2) (.s 0) with width := 3 },
     .vadd { vW (.v 3) (.v 1) (.v 2) (.s 0) with ety := .i32 }, .vadd { vW (.v 3) (.v 1) (.v 2) (.s 0) with rnd := 5 },
     .vadd { vW (.v 3) (.v 1) (.v 2) (.s 0) with imm := 1 }, .vfma (vW (.v 3) (.v 1) (.v 2) (.p 1)), .vabs (vW (.v 3) (.v 1) (.v 2) (.s 0)),
     .vcmpEq (vW (.s 3) (.v 1) (.v 2) (.s 0)), .vsel { vW (.v 3) (.v 1) (.v 2) (.s 0) with rnd := 1 },
     .vclass { vW (.v 3) (.v 1) (.s 0) (.s 0) with ety := .n32 }, .viadd { vW (.v 3) (.v 1) (.v 2) (.s 0) with ety := .i8, rnd := 2 },
     .vand { vW (.v 3) (.v 1) (.v 2) (.s 0) with ety := .i8, rnd := 1 }, .vimin { vW (.v 3) (.v 1) (.v 2) (.s 0) with ety := .n8 },
     .viminn { vW (.v 3) (.v 1) (.v 2) (.s 0) with ety := .i8 }, .vicmpEq (vW (.p 3) (.v 1) (.v 2) (.s 0)),
     .vicmpLt { vW (.p 3) (.v 1) (.v 2) (.s 0) with ety := .n8 }, .vicmpLtn { vW (.p 3) (.v 1) (.v 2) (.s 0) with ety := .i8 },
     .vcvt { vW (.v 3) (.v 1) (.s 0) (.s 0) with imm := 0x0A }, .vscale { vW (.v 3) (.v 1) (.v 2) (.s 0) with imm := 7 },
     .vdiv (vW .none (.v 1) (.v 2) (.s 0)), .vsqrt (vW .none (.v 1) (.s 0) (.s 0)), .vsum { vW (.s 3) (.v 1) (.s 0) (.s 0) with ety := .ta8 },
     .vrmax { vW (.s 3) (.v 1) (.s 0) (.s 0) with ety := .i8, rnd := 1 }, .vbcast { vW (.v 3) (.v 1) (.v 2) (.s 0) with rnd := 1 },
     .vmov (vW (.v 3) (.v 1) (.v 2) (.s 0)), .vlane (vW (.s 3) (.s 1) (.s 2) (.s 0)), .vins (vW .none (.v 1) (.s 2) (.s 0)),
     .viota (vW (.v 3) (.s 1) (.s 0) (.s 0)), .vsig (vW (.v 3) (.v 1) (.v 2) (.v 4)), .vsigFin (vW (.s 3) (.v 1) (.s 0) (.s 0)),
     .xmov { width := 2, idx := 1, src := .v 2, dst := .v 33 }, .xperm { width := 3, idx := 1, src := .v 2, dst := .v 33 },
     .xrot { width := 0, idx := 8, src := .v 2, dst := .v 33 }, .xshuf { width := 0, idx := 3, src := .v 2, dst := .v 33 },
     .xbcast { width := 0, idx := 4, src := .s 2, dst := .v 33 }].all (fun i => !wellFormed i) = true := by decide +kernel
theorem test_smoke_matrix_memory :
    [.mmode (mW 3), .mpush (mW 0 0x100 0 (.tl 2)), .mrow (mW 0 0 1 (.tl 1)), .mbeat (mW 3), .mdrain (mW 0 0 254 (.tl 3) 2),
     .mclear (mW 0 0 254 (.s 0) 2), .mbinv (mW 4 1), .mtag (mW 0 0 4 (.tl 4)), .mresolve (mW 4 0 16 (.tl 8)), .mcombine (mW 1 0 16 (.tl 8) 1),
     .ld { ldW with dist := 5 }, .ld { ldW with hint := 3 }, .vld { ldW with dst := .p 1 }, .vgath { ldW with dst := .v 1 },
     .tld { ldW with dst := .tl 1, size := 0 }, .tldh { ldW with dst := .tl 1, size := 0, dist := 0, shift := 1 },
     .pref { ldW with dst := .none, size := 0, dist := 1 }, .aadd { ldW with size := 1 }, .aadd { ldW with hint := 1 }, .acas { ldW with dst := .none },
     .acas16 { ldW with size := 0, dst := .s 3, index := .s 2 }, .st8 (stW (.tl 1) (.s 1) (.s 0)), .vst16 (stW (.p 1) (.s 1) (.s 0)),
     .vst8 (stW (.s 1) (.s 1) (.s 0)), .vscat8 (stW (.v 1) (.s 1) (.s 0)), .tst (stW (.v 1) (.s 1) (.s 0)),
     .append (stW (.tl 1) (.s 1) (.s 1))].all (fun i => !wellFormed i) = true := by decide +kernel
theorem test_smoke_tile_system :
    [.tdef (tW (.tl 6) (.s 4) (.s 7) 1), .tcopy (tW (.tl 6) (.s 4) (.s 0)), .tconv (tW (.tl 6) (.tl 4) (.s 0) 5),
     .tfill (tW (.tl 6) (.s 4) (.s 0) 5), .texp (tW (.tl 6) (.s 4) (.s 0) 10), .tcmp (tW (.s 0) (.s 4) (.tl 1)),
     .tsrf (tW (.s 0) (.tl 4) (.s 0)), .phase (tW (.s 0) (.s 0) (.s 0) 5), .hmput (tW (.tl 2) (.tl 1) (.s 14) 16),
     .hmnode (tW (.tl 2) (.tl 1) (.p 1)), .hmhold (tW (.s 1) (.tl 1) (.s 14)), .hmswap (tW (.s 16) (.tl 5) (.s 1) 5),
     .hmcopy (tW (.s 0) (.tl 5) (.const 1)), .hmstatDirectory (tW (.s 8) (.tl 2) (.s 1) 0x106), .hmstatLineTag (tW (.s 8) (.s 2) (.s 0) 6),
     .hmstatFree (tW (.s 8) (.s 2) (.s 0) 0x106), .cbind (yW (.const 1) (.s 1)), .cacq (yW (.s 1) (.s 0) 1), .crel (yW (.s 1) (.s 0) 2),
     .ctry (yW (.s 1) (.s 2) 5), .fence (yW (.s 0) (.s 0) 3), .wait (yW (.s 1) (.s 2) 0), .sig (yW (.s 1) (.s 2) 3),
     .yield (yW (.s 1) (.s 0) 1), .done (yW (.s 1) (.s 0)), .spawn (yW .imm (.s 0)), .post (yW (.s 1) (.s 2)),
     .cancelInstr (yW (.s 1) (.s 0) 5), .chsend (yW (.tl 1) (.s 0) 4096), .eplook (yW (.s 1) (.s 2) 64), .epupd (yW (.s 1) (.s 2) 64),
     .epcfg (yW (.s 1) (.s 2) 0x80), .trap (yW (.s 1) (.s 0)), .tlbinv (yW (.s 1) (.s 0) 3),
     .qset (yW (.s 1) (.s 2) 4)].all (fun i => !wellFormed i) = true := by decide +kernel

/-! ### One operation on a small state, with the results of the spec's examples -/

/-- The bead of these tests. -/
def bead : Bead := { addr := 0x30000, job := 1, sup := false, queue := 0, rank := 0, save := 0x40000, launch := 0, index := 0
                     budget := 2 ^ 32 - 1, life := 0 }
/-- Context 0 runs the bead, with these scalar and vector registers. -/
def state0 (s : List (Nat × Nat)) (v : List (Nat × Nat) := []) : State := State.reset.setCtx 0 { Ctx.reset with
  run := some bead, pc := 0x20000
  arch := { Arch.fresh with
    s := Vector.ofFn fun i => BitVec.ofNat 64 (Table.get s i.val 0)
    v := Vector.ofFn fun i => BitVec.ofNat 1024 (Table.get v i.val 0) } }
/-- What an operation puts into the write-timing buffer: destination, due cycle, value and flags. -/
def landsOf (i : Instr) (s : State) : List (Dest × Nat × Nat × Nat) := match exec i s with
  | .next t => (t.ctx 0).arch.wtb.map fun l => (l.dest, l.due, l.value.toNat, l.flags.toNat)
  | _ => []
/-- Elements of `n` bits, the first lowest. -/
def packed (n : Nat) (l : List Nat) : Nat := l.foldr (fun x a => a * 2 ^ n + x) 0
/-- Value and flags of `fcvt` from f32 to the type of code `t` under the four modes of R120. -/
def converted (t x : Nat) : List (Nat × Nat) := [1, 2, 3, 4].map fun m =>
  match landsOf (.fcvt (sW 0 (.s 5) (.s 6) .imm (BitVec.ofNat 23 (t + 160 + 256 * m)))) (state0 [(6, x)]) with
  | l => (l.foldl (fun a e => if e.1 = .s 5 then e.2.2.1 else a) 0, l.foldl (fun a e => a ||| e.2.2.2) 0)
/-- R75: the sum lands in sd and in iq at c+1 (the example of R75 with s1 = 2^64 - 1). -/
theorem test_add_wraps : landsOf (.add (sW 3 (.s 4) (.s 1) .imm 128)) (state0 [(1, 2 ^ 64 - 1)]) =
    [(.s 4, 1, 127, 0), (.iq, 1, 127, 0)] := by decide +kernel
/-- R77: `bext.32 s5, s6, #0x0804` extracts bits [11:4]. -/
theorem test_bext : landsOf (.bext (sW 2 (.s 5) (.s 6) .imm 0x804)) (state0 [(6, 0xFFFFF5A7)]) =
    [(.s 5, 1, 0x5A, 0), (.iq, 1, 0x5A, 0)] := by decide +kernel
/-- R82: `fclass s5, s7` gives 0x200 for 0x7FC0_0000. -/
theorem test_fclass : (landsOf (.fclass (sW 2 (.s 5) (.s 7) (.s 0))) (state0 [(7, 0x7FC00000)])).head? =
    some (.s 5, 4, 0x200, 0) := by decide +kernel
/-- The examples of R130 to f16: NX is bit 0, UF bit 1, OF bit 2, NV bit 4. -/
theorem test_fcvt_f16 :
    converted 8 0x3F801001 = [(0x3C01, 1), (0x3C00, 1), (0x3C00, 1), (0x3C01, 1)] ∧
    converted 8 0xBF801001 = [(0xBC01, 1), (0xBC00, 1), (0xBC01, 1), (0xBC00, 1)] ∧
    (converted 8 0x477FF000).map (·.1) = [0x7C00, 0x7BFF, 0x7BFF, 0x7C00] ∧ (converted 8 0x477FF000).head? = some (0x7C00, 5) ∧
    converted 8 0x33000000 = [(0, 3), (0, 3), (0, 3), (1, 3)] := by decide +kernel
/-- The examples of R130 to i8. -/
theorem test_fcvt_i8 :
    converted 0 0xBFC00000 = [(0xFE, 1), (0xFF, 1), (0xFE, 1), (0xFF, 1)] ∧
    converted 0 0x43960000 = [(0x7F, 16), (0x7F, 16), (0x7F, 16), (0x7F, 16)] := by decide +kernel
/-- R107: the tree sum of [1, 1, 2^24, 1, 0, 0, 0, 0] is 0x4B80_0001, inexact. -/
theorem test_vsum : landsOf (.vsum { vW (.s 5) (.v 1) (.s 0) (.s 0) with width := 0, rnd := 1 })
      (state0 [] [(1, packed 32 [0x3F800000, 0x3F800000, 0x4B800000, 0x3F800000, 0, 0, 0, 0])]) =
    [(.s 5, 4, 0x4B800001, 0), (.aq, 4, 0x4B800001, 0), (.flagsOnly, 4, 0, 1)] := by decide +kernel
/-- R102: `viadd.n8.sat` clamps each sum at 255. -/
theorem test_viadd_sat : (landsOf (.viadd { vW (.v 4) (.v 4) (.v 5) (.s 0) with width := 0, ety := .n8, rnd := 1 })
      (state0 [] [(4, 0x8001), (5, 0x9002)])).head? = some (.v 4, 2, 0xFF03, 0) := by decide +kernel
/-- R104: i32 -5 to n32 gives 0, and n32 0xFFFF_FFFF to i32 gives 0x7FFF_FFFF. -/
theorem test_vcvt_sign :
    (landsOf (.vcvt { vW (.v 4) (.v 1) (.s 0) (.s 0) with width := 0, ety := .n32, imm := 2 }) (state0 [] [(1, 0xFFFFFFFB)])).head? =
      some (.v 4, 4, 0, 0) ∧
    (landsOf (.vcvt { vW (.v 4) (.v 1) (.s 0) (.s 0) with width := 0, ety := .i32, imm := 6 }) (state0 [] [(1, 0xFFFFFFFF)])).head? =
      some (.v 4, 4, 0x7FFFFFFF, 0) := by decide +kernel
/-- R110: `xrot` moves lane i to lane i + idx. -/
theorem test_xrot : landsOf (.xrot { width := 0, idx := 3, src := .v 1, dst := .none })
      (state0 [] [(1, packed 32 [10, 11, 12, 13, 14, 15, 16, 17])]) =
    [(.xq, 2, packed 32 [15, 16, 17, 10, 11, 12, 13, 14], 0)] := by decide +kernel
/-- The timing example of spec 03: with a `vfma` in flight whose results land at 4, a `viadd` issued at 2 raises ILLSCHED; the bead
is at STATE 3 after it (R53, R338). -/
theorem test_collision :
    let s := (state0 []).modArch 0 fun a => { a with cc := 2, wtb := [landingOf (state0 []) 0 .va (landLatch .aq 4 0)] }
    (match exec (.viadd { vW (.v 7) (.v 8) (.v 9) (.s 0) with ety := .i32 }) s with
      | .next t => ((t.ctx 0).run == none) && t.hub.cancels == [.unit 1 0x30000]
      | _ => false) = true ∧
    (match exec (.viadd { vW (.v 7) (.v 8) (.v 9) (.s 0) with ety := .i32 }) (s.modArch 0 fun a => { a with cc := 3 }) with
      | .next t => (t.ctx 0).run == some bead && (t.ctx 0).pc == 0x20040
      | _ => false) = true := by decide +kernel

/-! ### States and operands that meet the hypotheses of each statement -/

theorem canIssue_state0 (s v : List (Nat × Nat)) : CanIssue (state0 s v) bead where
  runs := rfl
  thawed := rfl
  loads := Nat.zero_le _
  entries := Nat.zero_le _
/-- An empty write-timing buffer takes every result. -/
theorem fits_of_empty {s : State} (h : (s.ctx s.cur).arch.wtb = []) (reads : List Nat) (l : List Result) : Fits s reads l where
  apart := by simp [NoCollision, h]
  early := by simp [NoEarlyRead, h]
theorem fits_state0 (s v : List (Nat × Nat)) (reads : List Nat) (l : List Result) : Fits (state0 s v) reads l := fits_of_empty rfl reads l
/-- The state of the register operations: s1 = 5, s2 = 3, v1 and v33 hold small lanes. -/
def plain0 : State := state0 [(1, 5), (2, 3), (3, 0x30040)] [(1, packed 32 [1, 2, 3]), (33, packed 32 [4, 5])]
theorem canIssue_plain0 : CanIssue plain0 bead := canIssue_state0 _ _
/-- Operands of two scalar sources, of one, and of predicates. -/
def two2 : SArgs := sW 2 (.s 4) (.s 1) (.s 2)
def one1 : SArgs := sW 2 (.s 4) (.s 1) (.s 0)
def pp2 : SArgs := sW 0 (.p 1) (.p 2) (.p 3)

theorem witness_DecodeEncode : slotOf (.add two2) = some .s ∧ wellFormed (.add two2) = true ∧
    slotOf (.phase (tW (.s 0) (.s 0) (.s 0) 0x3001)) = some .tm ∧ wellFormed (.phase (tW (.s 0) (.s 0) (.s 0) 0x3001)) = true ∧
    slotOf (.qset (yW (.s 1) (.s 2) 3)) = some .sy ∧ wellFormed (.qset (yW (.s 1) (.s 2) 3)) = true := by decide +kernel
theorem witness_IntegerOfTwo : CanIssue plain0 bead ∧
    [Instr.add two2, .sub two2, .mul two2, .mulh two2, .mulhn two2, .min two2, .max two2, .minn two2, .maxn two2, .and two2, .or two2,
     .xor two2, .andn two2, .shl two2, .shr two2, .sar two2, .rol two2].all (fun i => (intTwo i).isSome && wellFormed i) = true ∧
    [Instr.add (sW 0 (.s 0) (.s 1) .imm 0x7FFFFF), .add { two2 with pred := 3, neg := true, dst := .none }].all
      (fun i => (intTwo i).isSome && wellFormed i) = true :=
  ⟨canIssue_plain0, by decide +kernel, by decide +kernel⟩
theorem witness_IntegerOfOne : CanIssue plain0 bead ∧
    [Instr.neg one1, .abs one1, .not one1, .clz one1, .ctz one1, .popc one1, .bswap one1, .mov one1, .li { one1 with a := .const 17 },
     .li { one1 with a := .imm, imm := 0x400000 }].all (fun i => (intOne i).isSome && wellFormed i) = true :=
  ⟨canIssue_plain0, by decide +kernel⟩
theorem witness_FieldsAndAddresses : CanIssue plain0 bead ∧
    [Instr.bext two2, .bins two2, .lih two2, .lih { two2 with size := 3 }, .lea two2, .lea { two2 with size := 0 },
     .lea { two2 with size := 3 }, .lea { two2 with size := 3, b := .imm, imm := 5 }].all (fun i => (fieldValue plain0 i).isSome && wellFormed i) = true :=
  ⟨canIssue_plain0, by decide +kernel⟩
theorem witness_Select : CanIssue plain0 bead ∧ wellFormed (.sel two2) = true ∧
    enabledS (plain0.ctx 0).arch two2.pred two2.neg = true ∧ wellFormed (.sel { two2 with neg := true }) = true ∧
    enabledS (plain0.ctx 0).arch two2.pred true = false :=
  ⟨canIssue_plain0, by decide +kernel, by decide +kernel, by decide +kernel, by decide +kernel⟩
theorem witness_PredicateOperations : CanIssue plain0 bead ∧
    [Instr.pand pp2, .por pp2, .pxor pp2, .pandn pp2, .pmov { pp2 with b := .s 0 }, .pmovLo (sW 0 (.p 1) (.s 1) (.s 0)),
     .pmovLo (sW 0 (.s 4) (.p 1) (.s 0)), .pmovHi (sW 1 (.p 1) .iq (.s 0)), .pmovHi (sW 1 (.s 4) (.p 1) (.s 0))].all
      (fun i => (predValue (plain0.ctx 0).arch i).isSome && wellFormed i) = true :=
  ⟨canIssue_plain0, by decide +kernel⟩
theorem witness_FloatOperations : CanIssue plain0 bead ∧
    [Instr.fadd two2, .fsub two2, .fmul two2, .fma two2, .fnma two2, .fmin two2, .fmax two2, .fabs one1, .fneg one1, .fclass one1,
     .fdiv two2, .fsqrt one1, .frsqrt { one1 with size := 0 }, .fadd { two2 with size := 1 }].all
      (fun i => (floatValue (plain0.ctx 0).arch i).isSome && wellFormed i) = true :=
  ⟨canIssue_plain0, by decide +kernel⟩
theorem witness_FloatConversion : CanIssue plain0 bead ∧
    wellFormed (.fcvt (sW 0 (.s 4) (.s 1) .imm 0x4A8)) = true ∧ ETy.ofCode ((0x4A8 : BitVec 23).extractLsb' 0 4) = some .f16 ∧
    ETy.ofCode ((0x4A8 : BitVec 23).extractLsb' 4 4) = some .f32 :=
  ⟨canIssue_plain0, by decide +kernel, by decide +kernel, by decide +kernel⟩
theorem witness_Compares : CanIssue plain0 bead ∧
    [Instr.cmpEq two2, .cmpNe two2, .cmpLt two2, .cmpLe two2, .cmpLtn two2, .cmpLen { two2 with dst := .p 1 }, .fcmpEq two2, .fcmpNe two2,
     .fcmpLt two2, .fcmpLe two2, .fcmpUn two2, .pany (sW 0 (.s 1) (.p 1) (.s 0)), .pall (sW 0 (.p 2) (.p 1) (.s 0))].all
      (fun i => (comparison plain0 i).isSome && wellFormed i) = true :=
  ⟨canIssue_plain0, by decide +kernel⟩

/-! Transfers and loops. -/

/-- s3 holds a multiple of 64, s1 does not. -/
theorem witness_Transfers : CanIssue plain0 bead ∧ Fits plain0 [] [] ∧ (plain0.ctx 0).arch.target = none ∧
    [(Instr.br (sW 0 (.s 0) .imm (.s 0) 3), sW 0 (.s 0) .imm (.s 0) 3), (.jmp (sW 0 (.s 0) (.s 3) (.s 0)), sW 0 (.s 0) (.s 3) (.s 0)),
     (.call (sW 0 (.s 9) (.s 3) (.s 0)), sW 0 (.s 9) (.s 3) (.s 0)), (.ret (sW 0 (.s 0) (.s 3) (.s 0)), sW 0 (.s 0) (.s 3) (.s 0))].all
      (fun p => (transfers p.1).isSome && wellFormed p.1 && enabledS (plain0.ctx 0).arch p.2.pred p.2.neg &&
        decide ((target (plain0.ctx 0) p.2).toNat % 64 = 0)) = true ∧
    enabledS (plain0.ctx 0).arch 0 true = false :=
  ⟨canIssue_plain0, fits_state0 _ _ _ _, rfl, by decide +kernel, by decide +kernel⟩
theorem witness_TransferFaults : CanIssue plain0 bead ∧ (plain0.ctx 0).arch.target = none ∧
    wellFormed (.jmp (sW 0 (.s 0) (.s 1) (.s 0))) = true ∧
    (target (plain0.ctx 0) (sW 0 (.s 0) (.s 1) (.s 0))).toNat % 64 ≠ 0 ∧
    let u := plain0.modArch 0 fun a => { a with target := some 64 }
    CanIssue u bead ∧ (u.ctx 0).arch.target ≠ none ∧ enabledS (u.ctx 0).arch 0 false = true :=
  ⟨canIssue_plain0, rfl, by decide +kernel, by decide +kernel,
    ⟨rfl, rfl, Nat.zero_le _, Nat.zero_le _⟩, by decide +kernel, by decide +kernel⟩
/-- The bundle after a taken transfer. -/
def delayed0 : State := plain0.modArch 0 fun a => { a with target := some 0x30000 }
theorem witness_DelayBundle : CanIssue delayed0 bead ∧ (delayed0.ctx 0).arch.target = some 0x30000 ∧
    [Instr.add { two2 with neg := true }, .add two2, .viadd { vW (.v 4) (.v 4) (.v 5) (.s 0) with width := 0, ety := .n8, rnd := 1 },
     .xrot { width := 0, idx := 3, src := .v 1, dst := .none }].all (fun i => (slotOf i).any resultSlot && wellFormed i &&
      (slotOp i).any fun f => (f 0 delayed0).waits.isNone && (issueTrap 0 {} [f 0 delayed0] delayed0).isNone) = true :=
  ⟨⟨rfl, rfl, Nat.zero_le _, Nat.zero_le _⟩, rfl, by decide +kernel⟩
theorem witness_Loop : CanIssue plain0 bead ∧ Fits plain0 [] [] ∧ wellFormed (.loop (sW 2 (.s 0) (.s 1) (.s 0))) = true ∧
    arg plain0 (sW 2 (.s 0) (.s 1) (.s 0)) (.s 1) ≠ 0 ∧ (plain0.ctx 0).arch.loops.length ≠ 4 ∧
    let u := plain0.modArch 0 fun a => { a with loops := List.replicate 4 { start := 0x20000, remaining := 2 } }
    CanIssue u bead ∧ (u.ctx 0).arch.loops.length = 4 :=
  ⟨canIssue_plain0, fits_state0 _ _ _ _, by decide +kernel, by decide +kernel, by decide +kernel,
    ⟨rfl, rfl, Nat.zero_le _, Nat.zero_le _⟩, by decide +kernel⟩
theorem witness_LoopBack : (∀ n ∈ [1, 2], ∃ (s : State) (e : LoopEntry) (r : List LoopEntry), (s.ctx 0).run = some bead ∧
    (s.ctx 0).freeze = none ∧ (s.ctx 0).arch.target = none ∧ ((s.ctx 0).arch.wtb.filter (·.load)).length ≤ Config.landingMax ∧
    (s.ctx 0).withheld.length ≤ Config.withholdMax ∧ (s.ctx 0).arch.loops = e :: r ∧ e.remaining = n) ∧
    (plain0.ctx 0).arch.loops = [] := by
  refine ⟨fun n _ => ?_, rfl⟩
  exact ⟨plain0.modArch 0 fun a => { a with loops := [{ start := 0x1FF80, remaining := n }] }, _, _, rfl, rfl, rfl,
    Nat.zero_le _, Nat.zero_le _, rfl, rfl⟩

/-! Control registers. -/

theorem witness_ControlRead : CanIssue plain0 bead ∧ Fits plain0 [] [] ∧
    wellFormed (.getc (sW 0 (.s 16) .imm (.s 0) 1)) = true ∧ cregNo (sW 0 (.s 16) .imm (.s 0) 1) ≠ 0x0F0 ∧
    wellFormed (.getc (sW 0 (.s 16) .imm (.s 0) 0x058)) = true ∧ cregNo (sW 0 (.s 16) .imm (.s 0) 0x058) = 0x058 :=
  ⟨canIssue_plain0, fits_state0 _ _ _ _, by decide +kernel, by decide +kernel, by decide +kernel, by decide +kernel⟩
theorem witness_ControlWrite : CanIssue plain0 bead ∧ wellFormed (.setc (sW 0 (.s 0) (.s 1) .imm 2)) = true ∧
    ¬readOnlyRegister (cregNo (sW 0 (.s 0) (.s 1) .imm 2)) ∧
    ¬(jobRegister (cregNo (sW 0 (.s 0) (.s 1) .imm 2)) ∨ cregNo (sW 0 (.s 0) (.s 1) .imm 2) = 0x0F0) :=
  ⟨canIssue_plain0, by decide +kernel, by unfold readOnlyRegister; decide +kernel, by unfold jobRegister; decide +kernel⟩
theorem witness_ControlWritePrivilege : CanIssue plain0 bead ∧ NoEarlyRead (plain0.ctx 0).arch [] ∧ bead.sup = false ∧
    wellFormed (.setc (sW 0 (.s 0) (.s 1) .imm 0x010)) = true ∧ readOnlyRegister (cregNo (sW 0 (.s 0) (.s 1) .imm 0x010)) ∧
    wellFormed (.setc (sW 0 (.s 0) (.s 1) .imm 0x089)) = true ∧ jobRegister (cregNo (sW 0 (.s 0) (.s 1) .imm 0x089)) ∧
    wellFormed (.setc (sW 0 (.s 0) (.s 1) .imm 0x0F0)) = true ∧ cregNo (sW 0 (.s 0) (.s 1) .imm 0x0F0) = 0x0F0 :=
  ⟨canIssue_plain0, (fits_state0 _ _ _ []).early, rfl, by decide +kernel, by unfold readOnlyRegister; decide +kernel, by decide +kernel,
    by unfold jobRegister; decide +kernel, by decide +kernel, by decide +kernel⟩

/-! Vector and crossbar. -/

/-- Operands of VA, f32 or i32, of three, two and one sources. -/
def f3 : VArgs := vW (.v 3) (.v 1) (.v 2) (.v 4)
def f2 : VArgs := vW (.v 3) (.v 1) (.v 2) (.s 0)
def f1 : VArgs := vW (.v 3) (.v 1) (.s 0) (.s 0)
def i2 : VArgs := { f2 with ety := .i32 }
def n2 : VArgs := { f2 with ety := .n8, unit := .b, dst := .v 35, a := .v 33, b := .s 1 }
/-- Vector operations whose lanes the statements give. -/
def laneOps : List Instr :=
  [.viadd i2, .visub { i2 with rnd := 1 }, .vimul n2, .vimulh i2, .vand i2, .vor i2, .vxor i2, .vshl i2, .vshr i2, .vsar i2, .vimin i2,
   .vimax i2, .viminn n2, .vimaxn n2]
def floatLaneOps : List Instr :=
  [.vadd f2, .vsub f2, .vmul f2, .vfma f3, .vfnma f3, .vmin f2, .vmax f2, .vabs f1, .vneg f1, .vclass f1, .vdiv f2, .vsqrt f1, .vrsqrt f1,
   .vrcp f1, .vexp2 f1, .vlog2 f1, .vtanh f1, .vsigm { f1 with ety := .bf16, rnd := 4 }]
/-- The vector operations that move, compare, convert and reduce. -/
def otherLaneOps : List Instr :=
  [.vcmpEq f2, .vcmpNe f2, .vcmpLt f2, .vcmpLe f2, .vcmpUn { f2 with dst := .p 1 }, .vsel f2, .vicmpEq i2, .vicmpNe i2, .vicmpLt i2,
   .vicmpLe i2, .vicmpLtn n2, .vicmpLen n2, .vcvt { f1 with ety := .ta8, imm := 0x3A }, .vscale { f2 with imm := 6 }, .vsum f1,
   .vrmax f1, .vrmin { f1 with dst := .s 3 }, .vbcast f2, .vmov f1, .vlane { f2 with dst := .s 3 }, .vins f2,
   .viota { f1 with ety := .i16, a := .s 1 }, .vsigFin { f1 with dst := .s 3, imm := 1 }]
theorem witness_VectorIntegerLanes : laneOps.all (fun i => (laneTwo i).isSome && (slotOp i).isSome && wellFormed i) = true := by
  decide +kernel
theorem witness_VectorFloatLanes :
    floatLaneOps.all (fun i => (laneFloat (plain0.ctx 0).arch i).isSome && (slotOp i).isSome && wellFormed i) = true := by decide +kernel
theorem witness_VectorOperations : CanIssue plain0 bead ∧ (∀ reads l, Fits plain0 reads l) ∧
    (laneOps ++ floatLaneOps ++ otherLaneOps).all
      (fun i => (slotOp i).isSome && (slotOf i == some .va || slotOf i == some .vb) && wellFormed i) = true ∧
    otherLaneOps.all (fun i => (laneCompare i).isSome || (laneValue (plain0.ctx 0).arch i).isSome ||
      (reduction (plain0.ctx 0).arch i).isSome || match i with
        | .vlane _ | .vins _ | .vsigFin _ => true
        | _ => false) = true ∧
    let u := setPredictor plain0 0 3 { predictor plain0 0 3 with bound := true, job := 1 }
    CanIssue u bead ∧ wellFormed (.vsig { f2 with b := .s 2, c := .v 4 }) = true ∧
      boundHere u 0 ((readScalar (u.ctx 0).arch 0 (.s 2)).toNat % 64) = true :=
  ⟨canIssue_plain0, fun _ _ => fits_state0 _ _ _ _, by decide +kernel, by decide +kernel, ⟨rfl, rfl, Nat.zero_le _, Nat.zero_le _⟩,
    by decide +kernel, by decide +kernel⟩
theorem witness_CrossbarLanes : CanIssue plain0 bead ∧
    (let x (n : BitVec 4) : XArgs := { width := 2, idx := n, src := .v 33, dst := .v 2 }
     [Instr.xmov (x 0), .xrot (x 15), .xbcast (x 15), .xzip (x 0), .xunzip (x 0), .xshuf (x 4)].all
       (fun i => (crossLane i).isSome && wellFormed i)) = true :=
  ⟨canIssue_plain0, by decide +kernel⟩
/-- Pattern 1 aims lanes 0 to 7 at 7 to 0; pattern 2 aims all of them at lane 0. -/
def patterns0 : State := plain0.modArch 0 fun a => { a with
  pattern := (a.pattern.set 1 (BitVec.ofNat 256 (packed 8 [0x87, 0x86, 0x85, 0x84, 0x83, 0x82, 0x81, 0x80]))).set 2
    (BitVec.ofNat 256 (packed 8 (List.replicate 8 0x80))) }
/-- The bytes of pattern `e` that a crossbar of 8 lanes reads. -/
def pattern8 (e : BitVec 4) : List Nat :=
  (List.range 8).map (patternByte (patterns0.ctx 0).arch { width := 0, idx := e, src := .v 33, dst := .v 2 })
theorem pattern8_good : (∀ j < 8, ¬(patternV ((pattern8 1).getD j 0) = true ∧ (pattern8 1).getD j 0 / 32 % 4 ≠ 0)) ∧
    ∀ k < 8, ∀ j < k, patternDest ((pattern8 1).getD j 0) ≠ patternDest ((pattern8 1).getD k 0) := by decide +kernel
theorem witness_CrossbarPattern : CanIssue patterns0 bead ∧
    wellFormed (.xperm { width := 0, idx := 1, src := .v 33, dst := .v 2 }) = true ∧
    wellFormed (.xperm { width := 0, idx := 2, src := .v 33, dst := .v 2 }) = true ∧
    ¬((∃ j, j < 8 ∧ patternV ((pattern8 1).getD j 0) = true ∧ (pattern8 1).getD j 0 / 32 % 4 ≠ 0) ∨
      ∃ j k, j < k ∧ k < 8 ∧ patternV ((pattern8 1).getD j 0) = true ∧ patternV ((pattern8 1).getD k 0) = true ∧
        patternDest ((pattern8 1).getD j 0) = patternDest ((pattern8 1).getD k 0) ∧ patternDest ((pattern8 1).getD j 0) < 8) ∧
    ∃ j k, j < k ∧ k < 8 ∧ patternV ((pattern8 2).getD j 0) = true ∧ patternV ((pattern8 2).getD k 0) = true ∧
      patternDest ((pattern8 2).getD j 0) = patternDest ((pattern8 2).getD k 0) ∧ patternDest ((pattern8 2).getD j 0) < 8 := by
  refine ⟨⟨rfl, rfl, Nat.zero_le _, Nat.zero_le _⟩, by decide +kernel, by decide +kernel, ?_, 0, 1, by decide +kernel⟩
  rintro (⟨j, hj, h⟩ | ⟨j, k, hj, hk, -, -, h, -⟩)
  · exact pattern8_good.1 j hj h
  · exact pattern8_good.2 k hk j hj h

/-! Operations with checks beside results. -/

/-- What `Allowed` asks of an operation in a state with an empty write-timing buffer and no drain window. -/
def admitted (s : State) (i : Instr) : Bool := wellFormed i && match slotOp i with
  | some f => (f s.cur s).traps.isEmpty && (f s.cur s).waits.isNone && decide ((f s.cur s).loads.length ≤ Config.landingMax) &&
      decide ((s.ctx s.cur).withheld.length + (f s.cur s).entries ≤ Config.withholdMax)
  | none => false
theorem admitted_allowed {s : State} {i : Instr} (hw : (s.ctx s.cur).arch.wtb = []) (hp : (s.ctx s.cur).phaseWin = none)
    (h : admitted s i = true) : wellFormed i = true ∧ ∃ f, slotOp i = some f ∧ Allowed s (f s.cur s) := by
  simp only [admitted, Bool.and_eq_true] at h
  obtain ⟨hf, h⟩ := h
  refine ⟨hf, ?_⟩
  cases hi : slotOp i with
  | none => simp [hi] at h
  | some f =>
    simp only [hi, Bool.and_eq_true, decide_eq_true_eq, List.isEmpty_iff, Option.isNone_iff_eq_none] at h
    obtain ⟨⟨⟨ht, hr⟩, hl⟩, he⟩ := h
    exact ⟨f, rfl, ht, hr, by simp [NoDrain, hp], by simpa [hw] using hl, he, by simp [NoCollision, hw], by simp [NoEarlyRead, hw]⟩

/-- A tile image: format code `fmt`, no block scale. -/
def image (rows cols pitch fmt : Nat) : BitVec 128 := BitVec.ofNat 128 (rows + cols * 2 ^ 16 + pitch * 2 ^ 32 + fmt * 2 ^ 56 + 7 * 2 ^ 60)
/-- A tile register over the window of core 0, at virtual address 2^32. -/
def tileReg (k rows cols pitch fmt : Nat) : TileReg :=
  { defined := true, image := image rows cols pitch fmt, base := BitVec.ofNat 64 (2 ^ 32 + 0x80000 + 0x1000 * k), abandoned := none }
/-- The tile registers of these states: lines, names, f32, transposed f32, f16, pushes, router words, misses, sums. -/
def tileRegs : List TileReg :=
  [tileReg 0 4 128 128 0, tileReg 1 8 2 16 3, tileReg 2 4 16 64 10, tileReg 3 4 16 64 10, tileReg 4 16 4 16 10, tileReg 5 4 16 32 8,
   tileReg 6 4 64 64 0, tileReg 7 2 4 16 6, tileReg 8 4 16 64 6, tileReg 9 2 16 64 10, tileReg 10 1 128 128 0]
/-- Page table: addresses below 4 GiB map to themselves, the next 4 GiB to the windows of agent 0. -/
def mapped : State :=
  let s := State.reset.modHomes fun h => { h with present := [0] }
  let s := ((s.writeMem 0 8 0x10081).writeMem 0x10000 8 0x6F).writeMem 0x10008 8 (3 * 2 ^ 62 + 0x180000000000 + 0x67)
  s.modJob 1 fun j => { j with ptroot := 0 }
/-- The bead runs on context 0 with these registers: s1, s3 ordinary lines; s2 = 0; s4 a tensor record; s5 an append header;
s6 a window line; s7 the locket 1 of this module; s8, s9 a second and third value. -/
def loaded : State := mapped.setCtx 0 { Ctx.reset with
  run := some bead, pc := 0x20000
  arch := { Arch.fresh with
    s := Vector.ofFn fun i => BitVec.ofNat 64 (Table.get
      [(1, 0x100000), (3, 0x100400), (4, 0x200000), (5, 0x210000), (6, 2 ^ 32 + 0xC0000), (7, 1), (8, 3), (9, 7)] i.val 0)
    v := Vector.ofFn fun i => BitVec.ofNat 1024 (if i.val = 6 then packed 32 [8, 4, 0, 12] else 5)
    tiles := Vector.ofFn fun i => tileRegs.getD i.val TileReg.fresh } }
theorem canIssue_loaded : CanIssue loaded bead := ⟨rfl, rfl, Nat.zero_le _, Nat.zero_le _⟩
/-- A load word with base s1, displacement and index 0. -/
def lB (size : BitVec 2) (dst : Port) : LArgs := lW size dst (.s 1) (.s 0) 10
theorem witness_Loads : CanIssue loaded bead ∧
    [Instr.ld (lB 3 (.s 4)), .ld { lB 0 .none with pred := 0, neg := true }, .vld (lB 2 (.v 5)), .vld (lB 0 (.p 3)), .vld (lB 2 .none),
     .vgath { lB 2 (.v 5) with index := .v 6 }].all (fun i => (loadEffect loaded i).isSome && admitted loaded i) = true :=
  ⟨canIssue_loaded, by decide +kernel⟩
theorem witness_Prefetch : CanIssue loaded bead ∧ NoDrain (loaded.ctx 0) ∧ NoEarlyRead (loaded.ctx 0).arch [] ∧
    wellFormed (.pref (lW 0 .none (.s 1) (.s 0) 0 2)) = true ∧ enabledS (loaded.ctx 0).arch 0 false = true ∧ phaseHolds loaded 0 = false :=
  ⟨canIssue_loaded, by simp [NoDrain, loaded, Ctx.reset], (fits_of_empty rfl [] []).early, by decide +kernel, by decide +kernel,
    by decide +kernel⟩
theorem witness_Atomics : CanIssue loaded bead ∧
    [Instr.aadd (lW 3 (.s 7) (.s 1) (.s 9) 10 1), .aand (lW 2 .none (.s 1) (.s 9) 10), .aor (lW 3 (.s 7) (.s 1) (.s 9) 10),
     .axor (lW 3 (.s 7) (.s 1) (.s 9) 10), .amin (lW 3 (.s 7) (.s 1) (.s 9) 10), .amax (lW 3 (.s 7) (.s 1) (.s 9) 10),
     .aminn (lW 3 (.s 7) (.s 1) (.s 9) 10), .amaxn (lW 3 (.s 7) (.s 1) (.s 9) 10), .aswap (lW 2 (.s 7) (.s 1) (.s 9) 10),
     .acas (lW 3 (.s 7) (.s 1) (.s 9) 10), .acas16 (lW 0 (.s 62) (.s 1) (.s 2) 10)].all
      (fun i => (atomicEffect loaded i).isSome && admitted loaded i) = true :=
  ⟨canIssue_loaded, by decide +kernel⟩
theorem witness_Stores : CanIssue loaded bead ∧
    [Instr.st8 (stW (.v 1) (.s 1) (.s 0) 1), .st16 (stW (.s 9) (.s 1) (.s 0) 0xFFF), .st32 (stW (.s 9) (.s 1) (.s 2)),
     .st64 (stW .iq (.s 1) (.s 0)), .vst8 (stW (.p 1) (.s 1) (.s 0)), .vst8 (stW (.v 1) (.s 1) (.s 0)), .vst16 (stW (.v 1) (.s 1) (.s 0)),
     .vst32 (stW .xq (.s 1) (.s 0)), .vst64 { stW (.v 1) (.s 1) (.s 0) with pred := 3 }, .vscat8 (stW (.v 5) (.s 1) (.v 6)),
     .vscat16 (stW (.v 5) (.s 1) (.v 6)), .vscat32 (stW (.v 5) (.s 1) (.v 6)), .vscat64 (stW (.v 5) (.s 1) (.v 5))].all
      (fun i => (storeEffect loaded i).isSome && admitted loaded i) = true :=
  ⟨canIssue_loaded, by decide +kernel⟩
/-- s8 = 3 is not aligned for a word of 8 bytes, and 2^33 is not mapped, with the line of its table whole or faulty. -/
theorem witness_LoadFaults : CanIssue loaded bead ∧ NoDrain (loaded.ctx 0) ∧ (loaded.ctx 0).arch.wtb = [] ∧
    wellFormed (.ld (lW 3 (.s 4) (.s 8) (.s 0) 10)) = true ∧ arrivalD 10 = 10 ∧
    eaL (loaded.ctx 0).arch (lW 3 (.s 4) (.s 8) (.s 0) 10) 8 % 8 ≠ 0 ∧
    let u := loaded.modArch 0 fun a => { a with s := a.s.set 10 (2 ^ 33) }
    CanIssue u bead ∧ eaL (u.ctx 0).arch (lW 3 (.s 4) (.s 10) (.s 0) 10) 8 = 2 ^ 33 ∧
      (match translateRange u (coreOf 0) 1 (2 ^ 33) 8 with
        | .inl x => x == 2 ^ 33
        | .inr _ => false) = true ∧ leaf u 0 1 (2 ^ 33) = none ∧ walkFault u 1 (2 ^ 33) = none ∧
      let w := u.modHomes fun h => { h with tagErr := [0x200] }
      CanIssue w bead ∧ leaf w 0 1 (2 ^ 33) = none ∧ walkFault w 1 (2 ^ 33) = some (.mchk, 0x200) :=
  ⟨canIssue_loaded, by simp [NoDrain, loaded, Ctx.reset], rfl, by decide +kernel, by decide +kernel, by decide +kernel,
    ⟨rfl, rfl, Nat.zero_le _, Nat.zero_le _⟩, by decide +kernel, by decide +kernel, by decide +kernel, by decide +kernel,
    ⟨rfl, rfl, Nat.zero_le _, Nat.zero_le _⟩, by decide +kernel, by decide +kernel⟩

/-! Tiles. -/

/-- A tensor record of 128 columns by 4 rows of bytes at 0x220000, and an append header with 8 slots of 128 bytes. -/
def recorded : State :=
  let s := loaded.writeMem 0x200000 128 (0x220000 + 2 ^ 64 * (7 * 2 ^ 29 + 2 * 2 ^ 26) + 2 ^ 256 * 1 + 2 ^ 320 * 128 +
    2 ^ 768 * (128 + 2 ^ 32 * 4))
  let s := s.writeMem 0x210000 16 (8 * 2 ^ 32 + 128 * 2 ^ 64)
  let s := (s.writeMem 0x300000 64 (2 ^ 63 + 2 * 2 ^ 40 + 0x310000 * 2 ^ 64 + 0x320000 * 2 ^ 128)).writeMem 0x310000 128
    (2 ^ 64 * (7 * 2 ^ 29 + 2 * 2 ^ 26) + 2 ^ 768 * (128 + 2 ^ 32 * 4))
  (s.modJob 1 fun j => { j with chtab := 0x300000, hmctl := 1 }).modHall fun h => { h with
    heaps := [(0, { hbase := 0x1000000, nlines := 1024, dbase := 0x2000000, word24 := BitVec.ofNat 64 (1 + 4 * 2 ^ 8 + 2 ^ 31 + 16 * 2 ^ 32) })] }
theorem canIssue_recorded : CanIssue recorded bead := ⟨rfl, rfl, Nat.zero_le _, Nat.zero_le _⟩
theorem witness_TileTransfers : CanIssue recorded bead ∧
    [Instr.tld (lW 0 (.tl 0) (.s 1) (.s 0)), .tld (lW 0 (.tl 0) (.s 1) (.s 0) 64), .tldh (lW 0 (.tl 0) (.s 4) (.s 2)),
     .texp (tW (.tl 0) (.s 1) (.s 0) 4), .tcopy (tW (.tl 3) (.tl 2) (.s 0)), .ttrans (tW (.tl 4) (.tl 2) (.s 0)),
     .tconv (tW (.tl 5) (.tl 2) (.s 0)), .tfill (tW (.tl 2) .imm (.s 0) 0x3F80), .hmget (tW (.tl 10) (.tl 1) (.s 2))].all
      (fun i => (startedTransfer recorded i).isSome && (loadFailure recorded i).isNone && admitted recorded i) = true ∧
    (startedTransfer recorded (.chrecv (yW (.tl 0) (.s 0)))).isSome = true ∧ admitted recorded (.chrecv (yW (.tl 0) (.s 0))) = true :=
  ⟨canIssue_recorded, by decide +kernel, by decide +kernel, by decide +kernel⟩
/-- s10 = 2^33 is not mapped: a speculative load from it, or of the record there, fails with XLATE. -/
theorem witness_SpeculativeTileLoad : let u := recorded.modArch 0 fun a => { a with s := a.s.set 10 (2 ^ 33) }
    CanIssue u bead ∧ [Instr.tld (lW 0 (.tl 0) (.s 10) (.s 0) 0 0 0 true), .tldh (lW 0 (.tl 0) (.s 10) (.s 2) 0 0 0 true)].all (fun i =>
      (tileLoad i).isSome && admitted u i && loadFailure u i == some (.xlate, 2 ^ 33)) = true ∧ enabledS (u.ctx 0).arch 0 false = true :=
  ⟨⟨rfl, rfl, Nat.zero_le _, Nat.zero_le _⟩, by decide +kernel, by decide +kernel⟩
theorem witness_TileEntries : CanIssue recorded bead ∧
    [Instr.tst (stW (.tl 0) (.s 1) (.s 0)), .tsth (stW (.tl 0) (.s 4) (.s 2)), .append (stW (.tl 0) (.s 5) (.s 0)),
     .tcmp (tW (.s 0) (.s 1) (.tl 0) 4), .tsrf (tW (.s 0) (.s 4) (.s 0)), .chsend (yW (.tl 0) (.s 0)),
     .post (yW (.s 7) (.tl 10))].all (fun i => (tileEntry recorded i).isSome && admitted recorded i) = true :=
  ⟨canIssue_recorded, by decide +kernel⟩
/-- The image of `tdef` stands at s1. -/
theorem witness_DefineTile : let u := recorded.writeMem 0x100000 16 (image 4 128 128 0).toNat
    let u1 := u.modArch 0 fun a => { a with s := a.s.set 11 (2 ^ 32 + 0x80000) }
    CanIssue u1 bead ∧ admitted u1 (.tdef (tW (.tl 3) (.s 1) (.s 11))) = true :=
  ⟨⟨rfl, rfl, Nat.zero_le _, Nat.zero_le _⟩, by decide +kernel⟩
theorem witness_MoveSplit : CanIssue loaded bead ∧ wellFormed (.phase (tW (.s 0) (.s 0) (.s 0) 0x3001)) = true ∧
    (let m := metState 0 { ckpt := true } loaded
     (opPhase (tW (.s 0) (.s 0) (.s 0) 0x3001) 0 m).waits = none ∧
     issueTrap 0 { ckpt := true } [opPhase (tW (.s 0) (.s 0) (.s 0) 0x3001) 0 m] m = none) :=
  ⟨canIssue_loaded, by decide +kernel, by decide +kernel⟩

/-! The matrix array. -/

/-- Context 0 owns both halves of an array with valid banks 0 to 3, and staging rows at 16 for two tokens of ranks 0 and 1. -/
def arrayed : State :=
  let row (st rank : Nat) : AccRow := { elems := 0, tag := makeTag st rank 0 0, load := none }
  let full : Bank := { desc := { fill := 64, isInt := some true, st := .valid, load := none }
                       rows := List.replicate 64 (bankRow .i8 (List.replicate 512 (1, 0))) }
  loaded.modCore 0 fun k => { k with arr := { k.arr with
    lo := some false, hi := some false
    banks := Vector.ofFn fun i => if i.val < 4 then full else k.arr.banks[i]
    rowBuf := pairSet k.arr.rowBuf 0 { fmt := .i8, lanes := Vector.replicate 4 (rowLane .i8 (List.replicate 64 (2, 0))) }
    acc := [(16, row 1 0), (17, row 1 1), (20, row 1 0), (21, row 1 1)] } }
theorem canIssue_arrayed : CanIssue arrayed bead := ⟨rfl, rfl, Nat.zero_le _, Nat.zero_le _⟩
theorem witness_MatrixOperations : CanIssue arrayed bead ∧
    [Instr.mmode (mW 0), .mpush (mW 4 0x20 0 (.tl 6)), .mrow (mW 0 0 0 (.tl 6)), .mbeat (mW 0 0x688 40),
     .mdrain (mW 0 1 16 (.tl 2) 1), .mclear (mW 0 0 255), .mbinv (mW 0), .mtag (mW 0 0 4 (.s 9)),
     .mresolve (mW 1 0 32 (.tl 7) 8), .mcombine (mW 1 0 16 (.tl 9))].all
      (fun i => (matrixEffect arrayed i).isSome && admitted arrayed i) = true :=
  ⟨canIssue_arrayed, by decide +kernel⟩
theorem witness_OutsideOwnedHalves : CanIssue loaded bead ∧ wellFormed (.mclear (mW 0 0 16 (.s 0) 7)) = true ∧
    (∃ r, 16 ≤ r ∧ r ≤ 16 + 7 ∧ ownsRow (arrayOf loaded 0) 0 r = false) ∧ wellFormed (.mbinv (mW 4)) = true ∧
    ownsBank (arrayOf loaded 0) 0 4 = false :=
  ⟨canIssue_loaded, by decide +kernel, ⟨16, by decide, by decide, by decide +kernel⟩, by decide +kernel, by decide +kernel⟩

/-! Hallmarks and the system slot. -/

theorem witness_HallmarkMutations : CanIssue recorded bead ∧
    (hallmarkEntry recorded (.hmput (tW (.tl 1) (.tl 0) (.s 2) 2))).isSome = true ∧ admitted recorded (.hmput (tW (.tl 1) (.tl 0) (.s 2) 2)) = true ∧
    [Instr.hmnode (tW (.tl 1) (.tl 0) (.s 2)), .hmhold (tW (.s 0) (.tl 1) (.s 8)), .hmdrop (tW (.s 0) (.tl 1) (.s 2) 7),
     .hmswap (tW (.s 16) (.tl 1) (.s 1) 10), .hmswap (tW .none (.tl 1) (.s 1) 10), .hmcopy (tW (.s 0) (.tl 1) (.s 3) 1)].all
      (fun i => (hallmarkEntry recorded i).isSome && admitted recorded i) = true :=
  ⟨canIssue_recorded, by decide +kernel, by decide +kernel, by decide +kernel⟩
theorem witness_HallmarkStatus : CanIssue recorded bead ∧
    [Instr.hmstatDirectory (tW (.s 8) (.tl 1) (.s 2) 60), .hmstatLineTag (tW (.s 8) (.s 1) (.s 0) 0x13C),
     .hmstatFree (tW .none (.s 2) (.s 0) 0x23C)].all (fun i => (statusRead recorded i).isSome && admitted recorded i) = true :=
  ⟨canIssue_recorded, by decide +kernel⟩
/-- A supervisor, for the operations that ask for one. -/
def supervised : State := recorded.modCtx 0 fun x => { x with run := some { bead with sup := true } }
theorem canIssue_supervised : CanIssue supervised { bead with sup := true } := ⟨rfl, rfl, Nat.zero_le _, Nat.zero_le _⟩
/-- A clasp at s1 whose base and length are good, and a counter at s1. -/
theorem witness_SystemEntries : CanIssue supervised { bead with sup := true } ∧
    [Instr.cbind (yW (.s 1) (.s 3) 1), .cacq (yW (.s 1) (.s 0)), .crel (yW (.s 1) (.s 0) 1), .ctry (yW (.s 1) (.s 9) 10), .ctry (yW (.s 1) .none 10),
     .fence (yW (.s 0) (.s 0) 2), .sig (yW (.s 1) (.s 9) 1), .sig (yW (.s 1) (.s 0) 2), .spawn (yW (.s 1) (.s 0)),
     .cancelInstr (yW (.s 1) (.s 0) 4), .eret (yW (.s 1) (.s 0)), .tlbinv (yW (.s 1) (.s 0) 2), .qset (yW (.s 8) (.s 9) 0),
     .epcfg (yW (.s 8) (.s 9) 0x43), .epcfg (yW (.s 0) (.s 0) 0x80)].all
      (fun i => (systemEntry supervised i).isSome && admitted supervised i) = true ∧
    (let u := setPredictor supervised 0 3 { predictor supervised 0 3 with bound := true, job := 1 }
     (systemEntry u (.epupd (yW (.s 8) (.s 9) 0x103))).isSome && admitted u (.epupd (yW (.s 8) (.s 9) 0x103))) = true :=
  ⟨canIssue_supervised, by decide +kernel, by decide +kernel⟩
theorem witness_PredictorLookup : let u := setPredictor plain0 0 3 { predictor plain0 0 3 with bound := true, job := 1 }
    CanIssue u bead ∧ wellFormed (.eplook (yW (.s 14) (.s 1) 3)) = true ∧ boundHere u 0 3 = true :=
  ⟨⟨rfl, rfl, Nat.zero_le _, Nat.zero_le _⟩, by decide +kernel, by decide +kernel⟩
theorem witness_Mark : CanIssue plain0 bead ∧ wellFormed (.mark (yW .imm (.s 0) 120)) = true ∧ Fits plain0 [] [] :=
  ⟨canIssue_plain0, by decide +kernel, fits_state0 _ _ _ _⟩
theorem witness_LeavingTheContext : CanIssue loaded bead ∧
    [Instr.yield (yW .imm (.s 0) 2000), .wait (yW (.s 1) (.s 9) 1), .done (yW (.s 0) (.s 0)), .done (yW (.s 0) (.s 0) 0 3)].all
      (fun i => (leaving loaded i).isSome && wellFormed i && match slotOp i with
        | some f => let m := metState 0 { ckpt := true } loaded
          (issueTrap 0 { ckpt := true } [f 0 m] m).isNone
        | none => false) = true :=
  ⟨canIssue_loaded, by decide +kernel⟩
theorem witness_TrapInstruction : CanIssue plain0 bead ∧ wellFormed (.trap (yW (.s 0) (.s 0) 5)) = true ∧ Fits plain0 [] [] ∧
    enabledS (plain0.ctx 0).arch 0 false = true ∧ wellFormed (.trap (yW (.s 0) (.s 0) 5 9)) = true ∧
    enabledS (plain0.ctx 0).arch 9 false = false :=
  ⟨canIssue_plain0, by decide +kernel, fits_state0 _ _ _ _, by decide +kernel, by decide +kernel, by decide +kernel⟩
theorem witness_SupervisorOperations : CanIssue plain0 bead ∧ bead.sup = false ∧ (∀ l, Fits plain0 l []) ∧
    (plain0.ctx 0).withheld.length < Config.withholdMax ∧
    [Instr.tlbinv (yW (.s 1) (.s 0) 2), .qset (yW (.s 1) (.s 2) 0), .cancelInstr (yW (.s 1) (.s 0) 4)].all
      (fun i => supervisorOnly i && (slotOp i).isSome && wellFormed i) = true :=
  ⟨canIssue_plain0, rfl, fun _ => fits_state0 _ _ _ _, by decide +kernel, by decide +kernel⟩
/-- v1 with v33: a vector bundle of VA that takes no trap. -/
theorem witness_RegisterFrame : CanIssue plain0 bead ∧
    [Instr.add two2, .vadd f2, .vadd { f2 with unit := .b, dst := .v 40, a := .v 33, b := .v 34 },
     .xmov { width := 2, idx := 0, src := .v 2, dst := .v 33 }].all (fun i => wellFormed i && match slotOp i, slotOf i with
        | some f, some k => resultSlot k && (f 0 plain0).waits.isNone && (issueTrap 0 {} [f 0 plain0] plain0).isNone
        | _, _ => false) = true :=
  ⟨canIssue_plain0, by decide +kernel⟩
/-- One result of s4, one of lanes of v3 and one of flags are due. -/
theorem witness_ResultsLand : ∃ s : State, (s.ctx 0).run = some bead ∧ (s.ctx 0).freeze = none ∧ (s.ctx 0).unfetched = [] ∧
    (s.ctx 0).arch.wtb.filter (fun e => decide (e.due ≤ (s.ctx 0).arch.cc)) ≠ [] ∧
    (∀ e ∈ (s.ctx 0).arch.wtb.filter (fun e => decide (e.due ≤ (s.ctx 0).arch.cc)),
      cregOf e = none ∧ e.deadline = false ∧ e.waiting = false) ∧
    (∀ d ∈ [Dest.s 4, .v 3, .p 2, .iq, .fq, .aq, .bq, .xq], ∃ e ∈ (s.ctx 0).arch.wtb.filter (fun e => decide (e.due ≤ (s.ctx 0).arch.cc)),
      e.dest = d ∧ ∀ u ∈ (s.ctx 0).arch.wtb.filter (fun e => decide (e.due ≤ (s.ctx 0).arch.cc)), u.dest = d → u = e) :=
  ⟨plain0.modArch 0 fun a => { a with cc := 9, wtb := (landPort (.s 4) 4 7 ++ landPort (.v 3) 4 5 15 ++ landPort (.p 2) 4 9 1 ++
      [Dest.iq, .fq, .aq, .bq, .xq].map (fun d => landLatch d 4 6 14) ++ landFlags 4 1).map (landingOf plain0 0 .s) },
    by decide +kernel, by decide +kernel, by decide +kernel, by decide +kernel, by decide +kernel, by decide +kernel⟩
theorem witness_Checkpoint : (loaded.ctx 0).run = some bead ∧ (loaded.ctx 0).freeze = none ∧
    ((loaded.ctx 0).arch.wtb.filter (·.load)).length ≤ Config.landingMax ∧ (loaded.ctx 0).unfetched = [] := by decide +kernel
/-- The shadow set of `plain0` has no landing; one whose data has not arrived delays the trap. -/
theorem witness_TrapDelivery : (plain0.ctx 0).run = some bead ∧ shadowWaits plain0 0 = false ∧ trapTemplate plain0 bead = 0 ∧
    let u := plain0.modCtx 0 fun x => { x with shadow := { x.shadow with wtb := (landPort (.s 4) 12 7).map fun r =>
      { landingOf plain0 0 .ld r with load := true, waiting := true } } }
    (u.ctx 0).run = some bead ∧ shadowWaits u 0 = true := by decide +kernel
theorem witness_IllEncoded : CanIssue plain0 bead ∧ slotOf (.fence (yW (.s 0) (.s 0) 3)) = some .sy ∧
    wellFormed (.fence (yW (.s 0) (.s 0) 3)) = false := ⟨canIssue_plain0, by decide +kernel, by decide +kernel⟩

/-! Steps of contexts. -/

/-- The state after an operation, or the same state where it does not go on. -/
def after (i : Instr) (s : State) : State := match exec i s with
  | .next t => t
  | _ => s
/-- Bundle of one operation in slot S, with zero header. -/
def bundleS (i : Instr) : Nat := encode i * 2 ^ 16
/-- A landing of `plain0`. -/
def due0 (l : List Result) : List Landing := l.map (landingOf plain0 0 .s)
def ctx0 (f : Ctx → Ctx) : State := recorded.modCtx 0 f
def arch0 (f : Arch → Arch) : State := recorded.modArch 0 f
/-- A trap cause of a code. -/
def causeOf (x : TrapCode) : Cause := Cause.plain x (some .s) 0x20000 0 0
theorem witness_ContextSteps :
  ([(ctx0 fun x => { x with owed := some 2 }, .stallCycle 0),
   (ctx0 fun x => { x with owed := some 0, granted := true }, .bundleIssue 0),
   (ctx0 fun x => { x with owed := some 0 }, .issueMerge 0),
   (arch0 fun a => { a with cc := 9, wtb := due0 (landPort (.s 4) 4 7) }, .resultLand 0),
   (arch0 fun a => { a with cc := 9, wtb := due0 [landLatch (.creg 2) 4 4] }, .controlRegisterWrite 0),
   (arch0 fun a => { a with cc := 9, wtb := due0 [landLatch (.creg 5) 4 4] }, .xpdataWrite 0),
   (arch0 fun a => { a with cc := 9, wtb := due0 [landLatch (.creg 6) 4 4] }, .rqRegisterWrite 0),
   (arch0 fun a => { a with cc := 9, wtb := (due0 (landPort (.s 4) 9 7)).map fun l => { l with deadline := true } }, .atomicReleaseDeadline 0),
   (after (.ld (lB 3 (.s 4))) recorded, .loadDataArrive 0 .clean),
   ((ctx0 fun x => { x with owed := some 0, freeze := some (.registerMiss, 1, false), unfetched := [1] }).writeMem 0x20000 64
      (bundleS (.add two2)), .registerMissMicroTrap 0 1),
   (ctx0 fun x => { x with pendTraps := [causeOf .mchk] }, .trapDelivery 0),
   (ctx0 fun x => { x with owed := none, pendTraps := [{ causeOf .hmfull with deferred := true }] }, .hmFaultTrap 0),
   (ctx0 fun x => { x with spent := 2 ^ 32 }, .budgetOverrun 0),
   ((ctx0 fun x => { x with owed := some 0 }).modMgmt fun m => { m with
      comparators := [(0, BitVec.ofNat 128 (0x20000 + 2 ^ 70 + 2 ^ 112))] }, .debugStop 0),
   (recorded, .worldSwitch 0 1),
   (ctx0 fun x => { x with preempt := some .worldSwitch }, .forcedPreemption 0),
   (ctx0 fun x => { x with preempt := some .cancelled }, .forcedPreemption 0),
   (ctx0 fun x => { x with preempt := some .debugStop }, .forcedPreemption 0),
   (ctx0 fun x => { x with preempt := some .overrun, owed := none }, .forcedPreemption 0),
   (recorded, .pageWalk 0 0x100000),
   (recorded.modCore 0 fun k => { k with phase := some (0, 0, 0) }, .phaseSplitTakesEffect 0)] : List (State × Instr)).all (fun p => (contextStep p.1 p.2).any (·.1)) = true := by decide +kernel

/-! Steps of store queues. -/

/-- The head entry of context 0's store queue. -/
def headOf (a : Act) : Entry :=
  { seq := 0, released := 0, job := 1, sup := false, bead := 0x30000, life := 0, launch := 0, pc := 0x20000, slot := .st, act := a, pins := [] }
def queued (a : Act) : State := ctx0 fun x => { x with storeQ := [headOf a] }
/-- The entry that an operation on tiles or hallmarks withholds. -/
def actOf (i : Instr) : Act := match tileEntry recorded i, hallmarkEntry recorded i with
  | some (_, _, x, _), _ => x recorded
  | none, some (_, _, _, x, _) => x []
  | none, none => .fence 0
/-- A template at 0x340000 of a queue of job 1, and a stopped bead at 0x350000 whose trap record has a code. -/
def spawning (a : Act) : State :=
  let s := (((queued a).writeMem 0x100000 8 0x340000).writeMem 0x350008 8 (3 * 2 ^ 60 + 2 ^ 16)).writeMem 0x350010 8 0x360000
  (s.writeMem 0x360010 8 (2 ^ 56)).modHub fun h => { h with queues := [(0, { Queue.reset with word24 := 2 ^ 32 })] }
def hostByte : Nat := 0x1C0000000000
theorem witness_QueueSteps :
  ([(queued (.store [(0x100000, 5)] []), .drain 0), (queued (.mxWrite 0 true [(0x100000, 5)]), .drain 0),
   (queued (.store [(hostByte, 5)] []), .host 0), (queued (.atomic .add hostByte 8 1 0 [] 0 0), .host 0),
   (queued (.atomic .add 0x100000 8 1 0 [] 0 0), .atom 0), (queued (actOf (.tst (stW (.tl 0) (.s 1) (.s 0)))), .hand 0),
   (queued (actOf (.append (stW (.tl 0) (.s 5) (.s 0)))), .hand 0), (queued (.mxWrite 0 false [(0x100000, 5)]), .mxTileWriteFormed 0),
   (queued (.cbind 0x100000 0x100400 128 0), .cbindPerform 0), (queued (.cacq 0x100000 0), .cacqLock 0),
   (queued (.ctry 0x100000 none 0), .ctryPerform 0), (queued (.crel 0x100000 false 0), .crelPerform 0), (queued (.fence 0), .fencePerform 0),
   (queued (.fence 1), .fencePerform 0), ((queued (.fence 2)).modCtx 0 fun x => { x with hostAddr := some 0 }, .fencePerform 0),
   ((queued (.fence 2)).modCtx 0 fun x => { x with flush := true }, .hostFlushComplete 0), (queued (.sig 0x100000 2 0 0), .sigPerform 0),
   (spawning (.spawn 0x100000), .spawnPerform 0), (queued (.post 1 0 5), .postPerform 0), (queued (.post 1 3 5), .postPerform 0),
   (queued (.cancel 0 0x30000), .cancelPerform 0), (spawning (.eret 0x350000), .eretPerform 0), (queued (.tlbinv 2 1 0), .tlbinvPerform 0),
   ((queued (.qset 8 0 9)).modCtx 0 fun x => { x with storeQ := x.storeQ.map fun e => { e with sup := true } }, .qsetPerform 0),
   (queued (.tsrf 0x200000), .tsrfPerform 0),
   (setPredictor (queued (.epupd 3 7 [1, 2])) 0 3 { predictor recorded 0 3 with bound := true, job := 1 }, .predictorUpdateRelease 0),
   (queued (.epcfg 3 1 7 0), .predictorBindRelease 0)] : List (State × Instr)).all (fun p => (queueStep p.1 p.2).any (·.1)) = true := by decide +kernel
theorem witness_QueueSteps_hallmarks :
  ([(queued (actOf (.hmnode (tW (.tl 1) (.tl 0) (.s 2)))), .hm 0), (queued (actOf (.hmhold (tW (.s 0) (.tl 1) (.s 2)))), .hm 0),
   (queued (actOf (.hmdrop (tW (.s 0) (.tl 1) (.s 2)))), .hm 0), (queued (actOf (.hmswap (tW .none (.tl 1) (.s 1) 10))), .hm 0),
   (queued (actOf (.hmput (tW (.tl 1) (.tl 0) (.s 2)))), .hm 0), (queued (actOf (.hmcopy (tW (.s 0) (.tl 1) (.s 3)))), .hmcopyHmStep 0),
   (queued (actOf (.chsend (yW (.tl 0) (.s 0)))), .chsendHand 0)] : List (State × Instr)).all (fun p => (queueStep p.1 p.2).any (·.1)) = true := by decide +kernel

/-! Steps of transfers, caches and coherence. -/

/-- A transfer that an operation starts, with its number 0. -/
def transferOfOp (i : Instr) : State := match startedTransfer recorded i with
  | some (_, _, x) => { recorded with transfers := [{ x with uid := 0 }] }
  | none => recorded
/-- A transfer of a kind with no pieces left. -/
def endedTransfer (k : TransferKind) : State := match startedTransfer recorded (.tld (lW 0 (.tl 0) (.s 1) (.s 0))) with
  | some (_, _, x) => { recorded with transfers := [{ x with uid := 0, pieces := [], kind := k }] }
  | none => recorded
/-- Line 0x2000 (address 0x100000) with a tag; transactions of three kinds. -/
def line0 : Nat := 0x2000
def homes0 (f : Homes → Homes) : State := recorded.modHomes f
def txn (r : Request) (owner : Option Nat) (fwd : Bool) (acks : List Nat) : HomeTxn :=
  { req := r, q := 1, owner := owner, forwarded := fwd, ownerDirty := false, fromWriteback := false, acks := acks }
def busy0 (x : HomeTxn) : State := homes0 fun h => { h with busy := [(line0, x)] }
/-- Agent 0 holds line 0x2000 in a state. -/
def copied (x : L2Copy) : State := setL2 (setTag recorded line0 (Tag.make 0 0 3)) 0 line0 x
/-- A line of core 0's L1, clean or dirty. -/
def inL1 (dirty : BitVec 128) : State := setL1 recorded 0 line0 { data := 5, valid := BitVec.allOnes 128, dirty := dirty, excl := true, pte := 0 }
/-- A name of kind 0 present in the heap, as `hmput` leaves it. -/
def named0 : State := after (.hm 0)
  (initHeap ((queued (actOf (.hmput (tW (.tl 1) (.tl 0) (.s 2))))).writeMem (windowBase 0 0 + 0x80000) 16 7) 0)
/-- Children of a job's walker, and groups that are done. -/
def walking (f : Hallmarks → Hallmarks) : State := named0.modHall f
/-- Channel 0 of job 1: its receive waits, and the contribution of element 0 is present. -/
def receiving : State := (after (.chrecv (yW (.tl 0) (.s 0))) recorded).modHub fun h => { h with timebase := 2000000 }
/-- A contribution that comes after the TIMEOUT of its element is dropped, and the element is flushed without it: MISSING 1, LATE 1, DELIV 1
(R384, R389). -/
theorem test_late_contribution :
  (match execChannelSlotWrite (.peer 4 1 0 0 0 (List.replicate 512 7)) (expire (receiving.modMgmt fun m => { m with ready := true })) with
    | .next t => t.transfers.length == 0 && vRead t 1 0x300018 8 == 1 + 2 ^ 40 + 2 ^ 48
    | _ => false) = true := by decide +kernel
/-- A NaN operand of a combination under MAX gives the default NaN (R118). -/
theorem test_combine_nan : combine .f32 2 0x7FC00001 0x3F800000 = 0x7FC00000 ∧ combine .f32 2 0x3F800000 0x40000000 = 0x40000000 := by
  decide +kernel
theorem witness_MemorySteps_transfers :
  ([(transferOfOp (.tld (lW 0 (.tl 0) (.s 1) (.s 0))), .piece 0 0), (endedTransfer .load, .count 0), (endedTransfer .store, .count 0),
    (endedTransfer (.append 0x210000 4), .count 0), (endedTransfer (.hmget 7), .count 0), (endedTransfer (.graphCopy 0 0), .count 0),
    (endedTransfer (.hmcopy 0 0), .count 0), (transferOfOp (.tcopy (tW (.tl 3) (.tl 2) (.s 0))), .transformComplete 0),
    (transferOfOp (.tconv (tW (.tl 5) (.tl 2) (.s 0))), .transformComplete 0),
    (endedTransfer (.chsend 1 0 0 0 0 0 2 []), .channelSlotWrite (.transfer 0 0)),
    (endedTransfer (.chsend 1 0 9 0 0 0 2 []), .channelSlotWrite (.transfer 0 0)), (recorded, .channelSlotWrite (.peer 4 1 0 0 0 [])),
    (receiving, .channelFlush 1 0)] : List (State × Instr)).all (fun p => (memoryStep p.1 p.2).any (·.1)) = true := by decide +kernel
/-- A heap of another module's agent 4, whose line stands at 0x1000000 of its memory. -/
def foreignHeap : State := (homes0 fun h => { h with present := [0, 4] }).modHall fun h => { h with
  heaps := [0, 4].map fun a =>
    (a, { hbase := 0x1000000, nlines := 1024, dbase := 0x2000000, word24 := BitVec.ofNat 64 (8 + 4 * 2 ^ 8 + 2 ^ 31 + 16 * 2 ^ 32) }) }
theorem witness_MemorySteps :
  ([({ recorded with recCache := [(0, [(5, 7)])] }, .recordCacheEviction 0 5), (inL1 1, .l1Push 0 ⟨line0, .clean⟩), (inL1 1, .l1Drop 0 line0),
    (inL1 0, .l1Drop 0 line0), (recorded, .rds 0 line0), (recorded, .rdx 0 line0), (recorded, .upg 0 line0),
    (busy0 (txn .rds (some 0) false []), .fwds ⟨line0, false, 7⟩), (busy0 (txn .rdx (some 0) false []), .fwdx ⟨line0, true, 7⟩),
    (busy0 (txn .upg none true [0, 2]), .inv 2 line0),
    (foreignHeap, .inv 0 (4 * 2 ^ 38 + 0x20000)), (busy0 (txn .upg none true []), .transactionComplete line0),
    (copied { st := .m, dirty := true, pinned := false, slice := 0, inWriteback := true }, .wb 0 ⟨line0, 7⟩),
    (copied { st := .e, dirty := false, pinned := false, slice := 0, inWriteback := true }, .ce 0 line0),
    (copied { st := .m, dirty := true, pinned := false, slice := 0, inWriteback := false }, .l2Eviction 0 line0 .clean),
    (copied { st := .s, dirty := false, pinned := false, slice := 0, inWriteback := false }, .l2Eviction 0 line0 .bad),
    (homes0 fun h => { h with present := [0, 4] }, .agentLost 4), (recorded, .flitResend 15), (recorded, .scrub line0 .clean),
    (recorded, .scrub line0 .tagBad)] : List (State × Instr)).all (fun p => (memoryStep p.1 p.2).any (·.1)) = true := by decide +kernel
/-- A name of the heap loses its last hold: its line is freed, its children are dropped and its group counts. -/
theorem witness_MemorySteps_walker :
  let x := nameRow named0 (tileRef recorded 0 (.tl 1)) 0
  let s := (named0.modJob 1 fun j => { j with hmwcnt := 0x330000 })
  x ≠ 0 ∧ (findName named0 0 x).isSome = true ∧
  ([(s.modHall fun h => { h with freeing := [(x, 4, 1)] }, .heapLineFree), (s.modHall fun h => { h with walker := [(4, 1, x)] }, .releaseWalkerDrop 1),
    (s.modHall fun h => { h with groups := [(4, 1, true)] }, .walkerCounterAdd 1)] : List (State × Instr)).all
      (fun p => (memoryStep p.1 p.2).any (·.1)) = true := by decide +kernel

/-! Steps of the hub and of the base dies. -/

def hub0 (f : Hub → Hub) : State := recorded.modHub f
/-- Context 0 idles; queue 0 of job 1 holds one ready bead at 0x350000; the module is up. -/
def waitingBead : State :=
  let s := ((recorded.modCtx 0 fun x => { x with run := none }).writeMem 0x350008 8 (2 ^ 60)).writeMem 0x350010 8 0x360000
  (s.modMgmt fun m => { m with ready := true }).modHub fun h => { h with
    queues := [(0, { Queue.reset with head := 0x350000, tail := 0x350000, word24 := 2 ^ 59 + 2 ^ 32 + 2 ^ 28 + 2 ^ 20 + 2 ^ 4 })] }
/-- A bead at 0x350000 that a debugger has stopped. -/
def stopped0 : State := ((recorded.writeMem 0x350008 8 (3 * 2 ^ 60)).writeMem 0x350028 8 3).modHub fun h => { h with
  saved := [(saveKey 1 0x360000, {
    arch := Arch.fresh, shadow := Arch.fresh, ckpt := 0, ckptUid := 0, withheld := [], issued := 0, owed := none, pendTraps := [], pmctl := 0, pmlock := 0
    pmsel := Vector.replicate 8 0, pmcnt := Vector.replicate 8 0, addr := 0x350000, life := 0, ctx := 0, array := none
    stopSkip := [] })] }
def mgmt0 (f : Management → Management) : State := recorded.modMgmt f
def tiers0 (f : Tiers → Tiers) : State := recorded.modTiers f
/-- A work entry of port 0 of job 1 in a state. -/
def workIn (st : Nat) : State := mgmt0 fun m => { m with work := [(0, BitVec.ofNat 512 (st + 2 ^ 20))] }
theorem witness_HubSteps :
  ([(waitingBead, .arbiterChoice 0), (waitingBead.modHub fun h => { h with chosen := [(0, 0)] }, .beadDispatch 0), (hub0 fun h => { h with timebase := 100000 }, .roundStart),
    (hub0 fun h => { h with starts := [.launch 1 0x340000 .plain] }, .launchStart),
    (hub0 fun h => { h with starts := [.handler 1 0x340000 (.locket 1 0) (some 0) false 0] }, .launchStart),
    (hub0 fun h => { h with starts := [.handler 1 0x340000 (.trap 1 2) none false 0] }, .launchStart),
    (hub0 fun h => { h with handlerWait := [.handler 1 0x340000 (.trap 1 2) none false 0] }, .handlerInstanceStart),
    (hub0 fun h => { h with completing := [{ job := 1, addr := 0x350000, life := 3, launch := 0, ctx := 0 }] }, .beadComplete 0),
    (hub0 fun h => { h with handlersDone := [(1, 0)] }, .locketHandlerComplete 0),
    (hub0 fun h => { h with waiters := [(1, 0x350000, true)] }, .waitWake 0), (recorded, .graphStart 3 1 0x340000),
    (hub0 fun h => { h with graphs := [(5, { die := 0, job := 1, desc := 0x340000, finished := [(0, false)], gone := [], cancelled := false })] },
      .graphNodeComplete 5 0),
    (recorded, .locketMessage 65535 5 (.host 0)), (recorded, .locketMessage 1 5 (.peer 1)), (recorded, .locketMessage 0xFFFF 5 .physicalFunction),
    (hub0 fun h => { h with mail := [{ locket := 1, msg := 5, src := .bead 1 }] }, .locketMessage 1 5 (.bead 1)),
    (hub0 fun h => { h with cancels := [.unit 1 0x30000] }, .cancel), (stopped0, .dbgresWrite 0x350000), (recorded, .functionLevelReset 0),
    (workIn 1, .workEntryRun 0 0), (workIn 2, .workRunComplete 0 0), (hub0 fun h => { h with aborts := [1] }, .collectiveAbort 1),
    (recorded, .abortMessage 1 4)] : List (State × Instr)).all (fun p => (hubStep p.1 p.2).any (·.1)) = true := by decide +kernel
/-- The lowest page of an agent is the one that moves, where it lies in HBM with count 0 and may move. -/
theorem coldPage_first (s : State) (a : Nat)
    (h : (inHbm s (firstPage a) && pageCountOf s (firstPage a) == 0 && !isNomig s (firstPage a)) = true) :
    coldPage s a = some (firstPage a) := by
  have e : coldFrom s 0 memPages (firstPage a) = some (firstPage a) := by
    rw [show memPages = (312 * gib / 2 ^ 16 - 1) + 1 by decide, coldFrom, if_pos h]
  simp [coldPage, List.range_succ, firstSome, e]
/-- A page of the capacity tier has reached 32 accesses. -/
def hot0 : State := ((State.reset.modHomes fun h => { h with present := [0] }).modTiers fun t => { t with
  pageCount := [(hbmPages + 5, 40)] }).modMgmt fun m => { m with migen := true }
theorem witness_DeviceSteps_migration : (deviceStep hot0 (.pageMigrate 0 .clean)).any (·.1) = true := by
  have h : hotPage hot0 0 = some (hbmPages + 5) := by decide +kernel
  have c := coldPage_first hot0 0 (by decide +kernel)
  have m : hot0.tiers.migrating.get? 0 = none := rfl
  simp only [deviceStep, h, c, m, Option.any_some]
  decide +kernel
theorem witness_DeviceSteps :
  ([((mgmt0 fun m => { m with migen := true }).modHub fun h => { h with timebase := 2000000 }, .migratorEpoch 0),
    (tiers0 fun t => { t with migrating := [(0, { up := hbmPages + 5, down := 7, done := 0, busy := false })] }, .pageMigrate 0 .clean),
    (tiers0 fun t => { t with migrating := [(0, { up := hbmPages + 5, down := 7, done := 511, busy := true })] }, .pageMigrate 0 .clean),
    (recorded, .dcctlWrite 7 12), (setDcctl recorded 0 { dcctl recorded 0 with busy := true, target := 2 }, .nearConversionDone 0),
    (setDcctl recorded 0 { dcctl recorded 0 with ways := 3, busy := true }, .nearConversionDone 0),
    (hub0 fun h => { h with timebase := 4000 }, .refresh 0 0), (tiers0 fun t => { t with hotDue := [(0, 3)] }, .hotRowCapture 0 3),
    (hub0 fun h => { h with timebase := 64000000 }, .refreshWindowEnd 0), (recorded.modHall fun h => { h with heapInit := [0] }, .heapInit 0), (recorded, .mctlHalt true),
    (recorded, .mctlMigen true), (recorded, .pwrAllowWrite 900), (recorded, .powerGrantSend 15 0), (recorded, .powerGrantReceive 15 40),
    (recorded, .operatingPointChange 6), (recorded, .operatingPointChange 10), (recorded, .thermalLimit 105), (recorded, .thermalLimit 115),
    (recorded, .moduleReset), (recorded, .bringUpStep Config.flash ⟨0, 0xF⟩), (hub0 fun h => { h with resync := [0x52] }, .resync),
    (hub0 fun h => { h with resync := [0x52, 0x41] }, .attestation)] : List (State × Instr)).all
      (fun p => (deviceStep p.1 p.2).any (·.1)) = true := by decide +kernel

/-! The whole machine. -/

/-- One byte at 0x100000, in the window of core 0 (not cacheable), drains. -/
theorem witness_StoredBytes : let a := windowBase 0 0 + 0x80000
    let s := queued (.store [(a, 5), (a + 1, 6)] [])
    MemoryInv s ∧ (s.ctx 0).storeQ.head? = some (headOf (.store [(a, 5), (a + 1, 6)] [])) ∧
    hostStep s (headOf (.store [(a, 5), (a + 1, 6)] [])) = false ∧ phaseHolds s 0 = false ∧
    drainFault s (coreOf 0) [] [(a, 5), (a + 1, 6)] = none ∧
    (∀ p ∈ [(a, (5 : Byte)), (a + 1, 6)], cacheable s p.1 (pteOf [] p.1) = false ∧ ownMgmt s p.1 = false) ∧
    [(a, (5 : Byte)), (a + 1, 6)].Pairwise (fun p q => p.1 ≠ q.1) := by unfold MemoryInv; decide +kernel
/-- Two bytes of an ordinary line: with an L1 of 256 KiB, and with none. -/
def cached (u : Nat) : State := (queued (.store [(0x500000, 5), (0x500001, 6)] [])).modCore 0 fun k => { k with u := u }
theorem witness_StoredBytes_cacheable : [1, 0].all (fun u => let s := cached u
    Memory.wf s.mem && hostStep s (headOf (.store [(0x500000, 5), (0x500001, 6)] [])) == false && !phaseHolds s 0 &&
    (drainFault s 0 [] [(0x500000, 5), (0x500001, 6)]).isNone && [0x500000, 0x500001].all (fun a => cacheable s a 0 && !ownMgmt s a) &&
    decide ((l1Set s 0 (0x500000 / 128)).length < Config.l1Ways) && s.cores.all (fun (_, x) => (x.l1.get? (0x500000 / 128)).isNone)) =
    true := by decide +kernel
/-- The bytes drain into the L1, dirty, and into memory where there is none (R196, R256). -/
theorem test_drain_cacheable :
    (match exec (.drain 0) (cached 1) with
      | .next t => l1Byte t 0 0x500001 == some 6 && l1Dirty t 0 0x500001 && (l1Byte t 0 0x500002).isNone && t.readMem 0x500000 2 == 0
      | _ => false) = true ∧
    (match exec (.drain 0) (cached 0) with
      | .next t => t.readMem 0x500000 2 == 0x605
      | _ => false) = true := by decide +kernel
theorem inr_of {x : Sum FetchFault (Nat × W64)} {n : Nat} (h : (match x with
    | .inr (k, _) => k == n
    | .inl _ => false) = true) : ∃ e, x = .inr (n, e) := by
  rcases x with _ | ⟨k, e⟩ <;> simp_all
/-- The bundle `add s4, s1, #128` at the pc of a granted context. -/
def issuing : State := { (ctx0 fun x => { x with owed := some 0, granted := true }).writeMem 0x20000 64
  (bundleS (.add (sW 3 (.s 4) (.s 1) .imm 128))) with script := [.bundleIssue 0] }
/-- The same state at the time of its step, with its script taken. -/
def issuing0 : State := { expire (tick issuing) with script := [] }
theorem witness_StepRunsDecoded_state : issuing.script = [.bundleIssue 0] ∧ moves issuing0 0 = true ∧ debugStops issuing0 0 = false ∧
    stallLeft issuing0 0 = 0 ∧ freezeAt issuing0 0 (opsAt issuing0 0) = none ∧ (issuing0.ctx 0).granted = true ∧
    breaksAt issuing0 0 = false := by decide +kernel
theorem witness_StepRunsDecoded_fetch : ∃ e, fetchPlace issuing0 0 = .inr (0x20000, e) := inr_of (by decide +kernel)
theorem witness_StepRunsDecoded_bundle :
    (decodeBundle (bundleBits issuing0 (coreOf 0) 0x20000)).reservedBits = false ∧
    (decodeBundle (bundleBits issuing0 (coreOf 0) 0x20000)).slots = [(.s, .op (.add (sW 3 (.s 4) (.s 1) .imm 128)))] ∧
    (let d := decodeBundle (bundleBits issuing0 (coreOf 0) 0x20000)
     ({ early := d.early, lend := d.lend, ckpt := d.ckpt } : Header) = loneHeader (.add (sW 3 (.s 4) (.s 1) .imm 128))) := by
  decide +kernel
theorem witness_MemoryInvStep : MemoryInv recorded ∧
    (match step { recorded with script := [.mctlHalt true] } with
      | .next t => t.mgmt.halt
      | _ => false) = true := by unfold MemoryInv; decide +kernel
theorem witness_StepsGoOn : (match step { State.reset with script := [.add two2] } with
    | .fault _ => true
    | _ => false) = true := by decide +kernel
/-- The digest of the three bytes "abc", its first eight bytes (FIPS 180-4's own example). -/
theorem test_digest : (Sha.digest [0x61, 0x62, 0x63]).take 8 = [0xDD, 0xAF, 0x35, 0xA1, 0x93, 0x61, 0x7A, 0xBA] := by decide +kernel
/-- A word that the host places runs as the first step: two landings of `xmov.w1024 v33, v2` (R110). -/
theorem test_withFetchWord : decodeTableWord 32 0x20426101 = some (.xmov { width := 2, idx := 0, src := .v 2, dst := .v 33 }) ∧
    (match step (State.reset.withFetchWord 32 0x20426101) with
      | .next t => (t.ctx 0).arch.wtb.length
      | _ => 0) = 2 := by decide +kernel
/-- A load that finds a correctable error of its line, with two bits corrected: the entry of the fault log has kind 1, agent 0, unit 0,
job 1 and the corrected bit (R273, R393). -/
theorem test_corrected_load :
  (let s := after (.ld (lB 3 (.s 4))) recorded
   match step { s.modHomes fun h => { h with latent := [(8192, .corrected 2)] } with script := [.loadDataArrive 0 .clean] } with
    | .next t => t.mgmt.flogN == 1 && (t.mgmt.flog.all fun x =>
        bitsOf x.2.toNat 128 8 == 1 && bitsOf x.2.toNat 136 24 == 2 ^ 16 && bitsOf x.2.toNat 160 16 == 1 && bitsOf x.2.toNat 320 64 == 2)
    | _ => false) = true := by decide +kernel
/-- An agent on another module that holds a line in E writes it: the bytes are the line's from then on, and its copy is dirty (R219, R222). -/
theorem test_peer_write :
  (let s := setL2 (setTag (recorded.modHomes fun h => { h with present := [0, 4] }) line0 (Tag.make 0 4 2)) 4 line0 (copyIn 0 .e)
   let t := peerAct s (.write 4 line0 [(0x100000, 9)])
   t.readMem 0x100000 1 == 9 && ownerAnswer t 4 line0 == (false, true)) = true := by decide +kernel

end Sys2Proof.Tests
end

section
/-! SUPPORT. The checks of a lone operation that raises ILLSCHED itself, vectors made of lanes, and the crossbar and its patterns
(R56, R58, R110 to R112). -/
namespace Sys2Proof.Crossbar
open Sys2Proof Sys2Proof.Machine Sys2Proof.Claims

/-! ### A lone operation that raises ILLSCHED -/

/-- A colliding write meets an older one, or stands more than once among the new ones (R53). -/
theorem exists_of_collision : (l old : List (Dest × Nat)) → collision old l = true →
    ∃ w ∈ l, collides w.1 = true ∧ (w ∈ old ∨ 1 < (l.filter (· == w)).length)
  | [], _, h => by simp [collision] at h
  | w :: r, old, h => by
    simp only [collision, Bool.or_eq_true, Bool.and_eq_true, List.contains_iff_mem] at h
    rcases h with ⟨hc, hw⟩ | h
    · exact ⟨w, by simp, hc, .inl hw⟩
    · obtain ⟨v, hv, hc, hm⟩ := exists_of_collision r (w :: old) h
      refine ⟨v, by simp [hv], hc, ?_⟩
      have hle : (r.filter (· == v)).length ≤ ((w :: r).filter (· == v)).length :=
        ((List.sublist_cons_self w r).filter _).length_le
      rcases hm with hm | hm
      · rcases List.mem_cons.mp hm with rfl | hm
        · have hpos : 0 < (r.filter (· == v)).length := List.length_pos_of_mem (List.mem_filter.mpr ⟨hv, by simp⟩)
          right
          simp only [List.filter_cons, beq_self_eq_true, if_true, List.length_cons]
          omega
        · exact .inl hm
      · exact .inr (by omega)

/-- A write that collides is one that `bundleField` finds. -/
theorem any_meetsWrite_of_collision {a : Arch} {l : List (Dest × Nat)}
    (h : collision (a.wtb.map fun x => (x.dest, x.due)) l = true) : l.any (meetsWrite a l) = true := by
  obtain ⟨w, hw, hc, hm⟩ := exists_of_collision l _ h
  refine List.any_eq_true.mpr ⟨w, hw, ?_⟩
  simp only [meetsWrite, hc, Bool.true_and, Bool.or_eq_true, decide_eq_true_eq]
  refine hm.imp_left fun hm => ?_
  obtain ⟨x, hx, rfl⟩ := List.mem_map.mp hm
  exact List.any_eq_true.mpr ⟨x, hx, by simp⟩

/-- Where a lone operation outside a loop's end breaks a condition of the whole bundle, its slot is the field that is reported (R58). -/
theorem bundleField_of_badBundle {x : Ctx} {o : Op} (hn : (x.arch.wtb.filter (·.load)).length ≤ 64)
    (he : x.withheld.length ≤ 256) (h : badBundle x {} [o] = true) : bundleField x {} [o] = some o.slot := by
  have hload : 64 < (x.arch.wtb.filter (·.load)).length + o.loads.length → o.loads.isEmpty = false := fun h => by
    cases hl : o.loads with
    | nil =>
      simp only [hl, List.length_nil] at h
      omega
    | cons => rfl
  have hentry : 256 < x.withheld.length + o.entries → o.entries ≠ 0 := by omega
  have hwide : 6 < o.groups → o.groups ≠ 0 := by omega
  have hmeet := any_meetsWrite_of_collision (a := x.arch) (l := writesOf x.arch.cc [o])
  have hrq : ¬1 < ([o].filter (·.rq)).length := Nat.not_lt.mpr (List.length_filter_le _ [o])
  simp only [badBundle, List.map_cons, List.map_nil, List.sum_cons, List.sum_nil, Nat.add_zero, List.any_cons, List.any_nil,
    Bool.or_false, Bool.and_false, Bool.false_and, Bool.or_eq_true, Bool.and_eq_true, decide_eq_true_eq, Bool.false_eq_true,
    if_false, Bool.not_false, Bool.true_or, and_true] at h
  simp only [bundleField, Bool.false_and, Bool.false_eq_true, if_false]
  rw [List.find?_cons_of_pos, Option.map_some]
  simp only [List.map_cons, List.map_nil, List.sum_cons, List.sum_nil, Nat.add_zero, Bool.or_eq_true, Bool.and_eq_true,
    decide_eq_true_eq, bne_iff_ne, Bool.not_eq_true', Bool.not_false, and_true]
  rcases h with ((((((h | h) | h) | h) | h) | h) | h) | h
  · simp [h]
  · simp [h]
  · simp [h, hentry h]
  · simp [h, hload h]
  · simp [hmeet h]
  · simp [h, hwide h]
  · exact absurd h hrq
  · exact .inr h

theorem chooseIssue_of_all_eq {x : Cause} : (l : List Cause) → x ∈ l → (∀ y ∈ l, y = x) → chooseIssue l = some x
  | y :: r, _, h => by
    obtain rfl : y = x := h y (by simp)
    cases r with
    | nil => rfl
    | cons z r =>
      have hr : ∀ w ∈ z :: r, w = y := fun w hw => h w (List.mem_cons_of_mem _ hw)
      rw [chooseIssue, chooseIssue_of_all_eq (z :: r) (by simp [hr z (by simp)]) hr]
      simp

/-- A lone operation that raises ILLSCHED itself is reported at its own slot, whatever else its bundle breaks (R58). -/
theorem issueTrap_illsched {s : State} {b : Bead} {o : Op} (hs : CanIssue s b)
    (ht : o.traps = [causeAt s s.cur o.slot .illsched 0]) :
    issueTrap s.cur {} [o] s = some (causeAt s s.cur o.slot .illsched 0) := by
  refine chooseIssue_of_all_eq _ (by simp [ht]) fun y hy => ?_
  simp only [List.flatMap_cons, List.flatMap_nil, List.append_nil, ht, List.mem_append, List.mem_singleton, trapIf] at hy
  rcases hy with (rfl | hy) | hy
  · rfl
  · split at hy <;> simp_all
  · split at hy
    · rename_i hb
      rw [bundleField_of_badBundle hs.loads hs.entries hb] at hy
      simpa [causeAt] using hy
    · simp at hy

/-- Such an operation traps, and its bundle does nothing else (R58, R338). -/
theorem issueAlone_illsched {i : Instr} {k : Slot} {f : OpFn} {s : State} {b : Bead} (hs : CanIssue s b) (hw : wellFormed i = true)
    (hh : loneHeader i = {}) (hq : (f s.cur s).waits = none) (hk : (f s.cur s).slot = k)
    (ht : (f s.cur s).traps = [causeAt s s.cur k .illsched 0]) :
    issueAlone i k f s = .next (takeTrap s s.cur (causeAt s s.cur k .illsched 0)) := by
  subst hk
  exact issueAlone_traps hs hw (by rw [hh]; exact hq) (by rw [hh]; exact issueTrap_illsched hs ht)

/-! ### Vectors made of lanes -/

theorem joinLanes_lt (s : Nat) : (l : List Nat) → joinLanes s l < 2 ^ (s * l.length)
  | [] => by simp [joinLanes]
  | x :: r => by
    have hx : x % 2 ^ s < 2 ^ s := Nat.mod_lt _ (Nat.two_pow_pos s)
    have hr : joinLanes s r + 1 ≤ 2 ^ (s * r.length) := joinLanes_lt s r
    calc joinLanes s (x :: r) < 2 ^ s * (joinLanes s r + 1) := by simp only [joinLanes, Nat.mul_add]; omega
      _ ≤ 2 ^ s * 2 ^ (s * r.length) := Nat.mul_le_mul_left _ hr
      _ = 2 ^ (s * (x :: r).length) := by rw [← Nat.pow_add, List.length_cons, Nat.mul_succ, Nat.add_comm]

theorem joinLanes_div_mod (s : Nat) : (l : List Nat) → (i : Nat) → joinLanes s l / 2 ^ (s * i) % 2 ^ s = l.getD i 0 % 2 ^ s
  | [], i => by simp [joinLanes]
  | x :: r, 0 => by simp [joinLanes]
  | x :: r, i + 1 => by
    have hx : (x % 2 ^ s + 2 ^ s * joinLanes s r) / 2 ^ s = joinLanes s r := by
      rw [Nat.add_mul_div_left _ _ (Nat.two_pow_pos s), Nat.div_eq_of_lt (Nat.mod_lt _ (Nat.two_pow_pos s)), Nat.zero_add]
    rw [joinLanes, Nat.mul_succ, Nat.add_comm (s * i), Nat.pow_add, ← Nat.div_div_eq_div_mul, hx, joinLanes_div_mod s r i,
      List.getD_cons_succ]

theorem toNat_ofNat_joinLanes {s w : Nat} {l : List Nat} (h : s * l.length ≤ w) :
    (BitVec.ofNat w (joinLanes s l)).toNat = joinLanes s l := by
  rw [BitVec.toNat_ofNat, Nat.mod_eq_of_lt ((joinLanes_lt s l).trans_le (Nat.pow_le_pow_right Nat.two_pos h))]

/-- Lane `i` of a vector that is made of lanes. -/
theorem lane_joinLanes {s : Nat} {l : List Nat} (h : s * l.length ≤ 1024) (i : Nat) :
    lane (BitVec.ofNat 1024 (joinLanes s l)) s i = BitVec.ofNat s (l.getD i 0) := by
  apply BitVec.eq_of_toNat_eq
  rw [lane, BitVec.extractLsb'_toNat, toNat_ofNat_joinLanes h, Nat.shiftRight_eq_div_pow, joinLanes_div_mod, BitVec.toNat_ofNat]

/-- A vector that is made of lanes has zeros above them. -/
theorem getLsbD_joinLanes_above {s : Nat} {l : List Nat} (h : s * l.length ≤ 1024) {k : Nat} (hk : s * l.length ≤ k) :
    (BitVec.ofNat 1024 (joinLanes s l)).getLsbD k = false := by
  rw [BitVec.getLsbD, toNat_ofNat_joinLanes h]
  exact Nat.testBit_lt_two_pow ((joinLanes_lt s l).trans_le (Nat.pow_le_pow_right (by decide) hk))

/-- A lane that `splitLanes` gives is the lane of the vector. -/
theorem ofNat_splitLanes_getD {s n j : Nat} (v : VReg) (h : j < n) :
    BitVec.ofNat s ((splitLanes s n v).getD j 0) = lane v s j := by
  rw [splitLanes, List.getD_eq_getElem _ _ (by simpa using h), List.getElem_map, List.getElem_range, BitVec.ofNat_toNat,
    BitVec.setWidth_eq, lane]

/-! ### Crossbar operations -/

theorem width_le_two_of_wellFormed {a : XArgs} (h : wellFormed (.xperm a) = true) : a.width.toNat ≤ 2 := by
  have hw : a.width ≠ 3 := by
    intro e
    simp [wellFormed, WF.x, e] at h
  have := a.width.isLt
  have : a.width.toNat ≠ 3 := fun e => hw (BitVec.eq_of_toNat_eq e)
  omega

theorem mul_lanesX (a : XArgs) : 32 * lanesX a = widthX a := by
  unfold lanesX widthX
  omega

theorem widthX_le {a : XArgs} (h : a.width.toNat ≤ 2) : widthX a ≤ 1024 := by
  have : 2 ^ a.width.toNat ≤ 2 ^ 2 := Nat.pow_le_pow_right (by decide) h
  unfold widthX
  omega

theorem apart_crossResult (a : XArgs) (v : Nat) : Apart (crossResult a v) := by
  have h := apart_result a.dst .xq 2 (BitVec.ofNat 1024 v) (BitVec.ofNat 1024 v) (BitVec.ofNat 1024 (2 ^ widthX a - 1))
    (BitVec.allOnes 1024) 0 (by simp)
  rwa [show landFlags 2 0 = [] from rfl, List.append_nil] at h

/-- An X operation that makes its lanes from its source's, and raises no trap, completes with them (R110). -/
theorem completes_crossOp {i : Instr} {a : XArgs} {f : OpFn} {g : List Nat → Nat → Nat → Nat} {s : State} {b : Bead}
    (hs : CanIssue s b) (hw : wellFormed i = true) (he : exec i s = issueAlone i .x f s) (hh : loneHeader i = {})
    (hf : f s.cur s = crossOp a g s.cur s) :
    Completes i .x (readCodes a.src) (crossResult a (joinLanes 32 ((List.range (lanesX a)).map
      (g (splitLanes 32 (lanesX a) (readVector (s.ctx s.cur).arch a.src)) (lanesX a))))) s :=
  completes_of hs hw he hh (by decide) (apart_crossResult a _) hf rfl rfl rfl rfl rfl rfl (Nat.zero_le _) rfl rfl rfl rfl rfl rfl

/-! ### Patterns -/

theorem mem_of_firstSome {α : Type} {x : α} : (l : List (Option α)) → firstSome l = some x → some x ∈ l
  | some y :: r, h => by simp_all [firstSome]
  | none :: r, h => List.mem_cons_of_mem _ (mem_of_firstSome r h)

theorem eq_none_of_firstSome {α : Type} : (l : List (Option α)) → firstSome l = none → ∀ x ∈ l, x = none
  | [], _ => by simp
  | none :: r, h => by simpa using eq_none_of_firstSome r h

/-- The byte at index `j` of a pattern aims source lane `j` at lane `i` (R111). -/
def Aims (bytes : List Nat) (j i : Nat) : Prop := patternV (bytes.getD j 0) = true ∧ patternDest (bytes.getD j 0) = i

/-- The lane that a pattern names for lane `i` is aimed at it. -/
theorem aims_of_patternSource {bytes : List Nat} {i j : Nat} (h : patternSource bytes i = some j) :
    j < bytes.length ∧ Aims bytes j i := by
  obtain ⟨⟨b, k⟩, hm, hb⟩ := List.mem_map.mp (mem_of_firstSome _ h)
  simp only [Option.ite_none_right_eq_some, Bool.and_eq_true, beq_iff_eq, Option.some.injEq] at hb
  obtain ⟨haim, rfl⟩ := hb
  have hk : bytes[k]? = some b := List.mem_zipIdx_iff_getElem?.mp hm
  exact ⟨(List.getElem?_eq_some_iff.mp hk).1, by simpa [Aims, List.getD_eq_getElem?_getD, hk] using haim⟩

/-- Where a pattern names no lane for lane `i`, none is aimed at it. -/
theorem not_aims_of_patternSource {bytes : List Nat} {i j : Nat} (h : patternSource bytes i = none) (hj : j < bytes.length) :
    ¬Aims bytes j i := by
  have hm : (bytes[j], j) ∈ bytes.zipIdx := List.mem_zipIdx_iff_getElem?.mpr (List.getElem?_eq_getElem hj)
  have hn := eq_none_of_firstSome _ h _ (List.mem_map_of_mem hm)
  simpa [Aims, List.getD_eq_getElem?_getD, hj] using hn

/-- Two bytes aim at one lane below `n`. -/
def SameLane (n b q : Nat) : Prop := patternV b = true ∧ patternV q = true ∧ patternDest b = patternDest q ∧ patternDest b < n

/-- A pattern has nonzero reserved bits in a valid byte, or two sources for one of the `n` lanes (R56, R112). -/
def Unusable (n : Nat) (bytes : List Nat) : Prop :=
  (∃ j, j < n ∧ patternV (bytes.getD j 0) = true ∧ bytes.getD j 0 / 32 % 4 ≠ 0) ∨
    ∃ j k, j < k ∧ k < n ∧ SameLane n (bytes.getD j 0) (bytes.getD k 0)

theorem patternClash_eq_false_iff (n : Nat) : (l : List Nat) → (patternClash n l = false ↔ l.Pairwise fun b q => ¬SameLane n b q)
  | [] => by simp [patternClash]
  | b :: r => by
    rw [patternClash, Bool.or_eq_false_iff, patternClash_eq_false_iff n r, List.pairwise_cons]
    refine and_congr_left fun _ => ?_
    rw [← Bool.not_eq_true]
    simp only [SameLane, Bool.and_eq_true, decide_eq_true_eq, List.any_eq_true, beq_iff_eq]
    grind

theorem patternClash_iff (n : Nat) (bytes : List Nat) : patternClash n bytes = true ↔
    ∃ j k, j < k ∧ k < bytes.length ∧ SameLane n (bytes.getD j 0) (bytes.getD k 0) := by
  rw [← Bool.not_eq_false, patternClash_eq_false_iff, List.pairwise_iff_getElem]
  push Not
  constructor
  · rintro ⟨j, k, hj, hk, hjk, h⟩
    exact ⟨j, k, hjk, hk, by rwa [List.getD_eq_getElem _ _ hj, List.getD_eq_getElem _ _ hk]⟩
  · rintro ⟨j, k, hjk, hk, h⟩
    exact ⟨j, k, hjk.trans hk, hk, hjk, by rwa [List.getD_eq_getElem _ _ (hjk.trans hk), List.getD_eq_getElem _ _ hk] at h⟩

theorem patternBad_iff {n : Nat} {bytes : List Nat} (h : bytes.length = n) : patternBad n bytes = true ↔ Unusable n bytes := by
  subst h
  rw [patternBad, Bool.or_eq_true, patternClash_iff]
  refine or_congr ?_ Iff.rfl
  simp only [List.any_eq_true, Bool.and_eq_true, bne_iff_ne]
  constructor
  · rintro ⟨b, hm, h⟩
    obtain ⟨j, hj, rfl⟩ := List.mem_iff_getElem.mp hm
    exact ⟨j, hj, by rwa [List.getD_eq_getElem _ _ hj]⟩
  · rintro ⟨j, hj, h⟩
    exact ⟨bytes[j], List.getElem_mem hj, by rwa [List.getD_eq_getElem _ _ hj] at h⟩

/-- A usable pattern aims at most one lane at each. -/
theorem Aims.unique {n : Nat} {bytes : List Nat} (h : ¬Unusable n bytes) {i j k : Nat} (hi : i < n) (hj : j < n) (hk : k < n)
    (aj : Aims bytes j i) (ak : Aims bytes k i) : j = k := by
  obtain ⟨vj, dj⟩ := aj
  obtain ⟨vk, dk⟩ := ak
  have hlt : ∀ {p q : Nat}, p < q → q < n → patternV (bytes.getD p 0) = true → patternV (bytes.getD q 0) = true →
      patternDest (bytes.getD p 0) = i → patternDest (bytes.getD q 0) = i → False :=
    fun hpq hq vp vq dp dq => h (.inr ⟨_, _, hpq, hq, vp, vq, dp.trans dq.symm, dp ▸ hi⟩)
  rcases Nat.lt_trichotomy j k with hjk | hjk | hjk
  · exact (hlt hjk hk vj vk dj dk).elim
  · exact hjk
  · exact (hlt hjk hj vk vj dk dj).elim

theorem patternSource_of_aims {n : Nat} {bytes : List Nat} (hn : bytes.length = n) (h : ¬Unusable n bytes) {i j : Nat} (hi : i < n)
    (hj : j < n) (ha : Aims bytes j i) : patternSource bytes i = some j := by
  subst hn
  cases hp : patternSource bytes i with
  | none => exact absurd ha (not_aims_of_patternSource hp hj)
  | some k =>
    obtain ⟨hk, hak⟩ := aims_of_patternSource hp
    rw [Aims.unique h hi hk hj hak ha]

theorem patternSource_of_not_aims {bytes : List Nat} {i : Nat} (h : ∀ j, j < bytes.length → ¬Aims bytes j i) :
    patternSource bytes i = none := by
  cases hp : patternSource bytes i with
  | none => rfl
  | some k =>
    obtain ⟨hk, ha⟩ := aims_of_patternSource hp
    exact absurd ha (h k hk)

/-! ### xperm -/

theorem exec_xperm (a : XArgs) (s : State) : exec (.xperm a) s = issueAlone (.xperm a) .x (opXperm a) s := rfl

/-- The bytes of its pattern that an `xperm` examines (R112). -/
def examined (a : XArgs) (r : Arch) : List Nat := (List.range (lanesX a)).map (patternByte r a)

theorem length_examined (a : XArgs) (r : Arch) : (examined a r).length = lanesX a := by simp [examined]

/-- The lane that an `xperm` gives lane `i` of its result: the source's lane that the pattern aims there, or zero (R112). -/
def permuted (bytes x : List Nat) (i : Nat) : Nat := match patternSource bytes i with
  | some j => x.getD j 0
  | none => 0

theorem opXperm_of_usable {a : XArgs} {s : State} {c : Nat} (h : ¬Unusable (lanesX a) (examined a (s.ctx c).arch)) :
    opXperm a c s = crossOp a (fun x _ => permuted (examined a (s.ctx c).arch) x) c s := by
  have hb : patternBad (lanesX a) (examined a (s.ctx c).arch) = false := by
    rw [← Bool.not_eq_true, patternBad_iff (length_examined a _)]
    exact h
  have ht : trapIf (patternBad (lanesX a) (examined a (s.ctx c).arch)) s c .x .illsched = [] := by rw [hb, trapIf_false]
  exact congrArg (fun t => { crossOp a (fun x _ => permuted (examined a (s.ctx c).arch) x) c s with traps := t }) ht

theorem traps_opXperm_of_unusable {a : XArgs} {s : State} {c : Nat} (h : Unusable (lanesX a) (examined a (s.ctx c).arch)) :
    (opXperm a c s).traps = [causeAt s c .x .illsched 0] := by
  have hb := (patternBad_iff (length_examined a _)).mpr h
  exact (congrArg (fun t => trapIf t s c .x .illsched) hb).trans (trapIf_true s c .x .illsched 0)

theorem permuted_of_aims {n : Nat} {bytes : List Nat} (x : List Nat) (hn : bytes.length = n) (h : ¬Unusable n bytes) {i j : Nat}
    (hi : i < n) (hj : j < n) (ha : Aims bytes j i) : permuted bytes x i = x.getD j 0 := by
  rw [permuted, patternSource_of_aims hn h hi hj ha]

theorem permuted_of_not_aims {bytes : List Nat} (x : List Nat) {i : Nat} (h : ∀ j, j < bytes.length → ¬Aims bytes j i) :
    permuted bytes x i = 0 := by
  rw [permuted, patternSource_of_not_aims h]

/-- Settles O22.  A usable pattern leaves a crossing of lanes, whose value the lemmas on lanes and patterns give; any other raises
ILLSCHED at slot X, which is reported whatever else the bundle breaks. -/
theorem crossbarPattern : Obligations.CrossbarPattern := by
  intro a s b hw hs n r bytes x bad
  have hlen : bytes.length = n := length_examined a r
  refine ⟨fun hok => ?_, fun hbad => ?_⟩
  · let xs := splitLanes 32 n x
    let l := (List.range n).map (permuted bytes xs)
    have hl : 32 * l.length = widthX a := by simpa [l] using mul_lanesX a
    have hle : 32 * l.length ≤ 1024 := hl.trans_le (widthX_le (width_le_two_of_wellFormed hw))
    have hget : ∀ i, i < n → l.getD i 0 = permuted bytes xs i := fun i hi => by
      simp [l, List.getD_eq_getElem?_getD, hi]
    refine ⟨BitVec.ofNat 1024 (joinLanes 32 l), fun i hi j hj hv hd => ?_, fun i hi hno => ?_, fun k hk => ?_, ?_⟩
    · rw [lane_joinLanes hle, hget i hi, permuted_of_aims xs hlen hok hi hj ⟨hv, hd⟩, ofNat_splitLanes_getD x hj]
    · rw [lane_joinLanes hle, hget i hi, permuted_of_not_aims xs fun j hj => hno j (hlen ▸ hj)]
      rfl
    · exact getLsbD_joinLanes_above hle (hl.trans_le hk)
    · exact completes_crossOp hs hw (exec_xperm a s) rfl (opXperm_of_usable hok)
  · exact (exec_xperm a s).trans (issueAlone_illsched hs hw rfl rfl rfl (traps_opXperm_of_unusable hbad))

end Sys2Proof.Crossbar
end

section
/-! SUPPORT. The words of the SY slot, the trap that a lone operation raises where nothing forbids its bundle, and `trap` itself
(R24, R30, R58, R336, R338, R356). -/
namespace Sys2Proof.TrapOperation
open Sys2Proof Sys2Proof.Machine Sys2Proof.Claims

/-! ### Words of the SY slot -/

/-- No two ports share a code, and no port has a reserved one (R30). -/
theorem ofCode_code : (q : Port) → Port.ofCode q.code = some q
  | .s n => by revert n; decide
  | .v n => by revert n; decide
  | .p n => by revert n; decide
  | .tl n => by revert n; decide
  | .const k => by revert k; decide
  | .iq | .fq | .aq | .bq | .xq | .rq | .none | .imm => rfl

theorem toNat_append_eq_add {m n : Nat} (x : BitVec m) (y : BitVec n) : (x ++ y).toNat = x.toNat * 2 ^ n + y.toNat := by
  rw [BitVec.toNat_append, ← Nat.shiftLeft_add_eq_or_of_lt y.isLt, Nat.shiftLeft_eq]

/-- The fields of an SY word at their first bits (R24). -/
theorem toNat_packY (op : BitVec 8) (a : YArgs) : (packY op a).toNat =
    op.toNat + a.a.code.toNat * 2 ^ 8 + a.b.code.toNat * 2 ^ 16 + a.imm.toNat * 2 ^ 24 + a.pred.toNat * 2 ^ 44 := by
  simp only [packY, toNat_append_eq_add]
  omega

/-- A field of an SY word is what stands at its bits. -/
theorem extractLsb'_packY (op : BitVec 8) (a : YArgs) :
    (packY op a).extractLsb' 0 8 = op ∧ (packY op a).extractLsb' 8 8 = a.a.code ∧ (packY op a).extractLsb' 16 8 = a.b.code ∧
    (packY op a).extractLsb' 24 20 = a.imm ∧ (packY op a).extractLsb' 44 4 = a.pred := by
  have ho := op.isLt
  have ha := a.a.code.isLt
  have hb := a.b.code.isLt
  have hi := a.imm.isLt
  have hp := a.pred.isLt
  refine ⟨?_, ?_, ?_, ?_, ?_⟩ <;> apply BitVec.eq_of_toNat_eq <;>
    rw [BitVec.extractLsb'_toNat, toNat_packY, Nat.shiftRight_eq_div_pow] <;> omega

theorem unpackY_packY (op : BitVec 8) (a : YArgs) : unpackY (packY op a) = some a := by
  obtain ⟨-, ha, hb, hi, hp⟩ := extractLsb'_packY op a
  simp [unpackY, ha, hb, hi, hp, ofCode_code]

/-- A well-formed operation of the SY slot is decoded from its word. -/
theorem decodeSlot_packY {op : BitVec 8} {a : YArgs} {i : Instr} (h : ofOpcodeY op.toNat a = some i) (hw : wellFormed i = true) :
    decodeSlot .sy (packY op a).toNat = .op i := by
  obtain ⟨ho, -⟩ := extractLsb'_packY op a
  simp [decodeSlot, decodeY, unpackY_packY, ho, h, checked, hw]

/-! ### A lone operation that raises one trap -/

theorem issueTrap_of_traps {c : Nat} {h : Header} {o : Op} {s : State} {x : Cause} (ht : o.traps = [x]) (hk : o.needsCkpt = false)
    (hd : inDrain (s.ctx c) o = false) (hb : badBundle (s.ctx c) h [o] = false) : issueTrap c h [o] s = some x := by
  simp [issueTrap, ht, hk, hd, hb, trapIf_false, chooseIssue]

/-- An operation that only reads breaks no condition of the whole bundle, where strict mode lets it read (R52, R58). -/
theorem badBundle_of_fits {s : State} {b : Bead} {o : Op} (hs : CanIssue s b) (hf : Fits s o.reads [])
    (hl : o.lands = []) (hd : o.loads = []) (he : o.entries = 0) (hg : o.groups ≤ 6) (hj : o.jump = none) (hv : o.leaves = false) :
    badBundle (s.ctx s.cur) {} [o] = false := by
  refine badBundle_single rfl (fun _ => hj) (by simp [hv]) ?_ ?_ ?_ hg hf.early
  · simpa [he, Config.withholdMax] using hs.entries
  · simpa [hd, Config.landingMax] using hs.loads
  · simp [writesOf, hl, hd, collision]

/-! ### trap -/

section
variable {a : YArgs}

theorem wellFormed_trap_iff : wellFormed (.trap a) = true ↔ a.a = .unused ∧ a.b = .unused := by
  simp [wellFormed]

theorem encode_trap (hw : wellFormed (.trap a) = true) :
    encode (.trap a) = 0x40 + a.imm.toNat * 2 ^ 24 + a.pred.toNat * 2 ^ 44 := by
  obtain ⟨ha, hb⟩ := wellFormed_trap_iff.mp hw
  calc encode (.trap a) = (packY 0x40 a).toNat := rfl
    _ = 0x40 + a.imm.toNat * 2 ^ 24 + a.pred.toNat * 2 ^ 44 := by
      rw [toNat_packY, ha, hb]
      rfl

theorem decodeSlot_encode_trap (hw : wellFormed (.trap a) = true) : decodeSlot .sy (encode (.trap a)) = .op (.trap a) :=
  decodeSlot_packY rfl hw

theorem exec_trap (a : YArgs) (s : State) : exec (.trap a) s = issueAlone (.trap a) .sy (opTrap a) s := rfl

theorem traps_opTrap_of_enabled {c : Nat} {s : State} (h : enabledS (s.ctx c).arch a.pred false = true) :
    (opTrap a c s).traps = [causeAt s c .sy .brk 0] :=
  (congrArg (fun on => trapIf on s c .sy .brk) h).trans (trapIf_true s c .sy .brk 0)

theorem traps_opTrap_of_disabled {c : Nat} {s : State} (h : enabledS (s.ctx c).arch a.pred false = false) :
    (opTrap a c s).traps = [] :=
  congrArg (fun on => trapIf on s c .sy .brk) h

/-- An enabled `trap` raises BREAK at its own slot and bundle, where nothing else forbids the bundle (R58, R356). -/
theorem issueTrap_opTrap {s : State} {b : Bead} (hs : CanIssue s b) (hf : Fits s (reading a.pred []) [])
    (h : enabledS (s.ctx s.cur).arch a.pred false = true) :
    issueTrap s.cur {} [opTrap a s.cur s] s = some (causeAt s s.cur .sy .brk 0) :=
  issueTrap_of_traps (traps_opTrap_of_enabled h) rfl rfl (badBundle_of_fits hs hf rfl rfl rfl (Nat.zero_le _) rfl rfl)

theorem exec_trap_of_enabled {s : State} {b : Bead} (hw : wellFormed (.trap a) = true) (hs : CanIssue s b)
    (hf : Fits s (reading a.pred []) []) (h : enabledS (s.ctx s.cur).arch a.pred false = true) :
    exec (.trap a) s = .next (takeTrap s s.cur (causeAt s s.cur .sy .brk 0)) :=
  (exec_trap a s).trans (issueAlone_traps hs hw rfl (issueTrap_opTrap hs hf h))

theorem acts_trap_of_disabled {s : State} {b : Bead} (hw : wellFormed (.trap a) = true) (hs : CanIssue s b)
    (hf : Fits s (reading a.pred []) []) (h : enabledS (s.ctx s.cur).arch a.pred false = false) : Acts (.trap a) s id :=
  have hc : Completes (.trap a) .sy (reading a.pred []) [] s :=
    completes_of hs hw (exec_trap a s) rfl (by decide) .nil rfl rfl rfl (traps_opTrap_of_disabled h) rfl rfl rfl (Nat.zero_le _)
      rfl rfl rfl rfl rfl rfl
  hc hf
end

/-- Settles O41.  The word is the general SY word with zero ports; an enabled `trap` is a lone operation that raises BREAK, and
one that is not enabled is a lone operation that only reads its predicate. -/
theorem trapInstruction : Obligations.TrapInstruction := by
  refine ⟨fun a hw => ⟨encode_trap hw, ?_⟩, fun a s b hw hs hf => ⟨?_, ?_⟩⟩
  · rw [← encode_trap hw]
    exact decodeSlot_encode_trap hw
  · exact exec_trap_of_enabled hw hs hf
  · exact acts_trap_of_disabled hw hs hf

end Sys2Proof.TrapOperation
end

section
/-! SUPPORT. Every field of the eight slot formats stands at its bits, so that a well-formed operation is decoded from its encoding
(R24, R30, R61). -/
namespace Sys2Proof.Encoding
open Sys2Proof Sys2Proof.TrapOperation

-- Many of this section's proofs are replayed at once otherwise, each on a stack of its own.
set_option Elab.async false

/-! ### Fields of one bit, and the codes of element types -/

/-- Bit `i` of a word is the bit of the number that it is. -/
theorem getLsbD_eq_decide {w : Nat} (x : BitVec w) (i : Nat) : x.getLsbD i = decide (x.toNat / 2 ^ i % 2 = 1) := by
  rw [BitVec.getLsbD, Nat.testBit_eq_decide_div_mod_eq]

theorem toNat_ofBool_eq_one_iff (b : Bool) : (BitVec.ofBool b).toNat = 1 ↔ b = true := by cases b <;> decide

theorem ETy.ofCode_code (t : ETy) : ETy.ofCode t.code = some t := by cases t <;> rfl

/-! ### S64 -/

/-- The fields of an S64 word at their first bits (R24). -/
theorem toNat_packS (op : BitVec 10) (a : SArgs) : (packS op a).toNat =
    op.toNat + a.size.toNat * 2 ^ 10 + a.dst.code.toNat * 2 ^ 12 + a.a.code.toNat * 2 ^ 20 + a.b.code.toNat * 2 ^ 28 +
      a.pred.toNat * 2 ^ 36 + (BitVec.ofBool a.neg).toNat * 2 ^ 40 + a.imm.toNat * 2 ^ 41 := by
  simp only [packS, toNat_append_eq_add]
  omega

/-- A field of an S64 word is what stands at its bits. -/
theorem fields_packS (op : BitVec 10) (a : SArgs) :
    (packS op a).extractLsb' 0 10 = op ∧ (packS op a).extractLsb' 10 2 = a.size ∧ (packS op a).extractLsb' 12 8 = a.dst.code ∧
    (packS op a).extractLsb' 20 8 = a.a.code ∧ (packS op a).extractLsb' 28 8 = a.b.code ∧
    (packS op a).extractLsb' 36 4 = a.pred ∧ (packS op a).getLsbD 40 = a.neg ∧ (packS op a).extractLsb' 41 23 = a.imm := by
  have ho := op.isLt
  have hz := a.size.isLt
  have hd := a.dst.code.isLt
  have ha := a.a.code.isLt
  have hb := a.b.code.isLt
  have hp := a.pred.isLt
  have hn := (BitVec.ofBool a.neg).isLt
  have hi := a.imm.isLt
  have hneg : (packS op a).getLsbD 40 = a.neg := by
    rw [getLsbD_eq_decide, toNat_packS, Bool.eq_iff_iff, decide_eq_true_eq, ← toNat_ofBool_eq_one_iff]
    omega
  refine ⟨?_, ?_, ?_, ?_, ?_, ?_, hneg, ?_⟩ <;> apply BitVec.eq_of_toNat_eq <;>
    rw [BitVec.extractLsb'_toNat, toNat_packS, Nat.shiftRight_eq_div_pow] <;> omega

theorem unpackS_packS (op : BitVec 10) (a : SArgs) : unpackS (packS op a) = some a := by
  obtain ⟨-, hz, hd, ha, hb, hp, hn, hi⟩ := fields_packS op a
  simp [unpackS, hz, hd, ha, hb, hp, hn, hi, ofCode_code, -BitVec.getLsbD_eq_getElem]

theorem decodeSlot_packS {op : BitVec 10} {a : SArgs} {i : Instr} (h : ofOpcodeS op.toNat a = some i) (hw : wellFormed i = true) :
    decodeSlot .s (packS op a).toNat = .op i := by
  obtain ⟨ho, -⟩ := fields_packS op a
  simp [decodeSlot, decodeS, unpackS_packS, ho, h, checked, hw]

/-! ### V64 -/

/-- The fields of a V64 word at their first bits (R24). -/
theorem toNat_packV (op : BitVec 10) (a : VArgs) : (packV op a).toNat =
    op.toNat + a.width.toNat * 2 ^ 10 + a.dst.code.toNat * 2 ^ 12 + a.a.code.toNat * 2 ^ 20 + a.b.code.toNat * 2 ^ 28 +
      a.c.code.toNat * 2 ^ 36 + a.pred.toNat * 2 ^ 44 + (BitVec.ofBool a.neg).toNat * 2 ^ 48 + a.ety.code.toNat * 2 ^ 49 +
      a.rnd.toNat * 2 ^ 53 + a.imm.toNat * 2 ^ 56 := by
  simp only [packV, toNat_append_eq_add]
  omega

/-- A field of a V64 word is what stands at its bits. -/
theorem fields_packV (op : BitVec 10) (a : VArgs) :
    (packV op a).extractLsb' 0 10 = op ∧ (packV op a).extractLsb' 10 2 = a.width ∧ (packV op a).extractLsb' 12 8 = a.dst.code ∧
    (packV op a).extractLsb' 20 8 = a.a.code ∧ (packV op a).extractLsb' 28 8 = a.b.code ∧
    (packV op a).extractLsb' 36 8 = a.c.code ∧ (packV op a).extractLsb' 44 4 = a.pred ∧ (packV op a).getLsbD 48 = a.neg ∧
    (packV op a).extractLsb' 49 4 = a.ety.code ∧ (packV op a).extractLsb' 53 3 = a.rnd ∧ (packV op a).extractLsb' 56 8 = a.imm := by
  have ho := op.isLt
  have hw := a.width.isLt
  have hd := a.dst.code.isLt
  have ha := a.a.code.isLt
  have hb := a.b.code.isLt
  have hc := a.c.code.isLt
  have hp := a.pred.isLt
  have hn := (BitVec.ofBool a.neg).isLt
  have ht := a.ety.code.isLt
  have hr := a.rnd.isLt
  have hi := a.imm.isLt
  have hneg : (packV op a).getLsbD 48 = a.neg := by
    rw [getLsbD_eq_decide, toNat_packV, Bool.eq_iff_iff, decide_eq_true_eq, ← toNat_ofBool_eq_one_iff]
    omega
  refine ⟨?_, ?_, ?_, ?_, ?_, ?_, ?_, hneg, ?_, ?_, ?_⟩ <;> apply BitVec.eq_of_toNat_eq <;>
    rw [BitVec.extractLsb'_toNat, toNat_packV, Nat.shiftRight_eq_div_pow] <;> omega

theorem unpackV_packV (op : BitVec 10) (a : VArgs) : unpackV a.unit (packV op a) = some a := by
  obtain ⟨-, hw, hd, ha, hb, hc, hp, hn, ht, hr, hi⟩ := fields_packV op a
  simp [unpackV, hw, hd, ha, hb, hc, hp, hn, ht, hr, hi, ofCode_code, -BitVec.getLsbD_eq_getElem, ETy.ofCode_code]

/-- The slot of a vector operation is that of its unit (R20). -/
def unitSlot : VUnit → Option Slot
  | .a => some .va
  | .b => some .vb

theorem decodeSlot_packV {op : BitVec 10} {a : VArgs} {i : Instr} {k : Slot} (hk : unitSlot a.unit = some k)
    (h : ofOpcodeV op.toNat a = some i) (hw : wellFormed i = true) : decodeSlot k (packV op a).toNat = .op i := by
  have hd : decodeV a.unit (packV op a) = .op i := by
    obtain ⟨ho, -⟩ := fields_packV op a
    simp [decodeV, unpackV_packV, ho, h, checked, hw]
  cases hu : a.unit <;> rw [hu] at hk hd <;> cases hk <;> simpa [decodeSlot] using hd

/-! ### X32 -/

/-- The fields of an X32 word at their first bits (R24). -/
theorem toNat_packX (op : BitVec 8) (a : XArgs) : (packX op a).toNat =
    op.toNat + a.dst.code.toNat * 2 ^ 8 + a.src.code.toNat * 2 ^ 16 + a.idx.toNat * 2 ^ 24 + a.width.toNat * 2 ^ 28 := by
  simp only [packX, toNat_append_eq_add, BitVec.ofNat_eq_ofNat, BitVec.toNat_ofNat]
  omega

/-- A field of an X32 word is what stands at its bits, and its reserved bits are zero. -/
theorem fields_packX (op : BitVec 8) (a : XArgs) :
    (packX op a).extractLsb' 0 8 = op ∧ (packX op a).extractLsb' 8 8 = a.dst.code ∧ (packX op a).extractLsb' 16 8 = a.src.code ∧
    (packX op a).extractLsb' 24 4 = a.idx ∧ (packX op a).extractLsb' 28 2 = a.width ∧ (packX op a).extractLsb' 30 2 = 0 := by
  have ho := op.isLt
  have hd := a.dst.code.isLt
  have hs := a.src.code.isLt
  have hi := a.idx.isLt
  have hw := a.width.isLt
  refine ⟨?_, ?_, ?_, ?_, ?_, ?_⟩ <;> apply BitVec.eq_of_toNat_eq <;>
    simp only [BitVec.extractLsb'_toNat, toNat_packX, Nat.shiftRight_eq_div_pow, BitVec.ofNat_eq_ofNat, BitVec.toNat_ofNat] <;> omega

theorem unpackX_packX (op : BitVec 8) (a : XArgs) : unpackX (packX op a) = some a := by
  obtain ⟨-, hd, hs, hi, hw, -⟩ := fields_packX op a
  simp [unpackX, hd, hs, hi, hw, ofCode_code]

theorem decodeSlot_packX {op : BitVec 8} {a : XArgs} {i : Instr} (h : ofOpcodeX op.toNat a = some i) (hw : wellFormed i = true) :
    decodeSlot .x (packX op a).toNat = .op i := by
  obtain ⟨ho, -, -, -, -, hz⟩ := fields_packX op a
  simp [decodeSlot, decodeX, unpackX_packX, ho, hz, h, checked, hw]

/-! ### M48 -/

/-- The fields of an M48 word at their first bits (R24). -/
theorem toNat_packM (op : BitVec 8) (a : MArgs) : (packM op a).toNat =
    op.toNat + a.mode.toNat * 2 ^ 8 + a.map.toNat * 2 ^ 11 + a.row.toNat * 2 ^ 23 + a.tile.code.toNat * 2 ^ 31 +
      a.pred.toNat * 2 ^ 39 + a.imm.toNat * 2 ^ 43 := by
  simp only [packM, toNat_append_eq_add]
  omega

/-- A field of an M48 word is what stands at its bits. -/
theorem fields_packM (op : BitVec 8) (a : MArgs) :
    (packM op a).extractLsb' 0 8 = op ∧ (packM op a).extractLsb' 8 3 = a.mode ∧ (packM op a).extractLsb' 11 12 = a.map ∧
    (packM op a).extractLsb' 23 8 = a.row ∧ (packM op a).extractLsb' 31 8 = a.tile.code ∧
    (packM op a).extractLsb' 39 4 = a.pred ∧ (packM op a).extractLsb' 43 5 = a.imm := by
  have ho := op.isLt
  have hm := a.mode.isLt
  have hp := a.map.isLt
  have hr := a.row.isLt
  have ht := a.tile.code.isLt
  have hq := a.pred.isLt
  have hi := a.imm.isLt
  refine ⟨?_, ?_, ?_, ?_, ?_, ?_, ?_⟩ <;> apply BitVec.eq_of_toNat_eq <;>
    rw [BitVec.extractLsb'_toNat, toNat_packM, Nat.shiftRight_eq_div_pow] <;> omega

theorem unpackM_packM (op : BitVec 8) (a : MArgs) : unpackM (packM op a) = some a := by
  obtain ⟨-, hm, hp, hr, ht, hq, hi⟩ := fields_packM op a
  simp [unpackM, hm, hp, hr, ht, hq, hi, ofCode_code]

theorem decodeSlot_packM {op : BitVec 8} {a : MArgs} {i : Instr} (h : ofOpcodeM op.toNat a = some i) (hw : wellFormed i = true) :
    decodeSlot .mx (packM op a).toNat = .op i := by
  obtain ⟨ho, -⟩ := fields_packM op a
  simp [decodeSlot, decodeM, unpackM_packM, ho, h, checked, hw]

/-! ### L64 -/

/-- The fields of an L64 word at their first bits (R24). -/
theorem toNat_packL (op : BitVec 8) (a : LArgs) : (packL op a).toNat =
    op.toNat + a.dst.code.toNat * 2 ^ 8 + a.base.code.toNat * 2 ^ 16 + a.index.code.toNat * 2 ^ 24 + a.shift.toNat * 2 ^ 32 +
      a.imm.toNat * 2 ^ 34 + a.dist.toNat * 2 ^ 46 + a.pred.toNat * 2 ^ 54 + (BitVec.ofBool a.neg).toNat * 2 ^ 58 +
      (BitVec.ofBool a.spec).toNat * 2 ^ 59 + a.size.toNat * 2 ^ 60 + a.hint.toNat * 2 ^ 62 := by
  simp only [packL, toNat_append_eq_add]
  omega

/-- A field of an L64 word is what stands at its bits. -/
theorem fields_packL (op : BitVec 8) (a : LArgs) :
    (packL op a).extractLsb' 0 8 = op ∧ (packL op a).extractLsb' 8 8 = a.dst.code ∧ (packL op a).extractLsb' 16 8 = a.base.code ∧
    (packL op a).extractLsb' 24 8 = a.index.code ∧ (packL op a).extractLsb' 32 2 = a.shift ∧
    (packL op a).extractLsb' 34 12 = a.imm ∧ (packL op a).extractLsb' 46 8 = a.dist ∧ (packL op a).extractLsb' 54 4 = a.pred ∧
    (packL op a).getLsbD 58 = a.neg ∧ (packL op a).getLsbD 59 = a.spec ∧ (packL op a).extractLsb' 60 2 = a.size ∧
    (packL op a).extractLsb' 62 2 = a.hint := by
  have ho := op.isLt
  have hd := a.dst.code.isLt
  have hb := a.base.code.isLt
  have hx := a.index.code.isLt
  have hf := a.shift.isLt
  have hi := a.imm.isLt
  have hq := a.dist.isLt
  have hp := a.pred.isLt
  have hn := (BitVec.ofBool a.neg).isLt
  have hs := (BitVec.ofBool a.spec).isLt
  have hz := a.size.isLt
  have hh := a.hint.isLt
  have hneg : (packL op a).getLsbD 58 = a.neg := by
    rw [getLsbD_eq_decide, toNat_packL, Bool.eq_iff_iff, decide_eq_true_eq, ← toNat_ofBool_eq_one_iff]
    omega
  have hspec : (packL op a).getLsbD 59 = a.spec := by
    rw [getLsbD_eq_decide, toNat_packL, Bool.eq_iff_iff, decide_eq_true_eq, ← toNat_ofBool_eq_one_iff]
    omega
  refine ⟨?_, ?_, ?_, ?_, ?_, ?_, ?_, ?_, hneg, hspec, ?_, ?_⟩ <;> apply BitVec.eq_of_toNat_eq <;>
    rw [BitVec.extractLsb'_toNat, toNat_packL, Nat.shiftRight_eq_div_pow] <;> omega

theorem unpackL_packL (op : BitVec 8) (a : LArgs) : unpackL (packL op a) = some a := by
  obtain ⟨-, hd, hb, hx, hf, hi, hq, hp, hn, hs, hz, hh⟩ := fields_packL op a
  simp [unpackL, hd, hb, hx, hf, hi, hq, hp, hn, hs, hz, hh, ofCode_code, -BitVec.getLsbD_eq_getElem]

theorem decodeSlot_packL {op : BitVec 8} {a : LArgs} {i : Instr} (h : ofOpcodeL op.toNat a = some i) (hw : wellFormed i = true) :
    decodeSlot .ld (packL op a).toNat = .op i := by
  obtain ⟨ho, -⟩ := fields_packL op a
  simp [decodeSlot, decodeL, unpackL_packL, ho, h, checked, hw]

/-! ### ST48 -/

/-- The fields of an ST48 word at their first bits (R24). -/
theorem toNat_packST (op : BitVec 8) (a : STArgs) : (packST op a).toNat =
    op.toNat + a.data.code.toNat * 2 ^ 8 + a.base.code.toNat * 2 ^ 16 + a.index.code.toNat * 2 ^ 24 + a.imm.toNat * 2 ^ 32 +
      a.pred.toNat * 2 ^ 44 := by
  simp only [packST, toNat_append_eq_add]
  omega

/-- A field of an ST48 word is what stands at its bits. -/
theorem fields_packST (op : BitVec 8) (a : STArgs) :
    (packST op a).extractLsb' 0 8 = op ∧ (packST op a).extractLsb' 8 8 = a.data.code ∧
    (packST op a).extractLsb' 16 8 = a.base.code ∧ (packST op a).extractLsb' 24 8 = a.index.code ∧
    (packST op a).extractLsb' 32 12 = a.imm ∧ (packST op a).extractLsb' 44 4 = a.pred := by
  have ho := op.isLt
  have hd := a.data.code.isLt
  have hb := a.base.code.isLt
  have hx := a.index.code.isLt
  have hi := a.imm.isLt
  have hp := a.pred.isLt
  refine ⟨?_, ?_, ?_, ?_, ?_, ?_⟩ <;> apply BitVec.eq_of_toNat_eq <;>
    rw [BitVec.extractLsb'_toNat, toNat_packST, Nat.shiftRight_eq_div_pow] <;> omega

theorem unpackST_packST (op : BitVec 8) (a : STArgs) : unpackST (packST op a) = some a := by
  obtain ⟨-, hd, hb, hx, hi, hp⟩ := fields_packST op a
  simp [unpackST, hd, hb, hx, hi, hp, ofCode_code]

theorem decodeSlot_packST {op : BitVec 8} {a : STArgs} {i : Instr} (h : ofOpcodeST op.toNat a = some i) (hw : wellFormed i = true) :
    decodeSlot .st (packST op a).toNat = .op i := by
  obtain ⟨ho, -⟩ := fields_packST op a
  simp [decodeSlot, decodeST, unpackST_packST, ho, h, checked, hw]

/-! ### T64 -/

/-- The fields of a T64 word at their first bits (R24). -/
theorem toNat_packT (op : BitVec 8) (a : TArgs) : (packT op a).toNat =
    op.toNat + a.dst.code.toNat * 2 ^ 8 + a.a.code.toNat * 2 ^ 16 + a.b.code.toNat * 2 ^ 24 + a.imm.toNat * 2 ^ 32 +
      a.pred.toNat * 2 ^ 48 + a.fmt.toNat * 2 ^ 52 := by
  simp only [packT, toNat_append_eq_add, BitVec.ofNat_eq_ofNat, BitVec.toNat_ofNat]
  omega

/-- A field of a T64 word is what stands at its bits, and its reserved bits are zero. -/
theorem fields_packT (op : BitVec 8) (a : TArgs) :
    (packT op a).extractLsb' 0 8 = op ∧ (packT op a).extractLsb' 8 8 = a.dst.code ∧ (packT op a).extractLsb' 16 8 = a.a.code ∧
    (packT op a).extractLsb' 24 8 = a.b.code ∧ (packT op a).extractLsb' 32 16 = a.imm ∧ (packT op a).extractLsb' 48 4 = a.pred ∧
    (packT op a).extractLsb' 52 4 = a.fmt ∧ (packT op a).extractLsb' 56 8 = 0 := by
  have ho := op.isLt
  have hd := a.dst.code.isLt
  have ha := a.a.code.isLt
  have hb := a.b.code.isLt
  have hi := a.imm.isLt
  have hp := a.pred.isLt
  have hf := a.fmt.isLt
  refine ⟨?_, ?_, ?_, ?_, ?_, ?_, ?_, ?_⟩ <;> apply BitVec.eq_of_toNat_eq <;>
    simp only [BitVec.extractLsb'_toNat, toNat_packT, Nat.shiftRight_eq_div_pow, BitVec.ofNat_eq_ofNat, BitVec.toNat_ofNat] <;> omega

theorem unpackT_packT (op : BitVec 8) (a : TArgs) : unpackT (packT op a) = some a := by
  obtain ⟨-, hd, ha, hb, hi, hp, hf, -⟩ := fields_packT op a
  simp [unpackT, hd, ha, hb, hi, hp, hf, ofCode_code]

theorem decodeSlot_packT {op : BitVec 8} {a : TArgs} {i : Instr} (h : ofOpcodeT op.toNat a = some i) (hw : wellFormed i = true) :
    decodeSlot .tm (packT op a).toNat = .op i := by
  obtain ⟨ho, -, -, -, -, -, -, hz⟩ := fields_packT op a
  simp [decodeSlot, decodeT, unpackT_packT, ho, hz, h, checked, hw]

/-! ### Opcodes that a field of their operands shares out -/

/-- `pmov` has a predicate source and no scalar destination (R85). -/
theorem ofOpcodeS_pmov {a : SArgs} (hw : wellFormed (.pmov a) = true) : ofOpcodeS 0x0C4 a = some (.pmov a) := by
  simp only [wellFormed, Bool.and_eq_true, Bool.or_eq_true, beq_iff_eq] at hw
  obtain ⟨⟨⟨⟨hd, ha⟩, -⟩, hz⟩, -⟩ := hw
  have hs : a.dst.isS = false := by
    cases e : a.dst <;> simp_all [Port.isP, Port.isS]
  simp [ofOpcodeS, hz, ha, hs]

theorem ofOpcodeS_pmovLo {a : SArgs} (hw : wellFormed (.pmovLo a) = true) : ofOpcodeS 0x0C4 a = some (.pmovLo a) := by
  simp only [wellFormed, Bool.and_eq_true, Bool.or_eq_true, beq_iff_eq] at hw
  obtain ⟨⟨⟨hp, -⟩, hz⟩, -⟩ := hw
  have hs : (a.a.isP && !a.dst.isS) = false := by
    rcases hp with ⟨hd, ha⟩ | ⟨hd, -⟩
    · cases e : a.a <;> simp_all [Port.isP, Port.isSL, Port.isS, Port.isLatch]
    · simp [hd]
  simp [ofOpcodeS, hz, hs]

theorem ofOpcodeS_pmovHi {a : SArgs} (hw : wellFormed (.pmovHi a) = true) : ofOpcodeS 0x0C4 a = some (.pmovHi a) := by
  simp only [wellFormed, Bool.and_eq_true, beq_iff_eq] at hw
  obtain ⟨⟨-, hz⟩, -⟩ := hw
  simp [ofOpcodeS, hz]

theorem ofOpcodeV_vsig {a : VArgs} (hw : wellFormed (.vsig a) = true) : ofOpcodeV 0x78 a = some (.vsig a) := by
  have h : a.imm = 0 := by simp_all [wellFormed]
  simp [ofOpcodeV, h]

theorem ofOpcodeV_vsigFin {a : VArgs} (hw : wellFormed (.vsigFin a) = true) : ofOpcodeV 0x78 a = some (.vsigFin a) := by
  have h : a.imm = 1 := by simp_all [wellFormed]
  simp [ofOpcodeV, h]

/-- The form that `hmstat` names (R203, R300). -/
theorem form_of_hmstatImm {a : TArgs} {f : Nat} (h : WF.hmstatImm a f = true) : (a.imm.extractLsb' 8 2).toNat = f := by
  simp only [WF.hmstatImm, Bool.and_eq_true, beq_iff_eq] at h
  exact h.1.2

theorem ofOpcodeT_hmstatDirectory {a : TArgs} (hw : wellFormed (.hmstatDirectory a) = true) :
    ofOpcodeT 0x27 a = some (.hmstatDirectory a) := by
  simp only [wellFormed, Bool.and_eq_true] at hw
  simp [ofOpcodeT, form_of_hmstatImm hw.2]

theorem ofOpcodeT_hmstatLineTag {a : TArgs} (hw : wellFormed (.hmstatLineTag a) = true) :
    ofOpcodeT 0x27 a = some (.hmstatLineTag a) := by
  simp only [wellFormed, Bool.and_eq_true] at hw
  simp [ofOpcodeT, form_of_hmstatImm hw.2]

theorem ofOpcodeT_hmstatFree {a : TArgs} (hw : wellFormed (.hmstatFree a) = true) : ofOpcodeT 0x27 a = some (.hmstatFree a) := by
  simp only [wellFormed, Bool.and_eq_true] at hw
  simp [ofOpcodeT, form_of_hmstatImm hw.2]

/-- Settles O1.  An operation is decoded from the word of its format, whose opcode names it; an event stands in no slot. -/
theorem decodeEncode : Obligations.DecodeEncode := by
  intro i k hk hw
  cases i with
  | add _ | sub _ | mul _ | mulh _ | mulhn _ | neg _ | abs _ | min _ | max _ | minn _ | maxn _ | and _ | or _
  | xor _ | andn _ | not _ | shl _ | shr _ | sar _ | rol _ | clz _ | ctz _ | popc _ | bext _ | bins _ | bswap _
  | cmpEq _ | cmpNe _ | cmpLt _ | cmpLe _ | cmpLtn _ | cmpLen _ | mov _ | sel _ | li _ | lih _ | lea _ | fadd _
  | fsub _ | fmul _ | fma _ | fnma _ | fmin _ | fmax _ | fabs _ | fneg _ | fcmpEq _ | fcmpNe _ | fcmpLt _
  | fcmpLe _ | fcmpUn _ | fcvt _ | fclass _ | fdiv _ | fsqrt _ | frsqrt _ | pand _ | por _ | pxor _ | pandn _
  | pany _ | pall _ | br _ | jmp _ | call _ | ret _ | loop _ | getc _ | setc _ =>
    cases hk
    exact decodeSlot_packS rfl hw
  | vadd a | vsub a | vmul a | vfma a | vfnma a | vmin a | vmax a | vabs a | vneg a | vcmpEq a | vcmpNe a
  | vcmpLt a | vcmpLe a | vcmpUn a | vsel a | vclass a | viadd a | visub a | vimul a | vimulh a | vand a | vor a
  | vxor a | vshl a | vshr a | vsar a | vimin a | vimax a | viminn a | vimaxn a | vicmpEq a | vicmpNe a
  | vicmpLt a | vicmpLe a | vicmpLtn a | vicmpLen a | vcvt a | vscale a | vdiv a | vsqrt a | vrsqrt a | vrcp a
  | vexp2 a | vlog2 a | vtanh a | vsigm a | vsum a | vrmax a | vrmin a | vbcast a | vmov a | vlane a | vins a
  | viota a => exact decodeSlot_packV hk rfl hw
  | xmov _ | xperm _ | xrot _ | xshuf _ | xbcast _ | xzip _ | xunzip _ =>
    cases hk
    exact decodeSlot_packX rfl hw
  | mmode _ | mpush _ | mrow _ | mbeat _ | mdrain _ | mclear _ | mbinv _ | mtag _ | mresolve _ | mcombine _ =>
    cases hk
    exact decodeSlot_packM rfl hw
  | ld _ | vld _ | vgath _ | tld _ | tldh _ | pref _ | aadd _ | aand _ | aor _ | axor _ | amin _ | amax _
  | aminn _ | amaxn _ | aswap _ | acas _ | acas16 _ =>
    cases hk
    exact decodeSlot_packL rfl hw
  | st8 _ | st16 _ | st32 _ | st64 _ | vst8 _ | vst16 _ | vst32 _ | vst64 _ | vscat8 _ | vscat16 _ | vscat32 _
  | vscat64 _ | tst _ | tsth _ | append _ =>
    cases hk
    exact decodeSlot_packST rfl hw
  | tdef _ | tcopy _ | ttrans _ | tconv _ | texp _ | tcmp _ | tfill _ | tsrf _ | phase _ | hmput _ | hmnode _
  | hmget _ | hmhold _ | hmdrop _ | hmswap _ | hmcopy _ =>
    cases hk
    exact decodeSlot_packT rfl hw
  | cbind _ | cacq _ | crel _ | ctry _ | fence _ | wait _ | sig _ | yield _ | mark _ | done _ | spawn _ | post _
  | cancelInstr _ | chsend _ | chrecv _ | eplook _ | epupd _ | epcfg _ | trap _ | eret _ | tlbinv _ | qset _ =>
    cases hk
    exact TrapOperation.decodeSlot_packY rfl hw
  | pmov _ =>
    cases hk
    exact decodeSlot_packS (ofOpcodeS_pmov hw) hw
  | pmovLo _ =>
    cases hk
    exact decodeSlot_packS (ofOpcodeS_pmovLo hw) hw
  | pmovHi _ =>
    cases hk
    exact decodeSlot_packS (ofOpcodeS_pmovHi hw) hw
  | vsig a => exact decodeSlot_packV hk (ofOpcodeV_vsig hw) hw
  | vsigFin a => exact decodeSlot_packV hk (ofOpcodeV_vsigFin hw) hw
  | hmstatDirectory _ =>
    cases hk
    exact decodeSlot_packT (ofOpcodeT_hmstatDirectory hw) hw
  | hmstatLineTag _ =>
    cases hk
    exact decodeSlot_packT (ofOpcodeT_hmstatLineTag hw) hw
  | hmstatFree _ =>
    cases hk
    exact decodeSlot_packT (ofOpcodeT_hmstatFree hw) hw
  | _ => cases hk

end Sys2Proof.Encoding
end

section
/-! SUPPORT. A slot operation that stands alone is the issue of its bundle; what an operation that only lands results leaves, what one
with an effect of its own leaves, and the trap that an encoding raises (R5, R23, R43, R58). -/
namespace Sys2Proof.Lone
open Sys2Proof Sys2Proof.Machine Sys2Proof.Claims Sys2Proof.Encoding Sys2Proof.TrapOperation

/-! ### exec of a slot operation -/

theorem slotV_of_unitSlot {u : VUnit} {k : Slot} (h : unitSlot u = some k) : slotV u = k := by
  cases u <;> exact Option.some.inj h

/-- The meaning of a slot operation is the issue of the bundle that holds it alone (R61). -/
theorem exec_eq_issueAlone {i : Instr} {f : OpFn} {k : Slot} (hf : slotOp i = some f) (hk : slotOf i = some k) (s : State) :
    exec i s = issueAlone i k f s := by
  cases i with
  | vadd a | vsub a | vmul a | vfma a | vfnma a | vmin a | vmax a | vabs a | vneg a | vcmpEq a | vcmpNe a
  | vcmpLt a | vcmpLe a | vcmpUn a | vsel a | vclass a | viadd a | visub a | vimul a | vimulh a | vand a | vor a
  | vxor a | vshl a | vshr a | vsar a | vimin a | vimax a | viminn a | vimaxn a | vicmpEq a | vicmpNe a
  | vicmpLt a | vicmpLe a | vicmpLtn a | vicmpLen a | vcvt a | vscale a | vdiv a | vsqrt a | vrsqrt a | vrcp a
  | vexp2 a | vlog2 a | vtanh a | vsigm a | vsum a | vrmax a | vrmin a | vbcast a | vmov a | vlane a | vins a
  | viota a | vsig a | vsigFin a =>
    cases hf
    exact congrArg (fun k => issueAlone _ k _ s) (slotV_of_unitSlot hk)
  | _ => cases hf <;> cases hk <;> rfl

/-- Every operation of a slot has a meaning (R61). -/
theorem exists_slotOp {i : Instr} {k : Slot} (hk : slotOf i = some k) : ∃ f, slotOp i = some f := by
  cases i with
  | vadd a | vsub a | vmul a | vfma a | vfnma a | vmin a | vmax a | vabs a | vneg a | vcmpEq a | vcmpNe a
  | vcmpLt a | vcmpLe a | vcmpUn a | vsel a | vclass a | viadd a | visub a | vimul a | vimulh a | vand a | vor a
  | vxor a | vshl a | vshr a | vsar a | vimin a | vimax a | viminn a | vimaxn a | vicmpEq a | vicmpNe a
  | vicmpLt a | vicmpLe a | vicmpLtn a | vicmpLen a | vcvt a | vscale a | vdiv a | vsqrt a | vrsqrt a | vrcp a
  | vexp2 a | vlog2 a | vtanh a | vsigm a | vsum a | vrmax a | vrmin a | vbcast a | vmov a | vlane a | vins a
  | viota a | vsig a | vsigFin a => exact ⟨_, rfl⟩
  | _ => cases hk <;> exact ⟨_, rfl⟩

/-! ### Operations that only read and land -/

/-- An operation of a result slot that does nothing but read and land completes (R43). -/
theorem completes_of_lands {i : Instr} {k : Slot} {f : OpFn} {s : State} {b : Bead} {reads : List Nat} {l : List Result}
    (hs : CanIssue s b) (hw : wellFormed i = true) (hf : slotOp i = some f) (hk : slotOf i = some k) (hh : loneHeader i = {})
    (hr : k ≠ .ld ∧ k ≠ .st ∧ k ≠ .tm) (ha : Apart l) (ho : f s.cur s = { slot := k, reads := reads, lands := l }) :
    Completes i k reads l s :=
  completes_of hs hw (exec_eq_issueAlone hf hk s) hh hr ha ho rfl rfl rfl rfl rfl rfl (Nat.zero_le _) rfl rfl rfl rfl rfl rfl

/-- A table that gives the operation of a slot in the header of zeros, and what it reads and lands. -/
structure Lands (s : State) (i : Instr) (k : Slot) (reads : List Nat) (l : List Result) : Prop where
  op : ∃ f, slotOp i = some f ∧ f s.cur s = { slot := k, reads := reads, lands := l }
  slot : slotOf i = some k
  header : loneHeader i = {}

theorem Lands.completes {s : State} {i : Instr} {k : Slot} {reads : List Nat} {l : List Result} {b : Bead}
    (h : Lands s i k reads l) (hs : CanIssue s b) (hw : wellFormed i = true) (hr : k ≠ .ld ∧ k ≠ .st ∧ k ≠ .tm) (ha : Apart l) :
    Completes i k reads l s :=
  let ⟨_, hf, ho⟩ := h.op
  completes_of_lands hs hw hf h.slot h.header hr ha ho

/-! ### Encodings that an entry refuses -/

/-- ILLENC is the trap of the least class, so that no other is chosen before it (R58). -/
theorem chooseIssue_illenc (x : Cause) (hx : x.code = .illenc) : (l : List Cause) →
    (∀ y ∈ l, y.code.class ≠ 0) → chooseIssue (x :: l) = some x
  | l, hl => by
    have hc : ∀ l : List Cause, (∀ y ∈ l, y.code.class ≠ 0) → ∀ y, chooseIssue l = some y → y.code.class ≠ 0 := by
      intro l
      induction l with
      | nil => intro _ y hy; cases hy
      | cons z r ih =>
        intro h y hy
        have hz := h z (by simp)
        have ih := ih fun w hw => h w (by simp [hw])
        unfold chooseIssue at hy
        split at hy
        · cases hy; exact hz
        · rename_i w hw
          split at hy <;> cases hy
          · exact ih _ hw
          · exact hz
    unfold chooseIssue
    split
    · rfl
    · rename_i y hy
      have h0 : x.code.class = 0 := by rw [hx]; rfl
      have h1 := hc l hl y hy
      rw [if_neg]
      simp only [h0, Nat.not_lt_zero, decide_false, Bool.false_or, Bool.and_eq_true, beq_iff_eq, not_and]
      exact fun h => absurd h h1

theorem metState_ctx (c : Nat) (h : Header) (s : State) (d : Nat) : (metState c h s).ctx d = s.ctx d := by
  unfold metState
  split <;> rfl

theorem causeAt_metState (c d : Nat) (h : Header) (s : State) (k : Slot) (code : TrapCode) (a : Nat) :
    causeAt (metState c h s) d k code a = causeAt s d k code a := by
  rw [causeAt, causeAt, metState_ctx]

/-- A trap of the form of a bundle is taken as it is: nothing is walked and nothing enters the fault log (R58, R338). -/
theorem bundleTrap_of_form {s : State} {c : Nat} {x : Cause} (hf : (s.ctx c).freeze = none) (ha : x.addr = 0) (hx : x.code ≠ .xlate)
    (hl : x.line = none) : bundleTrap s c x = takeTrap s c x := by
  have hw : walkMissed s c x = s := by
    unfold walkMissed
    rw [ha]
    simp [hx]
  rw [bundleTrap, trapFreeze_thawed hf, hw, logIssue, numbered, hl]
  rfl

theorem issueTrap_illegalOp (c : Nat) (h : Header) (k : Slot) (s : State) :
    issueTrap c h [illegalOp k c s] s = some (causeAt s c k .illenc 0) := by
  refine chooseIssue_illenc (causeAt s c k .illenc 0) rfl _ fun y hy => ?_
  have : y.code = .illsched := by
    rcases List.mem_append.mp hy with hy | hy
    · unfold trapIf at hy
      split at hy
      · rw [List.mem_singleton.mp hy]
        rfl
      · cases hy
    · split at hy
      · rw [List.mem_singleton.mp hy]
        rfl
      · cases hy
  rw [this]
  decide

/-- Settles O55.  A lone operation that is not well formed issues as the operation that raises ILLENC, whose class comes first. -/
theorem illEncoded : Obligations.IllEncoded := by
  intro i k s b hk hw hs
  obtain ⟨f, hf⟩ := exists_slotOp hk
  rw [exec_eq_issueAlone hf hk, issueAlone, hs.runs, hw]
  have ht : issueTrap s.cur (loneHeader i) [illegalOp k s.cur (metState s.cur (loneHeader i) s)] (metState s.cur (loneHeader i) s) =
      some (causeAt s s.cur k .illenc 0) := by
    rw [issueTrap_illegalOp, causeAt_metState]
  have hq : (illegalOp k s.cur (metState s.cur (loneHeader i) s)).waits = none := rfl
  simp only [issueBundle, Bool.false_eq_true, if_false, List.map_cons, List.map_nil, hq, firstSome, ht]
  rw [bundleTrap_of_form hs.thawed rfl (show TrapCode.illenc ≠ .xlate by decide) rfl]

end Sys2Proof.Lone
end

section
/-! SUPPORT. The integer functions of the S slot on bit vectors of N bits, and the operations that land them (R70 to R79). -/
namespace Sys2Proof.ScalarInteger
open Sys2Proof Sys2Proof.Machine Sys2Proof.Claims Sys2Proof.Lone

/-! ### Values of N bits as numbers -/
section
variable {N : Nat} (x y : BitVec N)

theorem sgn_toNat : sgn N x.toNat = x.toInt := by
  rw [sgn, sextNat, Nat.mod_eq_of_lt x.isLt, BitVec.toInt_eq_toNat_cond]
  push_cast
  rfl

theorem enc_eq_toNat_ofInt (v : Int) : enc N v = (BitVec.ofInt N v).toNat := by
  rw [enc, BitVec.toNat_ofInt]
  push_cast
  rfl

theorem sub_value : (x.toNat + (2 ^ N - y.toNat)) % 2 ^ N = (x - y).toNat := by
  rw [BitVec.toNat_sub, Nat.add_comm]

theorem mulh_value : enc N (sgn N x.toNat * sgn N y.toNat / 2 ^ N) % 2 ^ N =
    (BitVec.ofInt N (x.toInt * y.toInt / 2 ^ N)).toNat := by
  rw [sgn_toNat, sgn_toNat, enc_eq_toNat_ofInt, Nat.mod_eq_of_lt (BitVec.isLt _)]

theorem ite_value (p : Prop) [Decidable p] : (if p then x.toNat else y.toNat) % 2 ^ N = (if p then x else y).toNat := by
  split <;> exact Nat.mod_eq_of_lt (BitVec.isLt _)

theorem min_value : (if sgn N x.toNat ≤ sgn N y.toNat then x.toNat else y.toNat) % 2 ^ N = (if x.sle y then x else y).toNat := by
  rw [ite_value, sgn_toNat, sgn_toNat]
  simp [BitVec.sle]

theorem max_value : (if sgn N x.toNat ≤ sgn N y.toNat then y.toNat else x.toNat) % 2 ^ N = (if x.sle y then y else x).toNat := by
  rw [ite_value, sgn_toNat, sgn_toNat]
  simp [BitVec.sle]

theorem minn_value : (if x.toNat ≤ y.toNat then x.toNat else y.toNat) % 2 ^ N = (if x.ule y then x else y).toNat := by
  rw [ite_value]
  simp [BitVec.ule]

theorem maxn_value : (if x.toNat ≤ y.toNat then y.toNat else x.toNat) % 2 ^ N = (if x.ule y then y else x).toNat := by
  rw [ite_value]
  simp [BitVec.ule]

theorem and_value : (x.toNat &&& y.toNat) % 2 ^ N = (x &&& y).toNat := by
  rw [← BitVec.toNat_and, Nat.mod_eq_of_lt (BitVec.isLt _)]

theorem or_value : (x.toNat ||| y.toNat) % 2 ^ N = (x ||| y).toNat := by
  rw [← BitVec.toNat_or, Nat.mod_eq_of_lt (BitVec.isLt _)]

theorem xor_value : (x.toNat ^^^ y.toNat) % 2 ^ N = (x ^^^ y).toNat := by
  rw [← BitVec.toNat_xor, Nat.mod_eq_of_lt (BitVec.isLt _)]

theorem andn_value : (x.toNat &&& (2 ^ N - 1 - y.toNat)) % 2 ^ N = (x &&& ~~~y).toNat := by
  rw [← BitVec.toNat_not, ← BitVec.toNat_and, Nat.mod_eq_of_lt (BitVec.isLt _)]

theorem shl_value (k : Nat) : x.toNat * 2 ^ k % 2 ^ N = (x <<< k).toNat := by
  rw [BitVec.toNat_shiftLeft, Nat.shiftLeft_eq]

theorem shr_value (k : Nat) : x.toNat / 2 ^ k % 2 ^ N = (x >>> k).toNat := by
  rw [← Nat.shiftRight_eq_div_pow, ← BitVec.toNat_ushiftRight, Nat.mod_eq_of_lt (BitVec.isLt _)]

theorem sar_value (k : Nat) : sarN N x.toNat k % 2 ^ N = (x.sshiftRight k).toNat := by
  rw [sarN, sgn_toNat, enc_eq_toNat_ofInt, Nat.mod_eq_of_lt (BitVec.isLt _), ← BitVec.ofInt_toInt (x := x.sshiftRight k),
    BitVec.toInt_sshiftRight, Int.shiftRight_eq_div_pow]
  push_cast
  rfl

/-- The two parts of a rotated number do not overlap (R76). -/
theorem rol_value {k : Nat} (hk : k < N) : rolN N x.toNat k % 2 ^ N = (x.rotateLeft k).toNat := by
  have hlow : x.toNat / 2 ^ (N - k) < 2 ^ k := by
    rw [Nat.div_lt_iff_lt_mul (Nat.two_pow_pos _), ← Nat.pow_add, Nat.add_sub_cancel' hk.le]
    exact x.isLt
  have hhigh : x.toNat * 2 ^ k % 2 ^ N = x.toNat % 2 ^ (N - k) * 2 ^ k := by
    have h : 2 ^ N = 2 ^ (N - k) * 2 ^ k := by rw [← Nat.pow_add, Nat.sub_add_cancel hk.le]
    rw [h, Nat.mul_mod_mul_right]
  have hor : rolN N x.toNat k = (x.rotateLeft k).toNat := by
    rw [rolN, BitVec.toNat_rotateLeft, Nat.mod_eq_of_lt hk, Nat.shiftLeft_eq, Nat.shiftRight_eq_div_pow, hhigh, ← Nat.shiftLeft_eq,
      Nat.shiftLeft_add_eq_or_of_lt hlow]
  rw [hor, Nat.mod_eq_of_lt (BitVec.isLt _)]

theorem neg_value : (2 ^ N - x.toNat) % 2 ^ N = (-x).toNat := by
  rw [BitVec.toNat_neg]

theorem abs_value : (sgn N x.toNat).natAbs % 2 ^ N = (if x.msb then -x else x).toNat := by
  have hx := x.isLt
  rw [sgn_toNat, BitVec.toInt_eq_msb_cond]
  split
  · rw [BitVec.toNat_neg]
    congr 1
    omega
  · simp [Nat.mod_eq_of_lt hx]

theorem not_value : (2 ^ N - 1 - x.toNat) % 2 ^ N = (~~~x).toNat := by
  rw [← BitVec.toNat_not, Nat.mod_eq_of_lt (BitVec.isLt _)]

end

/-! ### Counts -/

/-- Bits above a number's last one are zero. -/
theorem length_takeWhile_reverse (n : Nat) : ∀ x, x < 2 ^ n →
    ((List.range n).reverse.takeWhile fun i => !x.testBit i).length = clzN n x := by
  induction n with
  | zero => 
    intro x hx
    simp [clzN]
  | succ n ih =>
    intro x hx
    rw [List.range_succ, List.reverse_append, List.reverse_singleton, List.singleton_append, List.takeWhile_cons]
    by_cases hb : x.testBit n = true
    · have hn : 2 ^ n ≤ x := Nat.ge_two_pow_of_testBit hb
      have hl : Nat.log2 x = n := (Nat.log2_eq_iff (by omega)).mpr ⟨hn, hx⟩
      have h0 : x ≠ 0 := by
        have := Nat.two_pow_pos n
        omega
      simp [hb, clzN, hl, h0]
    · have hlt : x < 2 ^ n := by
        by_contra hge
        exact hb (Nat.testBit_of_two_pow_le_and_two_pow_add_one_gt (by omega) hx)
      simp only [hb, Bool.not_false, if_true, List.length_cons, ih x hlt]
      unfold clzN
      split
      · rfl
      · rename_i h0
        have := (Nat.log2_lt h0).mpr hlt
        omega

theorem length_takeWhile_range (n : Nat) : ∀ x, ((List.range n).takeWhile fun i => !x.testBit i).length = ctzN n x := by
  induction n with
  | zero => intro x; rfl
  | succ n ih =>
    intro x
    rw [List.range_succ_eq_map, List.takeWhile_cons, List.takeWhile_map]
    have hs : (fun i => !x.testBit i) ∘ Nat.succ = fun i => !(x / 2).testBit i := by
      funext i
      simp [Nat.testBit_succ]
    rw [hs, Nat.testBit_zero]
    by_cases hb : x % 2 = 1
    · simp [ctzN, hb]
    · simp [ctzN, hb, ih, Nat.add_comm]

theorem length_filter_range (n : Nat) : ∀ x, ((List.range n).filter fun i => x.testBit i).length = popcN n x := by
  induction n with
  | zero => intro x; rfl
  | succ n ih =>
    intro x
    rw [List.range_succ_eq_map, List.filter_cons, List.filter_map]
    have hs : (fun i => x.testBit i) ∘ Nat.succ = fun i => (x / 2).testBit i := by
      funext i
      simp [Nat.testBit_succ]
    rw [hs, Nat.testBit_zero]
    by_cases hb : x % 2 = 1
    · simp [popcN, hb, ih, Nat.add_comm]
    · have : x % 2 = 0 := by omega
      simp [popcN, this, ih]

theorem sum_bytes_reversed (n : Nat) : ∀ x,
    ((List.range n).map fun i => x / 2 ^ (8 * i) % 256 * 2 ^ (8 * (n - 1 - i))).sum = bswapN n x := by
  induction n with
  | zero => intro x; rfl
  | succ n ih =>
    intro x
    rw [List.range_succ_eq_map, List.map_cons, List.sum_cons, List.map_map, bswapN, ← ih]
    congr 1
    · rw [show (256 : Nat) = 2 ^ 8 from rfl, ← Nat.pow_mul]
      simp
    · congr 1
      refine List.map_congr_left fun i _ => ?_
      have hd : x / 2 ^ (8 * (i + 1)) = x / 256 / 2 ^ (8 * i) := by
        rw [Nat.div_div_eq_div_mul, show (256 : Nat) = 2 ^ 8 from rfl, ← Nat.pow_add]
        congr 2
        omega
      have he : n + 1 - 1 - (i + 1) = n - 1 - i := by omega
      simp only [Function.comp_apply, Nat.succ_eq_add_one, hd, he]

section
variable {N : Nat} (x : BitVec N)

theorem clz_value : clzN N x.toNat % 2 ^ N =
    (BitVec.ofNat N ((List.range N).reverse.takeWhile fun i => !x.getLsbD i).length).toNat := by
  rw [BitVec.toNat_ofNat, ← length_takeWhile_reverse N _ x.isLt]
  rfl

theorem ctz_value : ctzN N x.toNat % 2 ^ N = (BitVec.ofNat N ((List.range N).takeWhile fun i => !x.getLsbD i).length).toNat := by
  rw [BitVec.toNat_ofNat, ← length_takeWhile_range]
  rfl

theorem popc_value : popcN N x.toNat % 2 ^ N = (BitVec.ofNat N ((List.range N).filter fun i => x.getLsbD i).length).toNat := by
  rw [BitVec.toNat_ofNat, ← length_filter_range]
  rfl

theorem bswap_value : bswapN (N / 8) x.toNat % 2 ^ N = (BitVec.ofNat N
    ((List.range (N / 8)).map fun i => (x.toNat / 2 ^ (8 * i) % 256) * 2 ^ (8 * (N / 8 - 1 - i))).sum).toNat := by
  rw [BitVec.toNat_ofNat, sum_bytes_reversed]

end

/-! ### Results of the integer operations -/

theorem sizeBits_le (z : BitVec 2) : sizeBits z ≤ 64 := by
  have h : z.toNat ≤ 3 := Nat.le_of_lt_succ z.isLt
  have := Nat.pow_le_pow_right (n := 2) (by decide) h
  unfold sizeBits
  omega

theorem sizeBits_pos (z : BitVec 2) : 0 < sizeBits z := by simp [sizeBits]

theorem arg_toNat (s : State) (a : SArgs) (q : Port) : (arg s a q).toNat = srcN (s.ctx s.cur).arch a q := by
  rw [arg, BitVec.toNat_ofNat, srcN]

theorem ofNat_eq_zeroExtend {v : Nat} {w : W64} (h : v = w.toNat) : BitVec.ofNat 1024 v = w.zeroExtend 1024 := by
  rw [h, BitVec.ofNat_toNat]

theorem scalarResult_eq_scalarLands {s : State} {a : SArgs} {v : Nat} {w : W64} (h : v = w.toNat) :
    scalarResult (s.ctx s.cur).arch a 1 .iq v 0 = scalarLands s a w := by
  simp [scalarResult, scalarLands, ofNat_eq_zeroExtend h, landFlags]

theorem apart_scalarLands (s : State) (a : SArgs) (w : W64) : Apart (scalarLands s a w) := by
  unfold scalarLands
  split
  · simpa [landFlags] using apart_result a.dst .iq 1 (w.zeroExtend 1024) (w.zeroExtend 1024) (BitVec.allOnes 1024)
      (BitVec.allOnes 1024) 0 (by simp)
  · exact apart_nil

/-- An operation that lands a number with latency 1 completes with the value `w` that is this number (R70, R73). -/
theorem completes_scalarResult {i : Instr} {a : SArgs} {f : OpFn} {reads : List Nat} {s : State} {b : Bead} {v : Nat} {w : W64}
    (hs : CanIssue s b) (hw : wellFormed i = true) (hf : slotOp i = some f) (hk : slotOf i = some .s) (hh : loneHeader i = {})
    (ho : f s.cur s = { slot := .s, reads := reads, lands := scalarResult (s.ctx s.cur).arch a 1 .iq v 0 }) (hv : v = w.toNat) :
    Completes i .s reads (scalarLands s a w) s :=
  completes_of_lands hs hw hf hk hh (by decide) (apart_scalarLands s a w) (by rw [ho, scalarResult_eq_scalarLands hv])

/-- An integer operation lands its number of N bits, zero-extended (R70, R73). -/
theorem completes_intOp {i : Instr} {a : SArgs} {l : List Port} {g : Arch → Nat} {s : State} {b : Bead} {w : W64}
    (hs : CanIssue s b) (hw : wellFormed i = true) (hf : slotOp i = some (intOp a l g)) (hk : slotOf i = some .s)
    (hh : loneHeader i = {}) (hv : g (s.ctx s.cur).arch % 2 ^ sizeBits a.size = w.toNat) :
    Completes i .s (readsS a l) (scalarLands s a w) s :=
  completes_scalarResult hs hw hf hk hh rfl hv

/-- A value of at most 64 bits as a 64-bit number. -/
theorem toNat_zeroExtend {z : BitVec 2} (x : BitVec (sizeBits z)) : (x.zeroExtend 64).toNat = x.toNat := by
  rw [BitVec.zeroExtend, BitVec.toNat_setWidth]
  exact Nat.mod_eq_of_lt (x.isLt.trans_le (Nat.pow_le_pow_right (by decide) (sizeBits_le z)))

/-! ### The tables of R75 to R77 and R79 -/

/-- The function of two numbers that an operation computes is that of its table on bit vectors, modulo 2^N. -/
structure ComputesTwo (i : Instr) (a : SArgs) (f : (N : Nat) → BitVec N → BitVec N → BitVec N) (g : Nat → Nat → Nat → Nat) :
    Prop where
  op : slotOp i = some (intOp2 a g)
  slot : slotOf i = some .s
  header : loneHeader i = {}
  value : ∀ N (x y : BitVec N), 0 < N → g N x.toNat y.toNat % 2 ^ N = (f N x y).toNat

theorem computesTwo_of_intTwo {i : Instr} {a : SArgs} {f : (N : Nat) → BitVec N → BitVec N → BitVec N} (h : intTwo i = some (a, f)) :
    ∃ g, ComputesTwo i a f g := by
  cases i with
  | add a =>
    cases h
    exact ⟨_, rfl, rfl, rfl, fun N x y _ => (BitVec.toNat_add x y).symm⟩
  | sub a =>
    cases h
    exact ⟨_, rfl, rfl, rfl, fun N x y _ => sub_value x y⟩
  | mul a =>
    cases h
    exact ⟨_, rfl, rfl, rfl, fun N x y _ => (BitVec.toNat_mul x y).symm⟩
  | mulh a =>
    cases h
    exact ⟨_, rfl, rfl, rfl, fun N x y _ => mulh_value x y⟩
  | mulhn a =>
    cases h
    exact ⟨_, rfl, rfl, rfl, fun N x y _ => (BitVec.toNat_ofNat _ _).symm⟩
  | min a =>
    cases h
    exact ⟨_, rfl, rfl, rfl, fun N x y _ => min_value x y⟩
  | max a =>
    cases h
    exact ⟨_, rfl, rfl, rfl, fun N x y _ => max_value x y⟩
  | minn a =>
    cases h
    exact ⟨_, rfl, rfl, rfl, fun N x y _ => minn_value x y⟩
  | maxn a =>
    cases h
    exact ⟨_, rfl, rfl, rfl, fun N x y _ => maxn_value x y⟩
  | and a =>
    cases h
    exact ⟨_, rfl, rfl, rfl, fun N x y _ => and_value x y⟩
  | or a =>
    cases h
    exact ⟨_, rfl, rfl, rfl, fun N x y _ => or_value x y⟩
  | xor a =>
    cases h
    exact ⟨_, rfl, rfl, rfl, fun N x y _ => xor_value x y⟩
  | andn a =>
    cases h
    exact ⟨_, rfl, rfl, rfl, fun N x y _ => andn_value x y⟩
  | shl a =>
    cases h
    exact ⟨_, rfl, rfl, rfl, fun N x y _ => shl_value x _⟩
  | shr a =>
    cases h
    exact ⟨_, rfl, rfl, rfl, fun N x y _ => shr_value x _⟩
  | sar a =>
    cases h
    exact ⟨_, rfl, rfl, rfl, fun N x y _ => sar_value x _⟩
  | rol a =>
    cases h
    exact ⟨_, rfl, rfl, rfl, fun N x y h => rol_value x (Nat.mod_lt _ h)⟩
  | _ => cases h

/-- Settles O2.  The number that each operation computes is the value of its table. -/
theorem integerOfTwo : Obligations.IntegerOfTwo := by
  intro i a f s b hi hw hs
  obtain ⟨g, hg⟩ := computesTwo_of_intTwo hi
  refine completes_intOp hs hw hg.op hg.slot hg.header ?_
  rw [toNat_zeroExtend, ← arg_toNat, ← arg_toNat, hg.value _ _ _ (sizeBits_pos _)]

/-- The function of one number that an operation computes is that of its table on bit vectors, modulo 2^N. -/
structure ComputesOne (i : Instr) (a : SArgs) (f : (N : Nat) → BitVec N → BitVec N) (g : Nat → Nat → Nat) : Prop where
  op : slotOp i = some (intOp1 a g)
  slot : slotOf i = some .s
  header : loneHeader i = {}
  value : ∀ N (x : BitVec N), g N x.toNat % 2 ^ N = (f N x).toNat

theorem computesOne_of_intOne {i : Instr} {a : SArgs} {f : (N : Nat) → BitVec N → BitVec N} (h : intOne i = some (a, f)) :
    ∃ g, ComputesOne i a f g := by
  cases i with
  | neg a =>
    cases h
    exact ⟨_, rfl, rfl, rfl, fun N x => neg_value x⟩
  | abs a =>
    cases h
    exact ⟨_, rfl, rfl, rfl, fun N x => abs_value x⟩
  | not a =>
    cases h
    exact ⟨_, rfl, rfl, rfl, fun N x => not_value x⟩
  | clz a =>
    cases h
    exact ⟨_, rfl, rfl, rfl, fun N x => clz_value x⟩
  | ctz a =>
    cases h
    exact ⟨_, rfl, rfl, rfl, fun N x => ctz_value x⟩
  | popc a =>
    cases h
    exact ⟨_, rfl, rfl, rfl, fun N x => popc_value x⟩
  | bswap a =>
    cases h
    exact ⟨_, rfl, rfl, rfl, fun N x => bswap_value x⟩
  | mov a =>
    cases h
    exact ⟨_, rfl, rfl, rfl, fun N x => Nat.mod_eq_of_lt x.isLt⟩
  | li a =>
    cases h
    exact ⟨_, rfl, rfl, rfl, fun N x => Nat.mod_eq_of_lt x.isLt⟩
  | _ => cases h

/-- Settles O3.  The number that each operation computes is the value of its table. -/
theorem integerOfOne : Obligations.IntegerOfOne := by
  intro i a f s b hi hw hs
  obtain ⟨g, hg⟩ := computesOne_of_intOne hi
  refine completes_intOp hs hw hg.op hg.slot hg.header ?_
  rw [toNat_zeroExtend, ← arg_toNat, hg.value]

end Sys2Proof.ScalarInteger
end

section
/-! SUPPORT. The field operations, address arithmetic and selection of the S slot (R72, R77, R79). -/
namespace Sys2Proof.ScalarFields
open Sys2Proof Sys2Proof.Machine Sys2Proof.Claims Sys2Proof.Lone Sys2Proof.ScalarInteger

/-! ### Replacing bits of a number -/

theorem putBits_eq (x lo n v : Nat) : putBits x lo n v = 2 ^ lo * (2 ^ n * (x / 2 ^ (lo + n)) + v % 2 ^ n) + x % 2 ^ lo := by
  have h1 : x = 2 ^ lo * (x / 2 ^ lo) + x % 2 ^ lo := (Nat.div_add_mod x (2 ^ lo)).symm
  have h2 : x / 2 ^ lo = 2 ^ n * (x / 2 ^ (lo + n)) + x / 2 ^ lo % 2 ^ n := by
    rw [Nat.pow_add, ← Nat.div_div_eq_div_mul, Nat.div_add_mod]
  unfold putBits bitsOf
  generalize x / 2 ^ lo % 2 ^ n = m at *
  generalize x / 2 ^ (lo + n) = q at *
  generalize x % 2 ^ lo = r at *
  generalize v % 2 ^ n = u
  have h3 : x = 2 ^ lo * (2 ^ n * q) + m * 2 ^ lo + r := by
    rw [h2] at h1
    rw [h1]
    ring
  have h4 : 2 ^ lo * (2 ^ n * q + u) = 2 ^ lo * (2 ^ n * q) + u * 2 ^ lo := by ring
  omega

/-- The bits that `putBits` replaces are those of the new value, and every other bit is as before. -/
theorem testBit_putBits (x lo n v i : Nat) :
    (putBits x lo n v).testBit i = if lo ≤ i ∧ i < lo + n then v.testBit (i - lo) else x.testBit i := by
  rw [putBits_eq, Nat.testBit_two_pow_mul_add _ (Nat.mod_lt _ (Nat.two_pow_pos lo)),
    Nat.testBit_two_pow_mul_add _ (Nat.mod_lt _ (Nat.two_pow_pos n)), Nat.testBit_mod_two_pow, Nat.testBit_mod_two_pow,
    Nat.testBit_div_two_pow]
  by_cases h1 : i < lo
  · simp [h1, Nat.not_le.mpr h1]
  · by_cases h2 : i < lo + n
    · have h3 : i - lo < n := by omega
      simp [h1, h2, h3, Nat.not_lt.mp h1]
    · have h3 : ¬i - lo < n := by omega
      have h4 : i - lo - n + (lo + n) = i := by omega
      simp [h1, h2, h3, h4]

theorem putBits_lt {x lo n v N : Nat} (hx : x < 2 ^ N) (h : n = 0 ∨ lo + n ≤ N) : putBits x lo n v < 2 ^ N := by
  refine Nat.lt_pow_two_of_testBit _ fun i hi => ?_
  rw [testBit_putBits, if_neg (by omega)]
  exact Nat.testBit_lt_two_pow (hx.trans_le (Nat.pow_le_pow_right Nat.two_pos hi))

/-- A number whose bits are replaced, as a bit vector. -/
theorem toNat_ofFnLE_putBits {N lo n v : Nat} (x : BitVec N) (hn : n = 0 ∨ lo + n ≤ N) (f : Fin N → Bool)
    (hf : ∀ i : Fin N, f i = if lo ≤ i.val ∧ i.val < lo + n then v.testBit (i.val - lo) else x.getLsbD i.val) :
    (BitVec.ofFnLE f).toNat = putBits x.toNat lo n v := by
  refine Nat.eq_of_testBit_eq fun i => ?_
  by_cases hi : i < N
  · rw [testBit_putBits, ← BitVec.getLsbD, BitVec.getLsbD_ofFnLE, dif_pos hi, hf ⟨i, hi⟩]
    rfl
  · rw [Nat.testBit_lt_two_pow ((BitVec.isLt _).trans_le (Nat.pow_le_pow_right Nat.two_pos (by omega))),
      Nat.testBit_lt_two_pow ((putBits_lt x.isLt hn).trans_le (Nat.pow_le_pow_right Nat.two_pos (by omega)))]

/-! ### Fields (R77) -/

theorem fieldPos_eq (b : W64) : fieldPos b = (b.extractLsb' 0 6).toNat := by
  simp [fieldPos, BitVec.extractLsb'_toNat]

theorem fieldLen_eq (n : Nat) (b : W64) : fieldLen n b = Nat.min (b.extractLsb' 8 7).toNat n := by
  rw [BitVec.extractLsb'_toNat, Nat.shiftRight_eq_div_pow]
  rfl

theorem bextN_lt {n x : Nat} (b : W64) (h : x < 2 ^ n) : bextN n x b < 2 ^ n :=
  (Nat.mod_le _ _).trans_lt ((Nat.div_le_self _ _).trans_lt h)

theorem binsN_eq_putBits (n old x : Nat) (b : W64) :
    binsN n old x b = putBits old (fieldPos b) (min (fieldLen n b) (n - fieldPos b)) x := rfl

/-! ### bext, bins, lih, lea and sel -/

/-- What an operation of R77 or R79 lands is the value that its table gives. -/
theorem fieldValue_lands {s : State} {i : Instr} {a : SArgs} {l : List Port} {v : W64} (h : fieldValue s i = some (a, l, v)) :
    ∃ f n, slotOp i = some f ∧ slotOf i = some .s ∧ loneHeader i = {} ∧
      f s.cur s = { slot := .s, reads := readsS a l, lands := scalarResult (s.ctx s.cur).arch a 1 .iq n 0 } ∧ n = v.toNat := by
  cases i with
  | bext a =>
    cases h
    refine ⟨_, _, rfl, rfl, rfl, rfl, ?_⟩
    have hx : srcN (s.ctx s.cur).arch a a.a < 2 ^ sizeBits a.size := Nat.mod_lt _ (Nat.two_pow_pos _)
    have h64 : 2 ^ sizeBits a.size ≤ 2 ^ 64 := Nat.pow_le_pow_right Nat.two_pos (sizeBits_le _)
    rw [Nat.mod_eq_of_lt (bextN_lt _ hx), BitVec.toNat_ofNat, arg_toNat, ← fieldPos_eq, ← fieldLen_eq]
    exact (Nat.mod_eq_of_lt ((bextN_lt _ hx).trans_le h64)).symm
  | bins a =>
    cases h
    refine ⟨_, _, rfl, rfl, rfl, rfl, ?_⟩
    have hN : sizeBits a.size ≤ 64 := sizeBits_le _
    let p := fieldPos (srcS (s.ctx s.cur).arch a a.b)
    let n := fieldLen (sizeBits a.size) (srcS (s.ctx s.cur).arch a a.b)
    have hp : min n (sizeBits a.size - p) = 0 ∨ p + min n (sizeBits a.size - p) ≤ sizeBits a.size := by omega
    have hlt : (arg s a a.dst).toNat < 2 ^ sizeBits a.size := BitVec.isLt _
    beta_reduce
    rw [binsN_eq_putBits, ← arg_toNat, ← arg_toNat, Nat.mod_eq_of_lt (putBits_lt hlt hp), toNat_zeroExtend]
    refine (toNat_ofFnLE_putBits (arg s a a.dst) hp _ fun i => ?_).symm
    rw [← fieldPos_eq, ← fieldLen_eq]
    have hi : (p ≤ i.val ∧ i.val < p + n) ↔ p ≤ i.val ∧ i.val < p + min n (sizeBits a.size - p) := by omega
    exact if_congr hi rfl rfl
  | lih a =>
    cases h
    refine ⟨_, _, rfl, rfl, rfl, rfl, ?_⟩
    have hz : 16 * a.size.toNat + 16 ≤ 64 := by
      have := a.size.isLt
      omega
    refine (toNat_ofFnLE_putBits (srcS (s.ctx s.cur).arch a a.a) (.inr hz) _ fun i => ?_).symm
    split
    · rename_i h
      rw [Nat.testBit_mod_two_pow, BitVec.getLsbD, decide_eq_true (by omega), Bool.true_and]
    · rfl
  | lea a =>
    cases h
    refine ⟨_, _, rfl, rfl, rfl, rfl, ?_⟩
    rewrite [BitVec.toNat_add, BitVec.toNat_shiftLeft, Nat.shiftLeft_eq, Nat.add_mod_mod]
    rfl
  | _ => cases h

/-- Settles O4.  Each operation lands the number of the value that its table gives. -/
theorem fieldsAndAddresses : Obligations.FieldsAndAddresses := by
  intro i a l v s b h hw hs
  obtain ⟨f, n, hf, hk, hh, ho, hv⟩ := fieldValue_lands h
  exact completes_scalarResult hs hw hf hk hh ho hv

/-- Settles O5.  `sel` lands a source in its destination and iq whatever its predicate. -/
theorem select : Obligations.Select := by
  intro a s b hw hs
  have hv (q : Port) : BitVec.ofNat 1024 (srcN (s.ctx s.cur).arch a q) = (arg s a q).zeroExtend 1024 := by
    rw [← arg_toNat, BitVec.ofNat_toNat]
  have ha (v : BitVec 1024) : Apart (landPort a.dst 1 v ++ [landLatch .iq 1 v]) := by
    simpa [landFlags] using apart_result a.dst .iq 1 v v (BitVec.allOnes 1024) (BitVec.allOnes 1024) 0 (by simp)
  refine completes_of_lands hs hw rfl rfl rfl (by decide) (ha _) ?_
  simp only [← hv]
  rfl

end Sys2Proof.ScalarFields
end

section
/-! SUPPORT. The predicate operations, the floating-point operations, conversions and compares of the S slot, and the results for the
hard-wired ports (R32, R37, R73, R78, R80 to R85). -/
namespace Sys2Proof.ScalarFloat
open Sys2Proof Sys2Proof.Machine Sys2Proof.Claims Sys2Proof.Lone Sys2Proof.ScalarInteger

/-! ### Predicate operations (R85) -/

theorem apart_pair (q : Port) (lat : Nat) (v w : BitVec 1024) : Apart (landPort q lat v ++ [landLatch .iq lat w]) := by
  simpa [landFlags] using apart_result q .iq lat v w (BitVec.allOnes 1024) (BitVec.allOnes 1024) 0 (by simp)

/-- Each predicate operation computes the value of its table. -/
theorem predOp_of_predValue {r : Arch} {i : Instr} {a : SArgs} {l : List Port} {v : Pred} (h : predValue r i = some (a, l, v)) :
    ∃ g, slotOp i = some (predOp a l g) ∧ slotOf i = some .s ∧ loneHeader i = {} ∧ g r = v := by
  cases i with
  | pand a | por a | pxor a | pandn a | pmov a | pmovLo a | pmovHi a =>
    cases h
    exact ⟨_, rfl, rfl, rfl, rfl⟩
  | _ => cases h

/-- Settles O6.  Each operation lands the value of its table, and iq takes its low half. -/
theorem predicateOperations : Obligations.PredicateOperations := by
  intro i a l v s b h hw hs
  obtain ⟨g, hf, hk, hh, rfl⟩ := predOp_of_predValue h
  refine completes_of_lands hs hw hf hk hh (by decide) ?_ rfl
  split
  · exact apart_pair _ _ _ _
  · exact apart_nil

/-! ### Encodings of a format -/

theorem pow_fraction_le {f : FFmt} (hf : 0 < f.p) : f.inf + 2 ^ (f.p - 1) < f.signBit := by
  have he : 2 ^ f.p = 2 * 2 ^ (f.p - 1) := by rw [← Nat.pow_succ', Nat.succ_eq_add_one, Nat.sub_add_cancel hf]
  have hp : 0 < 2 ^ (f.p - 1) := Nat.two_pow_pos _
  have h1 : f.inf + 2 ^ f.p = f.signBit := by
    rw [FFmt.inf, FFmt.ones, FFmt.signBit, Nat.pow_add, Nat.sub_mul, Nat.one_mul,
      Nat.sub_add_cancel (Nat.le_mul_of_pos_left _ (Nat.two_pow_pos _))]
  omega

theorem signed_lt {f : FFmt} {x : Nat} (n : Bool) (h : x < f.signBit) : f.signed n x < 2 * f.signBit := by
  cases n <;> simp only [FFmt.signed, Bool.false_eq_true, if_false, if_true] <;> omega

theorem inf_lt {f : FFmt} (hf : 0 < f.p) : f.inf < f.signBit :=
  (Nat.le_add_right _ _).trans_lt (pow_fraction_le hf)

theorem overflowF_lt {f : FFmt} (hf : 0 < f.p) (md : Rm) (n : Bool) : (overflowF f md n).1 < 2 * f.signBit := by
  have hc (c : Bool) : (if c then f.inf else f.largest) < f.signBit := by
    split
    · exact inf_lt hf
    · exact (Nat.sub_le _ _).trans_lt (inf_lt hf)
  exact signed_lt n (hc _)

/-- What is rounded into a format is an encoding of it (R115). -/
theorem packF_lt {f : FFmt} (hf : 0 < f.p) (md : Rm) (v : FVal) : (packF f md v).1 < 2 * f.signBit := by
  have hi := inf_lt hf
  cases v with
  | nan b => exact (pow_fraction_le hf).trans_le (by omega)
  | inf n => exact signed_lt n hi
  | fin n m x =>
    simp only [packF]
    split
    · exact signed_lt n (by omega)
    · unfold roundF
      dsimp only
      generalize (if x + (Nat.log2 m : Int) < f.emin then _ else _) = bits
      split
      · exact overflowF_lt hf md n
      · exact signed_lt n (by omega)

theorem two_mul_signBit (f : FFmt) : 2 * f.signBit = 2 ^ f.width := by
  rw [FFmt.signBit, FFmt.width, ← Nat.pow_succ']
  congr 1
  omega

theorem immFloat_lt {f : FFmt} (h32 : f.p ≤ FFmt.f32.p) (hf : 0 < f.p) (code : Nat) (imm : BitVec 23) :
    immFloat f code imm < 2 ^ f.width := by
  unfold immFloat
  dsimp only
  split
  · rename_i h
    subst h
    have := imm.isLt
    have h : (2 : Nat) ^ FFmt.f32.width = 2 ^ 32 := rfl
    omega
  · split
    · rw [← two_mul_signBit]
      exact (pow_fraction_le hf).trans_le (by omega)
    · split
      · rw [← two_mul_signBit]
        exact packF_lt hf _ _
      · exact Nat.mod_lt _ (Nat.two_pow_pos _)

theorem fmtS_fraction (z : BitVec 2) : 0 < (fmtS z).p := by
  unfold fmtS
  split <;> decide

/-- A source in a format is an encoding of the format (R71). -/
theorem srcF_lt (r : Arch) (a : SArgs) (q : Port) : srcF r a q < 2 ^ (fmtS a.size).width := by
  have hf := fmtS_fraction a.size
  unfold srcF floatSource
  split
  · rw [← two_mul_signBit]
    exact packF_lt hf _ _
  · exact immFloat_lt (by unfold fmtS; split <;> decide) hf _ _
  · exact Nat.mod_lt _ (Nat.two_pow_pos _)

theorem absF_eq (f : FFmt) (x : Nat) : absF f x = x % 2 ^ (f.width - 1) := by
  rw [absF, FFmt.signBit, FFmt.width, Nat.add_assoc, Nat.add_sub_cancel_left]

/-- Inverting the sign bit of an encoding (R80). -/
theorem negF_eq {f : FFmt} {x : Nat} (h : x < 2 ^ f.width) : negF f x = x ^^^ 2 ^ (f.width - 1) := by
  have hn : f.width - 1 = f.e + f.p := by rw [FFmt.width, Nat.add_assoc, Nat.add_sub_cancel_left]
  rw [← two_mul_signBit, FFmt.signBit] at h
  rw [hn, negF, FFmt.signBit]
  generalize f.e + f.p = n at h
  have hd : x = 2 ^ n * (x / 2 ^ n) + x % 2 ^ n := (Nat.div_add_mod _ _).symm
  have hq : x / 2 ^ n < 2 := Nat.div_lt_of_lt_mul (by rw [Nat.mul_comm]; exact h)
  have hr : x % 2 ^ n < 2 ^ n := Nat.mod_lt _ (Nat.two_pow_pos n)
  generalize x / 2 ^ n = q at *
  generalize x % 2 ^ n = r at *
  refine Nat.eq_of_testBit_eq fun i => ?_
  have hx (q : Nat) : (2 ^ n * q + r).testBit i = if i < n then r.testBit i else q.testBit (i - n) :=
    Nat.testBit_two_pow_mul_add _ hr i
  have h0 := hx 0
  have h1 := hx 1
  rw [Nat.mul_zero, Nat.zero_add] at h0
  rw [Nat.mul_one] at h1
  rw [Nat.testBit_xor, Nat.testBit_two_pow, hd, hx]
  by_cases hi : i < n
  · have hne : decide (n = i) = false := by simpa using (Nat.ne_of_lt hi).symm
    rw [hne, Bool.xor_false, if_pos hi]
    split
    · rfl
    · rw [h1, if_pos hi]
  · have hb : Nat.testBit 1 (i - n) = decide (n = i) := by
      rw [Bool.eq_iff_iff, decide_eq_true_iff, Nat.testBit_one_eq_true_iff_self_eq_zero]
      omega
    have h01 : q = 0 ∨ q = 1 := by omega
    rcases h01 with e | e <;> subst e
    · rw [if_neg (by decide), h1, if_neg hi, if_neg hi, hb, Nat.zero_testBit, Bool.false_xor]
    · rw [if_pos rfl, h0, if_neg hi, if_neg hi, hb, Nat.zero_testBit, Bool.xor_self]

/-! ### Floating-point operations (R80, R82 to R84) -/

theorem floatLands_of_latch (r : Arch) (a : SArgs) (v : Nat × Flags) : scalarResult r a 4 .fq v.1 v.2 = floatLands r a 4 true v := rfl

theorem floatLands_of_no_latch (r : Arch) (a : SArgs) (v : Nat × Flags) :
    (if enabledS r a.pred a.neg then landPort a.dst 14 (BitVec.ofNat 1024 v.1) ++ landFlags 14 v.2 else []) =
      floatLands r a 14 false v := by
  simp [floatLands]

theorem apart_floatLands (r : Arch) (a : SArgs) (lat : Nat) (q : Bool) (v : Nat × Flags) : Apart (floatLands r a lat q v) := by
  have h := apart_result a.dst .fq lat (BitVec.ofNat 1024 v.1) (BitVec.ofNat 1024 v.1) (BitVec.allOnes 1024)
    (BitVec.allOnes 1024) v.2 (by simp)
  unfold floatLands
  split
  · cases q
    · refine List.Pairwise.sublist ?_ h
      simp [landPort, List.append_assoc]
    · exact h
  · exact apart_nil

/-- Each floating-point operation lands the value and flags of its table. -/
theorem floatValue_lands {s : State} {i : Instr} {a : SArgs} {lat : Nat} {q : Bool} {l : List Port} {v : Nat × Flags}
    (h : floatValue (s.ctx s.cur).arch i = some (a, lat, q, l, v)) :
    Lands s i .s (readsS a l) (floatLands (s.ctx s.cur).arch a lat q v) := by
  cases i with
  | fadd a | fsub a | fmul a | fma a | fnma a | fmin a | fmax a | fclass a =>
    cases h
    exact ⟨⟨_, rfl, rfl⟩, rfl, rfl⟩
  | fabs a =>
    cases h
    refine ⟨⟨_, rfl, ?_⟩, rfl, rfl⟩
    rw [← absF_eq]
    rfl
  | fneg a =>
    cases h
    refine ⟨⟨_, rfl, ?_⟩, rfl, rfl⟩
    rw [← negF_eq (srcF_lt _ _ _)]
    rfl
  | fdiv a | fsqrt a | frsqrt a =>
    cases h
    refine ⟨⟨_, rfl, ?_⟩, rfl, rfl⟩
    rw [← floatLands_of_no_latch]
    rfl
  | _ => cases h

/-- Settles O7.  Each operation lands the value and flags of its table. -/
theorem floatOperations : Obligations.FloatOperations := by
  intro i a lat q l v s b h hw hs
  exact (floatValue_lands h).completes hs hw (by decide) (apart_floatLands _ _ _ _ _)

/-- Settles O8.  `fcvt` lands the conversion between the two types that imm23 names. -/
theorem floatConversion : Obligations.FloatConversion := by
  intro a t u s b hw hs ht hu r x
  refine Lands.completes ⟨⟨_, rfl, ?_⟩, rfl, rfl⟩ hs hw (by decide) (apart_floatLands r a 4 true _)
  rw [← floatLands_of_latch]
  simp only [opFcvt, floatOp, ht, hu]
  rfl

/-! ### Compares and tests (R78, R81, R85) -/

theorem compareResult_eq (s : State) (a : SArgs) (t : Bool) (fl : Flags) :
    compareResult (s.ctx s.cur).arch a t fl = compareLands s a t fl := by
  have hv : ∀ v : BitVec 128, truthOf a.dst t = v.toNat →
      BitVec.ofNat 1024 (truthOf a.dst t) = v.zeroExtend 1024 ∧
      BitVec.ofNat 1024 (truthOf a.dst t % 2 ^ 64) = (v.extractLsb' 0 64).zeroExtend 1024 := by
    intro v h
    rw [h]
    refine ⟨BitVec.ofNat_toNat .., ?_⟩
    rw [BitVec.zeroExtend, ← BitVec.ofNat_toNat, BitVec.extractLsb'_toNat, Nat.shiftRight_zero]
  have ht : truthOf a.dst t = (if t then (if a.dst.isP then BitVec.allOnes 128 else 1) else 0 : BitVec 128).toNat := by
    unfold truthOf
    cases t <;> cases a.dst.isP <;> rfl
  obtain ⟨h1, h2⟩ := hv _ ht
  simp only [compareResult, compareLands, h1, h2]

theorem apart_compareLands (s : State) (a : SArgs) (t : Bool) (fl : Flags) : Apart (compareLands s a t fl) := by
  by_cases h : enabledS (s.ctx s.cur).arch a.pred a.neg = true
  · rw [compareLands, if_pos h]
    exact apart_result a.dst .iq 1 _ _ _ _ fl (by simp)
  · rw [compareLands, if_neg h]
    exact apart_nil

/-- The truth that an integer compare computes on numbers is that of its table on bit vectors. -/
theorem cmpOp_of_intCompares {i : Instr} {a : SArgs} {f : (N : Nat) → BitVec N → BitVec N → Bool} (h : intCompares i = some (a, f)) :
    ∃ g, slotOp i = some (cmpOp a g) ∧ slotOf i = some .s ∧ loneHeader i = {} ∧
      ∀ N (x y : BitVec N), g N x.toNat y.toNat = f N x y := by
  cases i with
  | cmpEq a =>
    cases h
    exact ⟨_, rfl, rfl, rfl, fun N x y => by rw [Bool.eq_iff_iff]; simp [BitVec.toNat_inj]⟩
  | cmpNe a =>
    cases h
    exact ⟨_, rfl, rfl, rfl, fun N x y => by rw [Bool.eq_iff_iff]; simp [BitVec.toNat_inj]⟩
  | cmpLt a =>
    cases h
    exact ⟨_, rfl, rfl, rfl, fun N x y => by rw [sgn_toNat, sgn_toNat]; rfl⟩
  | cmpLe a =>
    cases h
    exact ⟨_, rfl, rfl, rfl, fun N x y => by rw [sgn_toNat, sgn_toNat]; rfl⟩
  | cmpLtn a | cmpLen a =>
    cases h
    exact ⟨_, rfl, rfl, rfl, fun N x y => rfl⟩
  | _ => cases h

theorem fcmpOp_of_fcompares {i : Instr} {a : SArgs} {k : FCond} (h : fcompares i = some (a, k)) :
    slotOp i = some (fcmpOp a k) ∧ slotOf i = some .s ∧ loneHeader i = {} := by
  cases i with
  | fcmpEq a | fcmpNe a | fcmpLt a | fcmpLe a | fcmpUn a =>
    cases h
    exact ⟨rfl, rfl, rfl⟩
  | _ => cases h

/-- Each compare and test lands the truth and flags of its table. -/
theorem comparison_lands {s : State} {i : Instr} {a : SArgs} {l : List Port} {t : Bool} {fl : Flags}
    (h : comparison s i = some (a, l, t, fl)) : Lands s i .s (readsS a l) (compareLands s a t fl) := by
  unfold comparison at h
  split at h
  · cases h
    refine ⟨⟨_, rfl, ?_⟩, rfl, rfl⟩
    rw [← compareResult_eq]
    have : ∀ p : Pred, (p != 0) = decide (p ≠ 0) := fun p => by rw [Bool.eq_iff_iff]; simp
    rw [← this]
    rfl
  · cases h
    refine ⟨⟨_, rfl, ?_⟩, rfl, rfl⟩
    rw [← compareResult_eq]
    rfl
  · rename_i a f _ _ hi
    cases h
    obtain ⟨g, hf, hk, hh, hg⟩ := cmpOp_of_intCompares hi
    refine ⟨⟨_, hf, ?_⟩, hk, hh⟩
    rw [← compareResult_eq, ← hg, arg_toNat, arg_toNat]
    rfl
  · rename_i a k _ _ _ hi
    cases h
    obtain ⟨hf, hk, hh⟩ := fcmpOp_of_fcompares hi
    refine ⟨⟨_, hf, ?_⟩, hk, hh⟩
    rw [← compareResult_eq]
    rfl
  · cases h

/-- Settles O9.  Each compare and test lands the truth and flags of its table. -/
theorem compares : Obligations.Compares := by
  intro i a l t fl s b h hw hs
  exact (comparison_lands h).completes hs hw (by decide) (apart_compareLands s a t fl)

/-! ### Hard-wired ports (R32, R35) -/

/-- Settles O48.  s0, p0 and no port have no destination, so that only the latch and the flags are left. -/
theorem hardWired : Obligations.HardWired := by
  have hs (lat : Nat) (v m : BitVec 1024) : landPort (.s 0) lat v m = [] := rfl
  have hp (lat : Nat) (v m : BitVec 1024) : landPort (.p 0) lat v m = [] := rfl
  refine ⟨fun s a v hd he => ?_, fun s a t fl hd he => ?_, fun a imm lat v m => ⟨rfl, rfl, rfl, rfl, rfl⟩⟩
  · rw [scalarLands, if_pos he, hd, hs, List.nil_append]
  · have ht : ((if t then BitVec.allOnes 128 else 0 : BitVec 128).extractLsb' 0 64).zeroExtend 1024 =
        if t then (BitVec.allOnes 64).zeroExtend 1024 else 0 := by
      cases t
      · exact congrArg (BitVec.zeroExtend 1024) (by decide : (0 : BitVec 128).extractLsb' 0 64 = 0) |>.trans (by simp)
      · exact congrArg (BitVec.zeroExtend 1024) (by decide : (BitVec.allOnes 128).extractLsb' 0 64 = BitVec.allOnes 64)
    rw [compareLands, if_pos he, hd, hp, List.nil_append]
    exact congrArg (fun v => [landLatch .iq 1 v] ++ landFlags 1 fl) ht

end Sys2Proof.ScalarFloat
end

section
/-! SUPPORT. What the operations of the scalar, vector and crossbar slots do beside their results, and the end of a bundle of one
operation that nothing forbids (R23, R36, R41, R43, R58, R89). -/
namespace Sys2Proof.Effects
open Sys2Proof Sys2Proof.Machine Sys2Proof.Claims Sys2Proof.Lone

/-! ### The end of a bundle that nothing forbids -/

/-- A lone operation that raises no trap and waits for nothing ends its bundle on what its effect leaves (R23, R58). -/
theorem exec_ends {i : Instr} {f : OpFn} {k : Slot} {s : State} {b : Bead} (hs : CanIssue s b) (hw : wellFormed i = true)
    (hf : slotOp i = some f) (hk : slotOf i = some k) (hh : loneHeader i = {}) (hq : (f s.cur s).waits = none)
    (ht : issueTrap s.cur {} [f s.cur s] s = none) (hl : (f s.cur s).leave = id) :
    ∃ t, exec i s = .next t ∧ Ends (f s.cur s).jump s.cur (applyOp s.cur s (f s.cur s)) t := by
  rw [exec_eq_issueAlone hf hk]
  exact issueAlone_ends hs hw hh hq ht hl

/-! ### The operations of the result slots -/

/-- The effect at issue of an operation of a result slot: nothing, one pop of the random queue, a new loop stack, or one more free
value. -/
inductive Quiet (i : Instr) (c : Nat) (o : Op) : Prop where
  | none (h : o.act = id)
  | random (hr : o.rq = true) (h : ∀ u, o.act u = u.modArch c popRandom)
  | loop (hi : ∃ a, i = .loop a) (g : List LoopEntry → List LoopEntry)
      (h : ∀ u, o.act u = u.modArch c fun r => { r with loops := g r.loops })
  | free (h : ∀ u : State, o.act u = { u with free := u.free + 1 })

/-- What an operation of a result slot does: it starts no load, withholds nothing and stays in its context. -/
structure ResultOnly (i : Instr) (k : Slot) (c : Nat) (o : Op) : Prop where
  slot : o.slot = k
  loads : o.loads = []
  entries : o.entries = 0
  stays : o.leaves = false
  plain : o.needsCkpt = false
  leave : o.leave = id
  quiet : Quiet i c o

theorem quiet_vecOp (i : Instr) (a : VArgs) (l : List Port) (r : Arch → List Result) (c : Nat) (s : State) :
    Quiet i c (vecOp a l r c s) := by
  by_cases h : l.contains .rq = true
  · exact .random h fun u => if_pos h
  · exact .none (funext fun u => if_neg h)

theorem resultOnly_vecOp {i : Instr} {k : Slot} {a : VArgs} {l : List Port} {r : Arch → List Result} {f : OpFn} {c : Nat} {s : State}
    (hf : f = vecOp a l r) (hk : Encoding.unitSlot a.unit = some k) : ResultOnly i k c (f c s) := by
  subst hf
  exact ⟨slotV_of_unitSlot hk, rfl, rfl, rfl, rfl, rfl, quiet_vecOp i a l r c s⟩

section
variable {i : Instr} {k : Slot} {a : VArgs} {f : OpFn} {c : Nat} {s : State} (hk : Encoding.unitSlot a.unit = some k)
include hk

theorem resultOnly_vec1 {n : Nat} {q : Bool} {g : Arch → Nat → Nat × Flags} (hf : f = vec1 a n q g) : ResultOnly i k c (f c s) :=
  resultOnly_vecOp (hf.trans rfl) hk

theorem resultOnly_vec2 {n : Nat} {q : Bool} {g : Arch → Nat → Nat → Nat × Flags} (hf : f = vec2 a n q g) :
    ResultOnly i k c (f c s) :=
  resultOnly_vecOp (hf.trans rfl) hk

theorem resultOnly_vec3 {n : Nat} {q : Bool} {g : Arch → Nat → Nat → Nat → Nat × Flags} (hf : f = vec3 a n q g) :
    ResultOnly i k c (f c s) :=
  resultOnly_vecOp (hf.trans rfl) hk

theorem resultOnly_vecCompare {g : Nat → Nat → Bool × Flags} (hf : f = vecCompare a g) : ResultOnly i k c (f c s) :=
  resultOnly_vecOp (hf.trans rfl) hk

theorem resultOnly_vint2 {g : Nat → Nat → Nat} (hf : f = vint2 a g) : ResultOnly i k c (f c s) :=
  resultOnly_vec2 hk (hf.trans rfl)

theorem resultOnly_vicmpOp {g : Nat → Nat → Bool} (hf : f = vicmpOp a g) : ResultOnly i k c (f c s) :=
  resultOnly_vecCompare hk (hf.trans rfl)

theorem resultOnly_reduceOp {e : Nat} {g : Arch → Nat → Nat → Nat × Flags} (hf : f = reduceOp a e g) : ResultOnly i k c (f c s) :=
  resultOnly_vecOp (hf.trans rfl) hk

end

theorem resultOnly_opVsig {i : Instr} {k : Slot} {a : VArgs} {c : Nat} {s : State} (hk : Encoding.unitSlot a.unit = some k) :
    ResultOnly i k c (opVsig a c s) := by
  refine ⟨slotV_of_unitSlot hk, rfl, rfl, rfl, rfl, rfl, ?_⟩
  cases quiet_vecOp i a [a.a, a.b, a.c] (fun _ => []) c s with
  | none h => exact .none h
  | random hr h => exact .random hr h
  | loop hi g h => exact .loop hi g h
  | free h => exact .free h

theorem quiet_opLoop (a : SArgs) (c : Nat) (s : State) : Quiet (.loop a) c (opLoop a c s) := by
  by_cases h : enabledS (s.ctx c).arch a.pred a.neg = true
  · exact .loop ⟨a, rfl⟩ (fun l => loopStack l ((s.ctx c).pc + 64) (srcN (s.ctx c).arch a a.a)) fun u => if_pos h
  · exact .none (funext fun u => if_neg h)

theorem quiet_opGetc (i : Instr) (a : SArgs) (c : Nat) (s : State) : Quiet i c (opGetc a c s) := by
  by_cases h : (decide (cregNo a = 0x058) && enabledS (s.ctx c).arch a.pred a.neg) = true
  · exact .free fun u => if_pos h
  · exact .none (funext fun u => if_neg h)

theorem resultOnly_of_slotOp {i : Instr} {f : OpFn} {k : Slot} (hf : slotOp i = some f) (hk : slotOf i = some k)
    (hr : resultSlot k = true) (c : Nat) (s : State) : ResultOnly i k c (f c s) := by
  cases i with
  | add a | sub a | mul a | mulh a | mulhn a | neg a | abs a | min a | max a | minn a | maxn a | and a | or a
  | xor a | andn a | not a | shl a | shr a | sar a | rol a | clz a | ctz a | popc a | bext a | bins a | bswap a
  | cmpEq a | cmpNe a | cmpLt a | cmpLe a | cmpLtn a | cmpLen a | mov a | sel a | li a | lih a | lea a | fadd a
  | fsub a | fmul a | fma a | fnma a | fmin a | fmax a | fabs a | fneg a | fcmpEq a | fcmpNe a | fcmpLt a
  | fcmpLe a | fcmpUn a | fcvt a | fclass a | fdiv a | fsqrt a | frsqrt a | pand a | por a | pxor a | pandn a
  | pmov a | pmovLo a | pmovHi a | pany a | pall a | br a | jmp a | call a | ret a | setc a | xmov a | xperm a
  | xrot a | xshuf a | xbcast a | xzip a | xunzip a =>
    cases hf
    cases hk
    exact ⟨rfl, rfl, rfl, rfl, rfl, rfl, .none rfl⟩
  | loop a =>
    cases hf
    cases hk
    exact ⟨rfl, rfl, rfl, rfl, rfl, rfl, quiet_opLoop a c s⟩
  | getc a =>
    cases hf
    cases hk
    exact ⟨rfl, rfl, rfl, rfl, rfl, rfl, quiet_opGetc _ a c s⟩
  | vabs a | vneg a | vclass a | vsqrt a | vrsqrt a | vrcp a | vexp2 a | vlog2 a | vtanh a | vsigm a | vmov a =>
    cases hf
    exact resultOnly_vec1 hk rfl
  | vadd a | vsub a | vmul a | vmin a | vmax a | vdiv a =>
    cases hf
    exact resultOnly_vec2 hk rfl
  | vfma a | vfnma a =>
    cases hf
    exact resultOnly_vec3 hk rfl
  | vcmpEq a | vcmpNe a | vcmpLt a | vcmpLe a | vcmpUn a =>
    cases hf
    exact resultOnly_vecCompare hk rfl
  | viadd a | visub a | vimul a | vimulh a | vand a | vor a | vxor a | vshl a | vshr a | vsar a | vimin a
  | vimax a | viminn a | vimaxn a =>
    cases hf
    exact resultOnly_vint2 hk rfl
  | vicmpEq a | vicmpNe a | vicmpLt a | vicmpLe a | vicmpLtn a | vicmpLen a =>
    cases hf
    exact resultOnly_vicmpOp hk rfl
  | vsum a | vrmax a | vrmin a =>
    cases hf
    exact resultOnly_reduceOp hk rfl
  | vsel a | vcvt a | vscale a | vbcast a | vlane a | vins a | viota a | vsigFin a =>
    cases hf
    exact resultOnly_vecOp rfl hk
  | vsig a =>
    cases hf
    exact resultOnly_opVsig hk
  | _ => cases hf <;> cases hk <;> cases hr

theorem loneHeader_of_resultSlot {i : Instr} {k : Slot} (hk : slotOf i = some k) (hr : resultSlot k = true) : loneHeader i = {} := by
  cases i with
  | yield a | wait a | done a | phase a =>
    cases hk
    cases hr
  | _ => rfl

/-! ### What remains the same -/

theorem Table.set_set {α : Type} (k : Nat) (x y : α) : (t : Table α) → (t.set k x).set k y = t.set k y
  | [] => by simp [Table.set]
  | (a, z) :: r => by
    by_cases h1 : k < a
    · simp [Table.set, h1]
    · by_cases h2 : a = k
      · subst h2
        simp [Table.set]
      · simp [Table.set, h1, Ne.symm h2, Table.set_set k x y r]

theorem setCtx_setCtx (s : State) (c : Nat) (x y : Ctx) : (s.setCtx c x).setCtx c y = s.setCtx c y := by
  simp [State.setCtx, Table.set_set]

theorem modArch_modArch (s : State) (c : Nat) (f g : Arch → Arch) : (s.modArch c f).modArch c g = s.modArch c fun r => g (f r) := by
  simp only [State.modArch, State.modCtx, setCtx_setCtx, State.setCtx_ctx_self]

/-- A pop of the random queue moves one of its two positions (R113). -/
theorem popRandom_eq (r : Arch) : ∃ q p, popRandom r = { r with rqaddr := q, rqpos := p } := by
  unfold popRandom
  split
  · exact ⟨_, r.rqpos, rfl⟩
  · exact ⟨r.rqaddr, _, rfl⟩

/-- The effect of an operation of a result slot is on its context's write-timing buffer, the place of its random queue and its loop
stack, and on the count of free values. -/
theorem exists_applyOp {i : Instr} {k : Slot} {c : Nat} {o : Op} (h : ResultOnly i k c o) (s : State) :
    ∃ (g : Arch → Arch) (n : Nat), applyOp c s o = { s.modArch c g with free := n } ∧
      (∀ r, ∃ w q p l, g r = { r with wtb := w, rqaddr := q, rqpos := p, loops := l }) ∧
      (o.rq = false → ∀ r, (g r).rqpos = r.rqpos ∧ (g r).rqaddr = r.rqaddr) ∧
      ((∀ a, i ≠ .loop a) → ∀ r, (g r).loops = r.loops) := by
  let f (r : Arch) : Arch := { r with wtb := r.wtb ++ o.lands.map (landingOf s c o.slot) }
  have happly : applyOp c s o = o.act (s.modArch c f) := rfl
  cases h.quiet with
  | none h =>
    exact ⟨f, s.free, by rw [happly, h]; rfl, fun r => ⟨_, _, _, _, rfl⟩, fun _ _ => ⟨rfl, rfl⟩, fun _ _ => rfl⟩
  | random hr h =>
    refine ⟨fun r => popRandom (f r), s.free, by rw [happly, h, modArch_modArch]; rfl, fun r => ?_, fun hn => ?_, fun _ r => ?_⟩
    · obtain ⟨q, p, hp⟩ := popRandom_eq (f r)
      exact ⟨_, q, p, _, hp⟩
    · rw [hr] at hn
      cases hn
    · obtain ⟨q, p, hp⟩ := popRandom_eq (f r)
      change (popRandom (f r)).loops = r.loops
      rw [hp]
  | loop hi g h =>
    obtain ⟨a, hi⟩ := hi
    exact ⟨fun r => { f r with loops := g r.loops }, s.free, by rw [happly, h, modArch_modArch]; rfl,
      fun r => ⟨_, _, _, _, rfl⟩, fun _ _ => ⟨rfl, rfl⟩, fun hn => absurd hi (hn a)⟩
  | free h =>
    exact ⟨f, s.free + 1, by rw [happly, h]; rfl, fun r => ⟨_, _, _, _, rfl⟩, fun _ _ => ⟨rfl, rfl⟩, fun _ _ => rfl⟩

/-- The context after a bundle, but for its performance counters. -/
theorem Ends.ctx {jump : Option Nat} {c : Nat} {s t : State} (h : Ends jump c s t) :
    ∃ p q, t.ctx c = { nextBundle jump (s.ctx c) with pmcnt := p, pmctl := q } := by
  obtain ⟨⟨p, q, hc⟩, -⟩ := h
  exact ⟨p, q, by rw [hc, State.modCtx_ctx_self]⟩

/-- The other contexts after a bundle. -/
theorem Ends.ctx_ne {jump : Option Nat} {c d : Nat} {s t : State} (h : Ends jump c s t) (hd : d ≠ c) : t.ctx d = s.ctx d := by
  obtain ⟨-, hn, -⟩ := h
  rw [hn d hd, State.modCtx_ctx_ne _ _ hd]

/-- Everything but the contexts and the hub's counters' messages after a bundle. -/
theorem Ends.rest {jump : Option Nat} {c : Nat} {s t : State} (h : Ends jump c s t) :
    ∃ mail defer, t = { s with ctxs := t.ctxs, hub := { s.hub with mail := s.hub.mail ++ mail, pmDefer := defer } } := by
  obtain ⟨-, -, m, d, ht⟩ := h
  exact ⟨m, d, ht⟩

theorem sameOutside_of_ends {jump : Option Nat} {c n : Nat} {s t : State} {g : Arch → Arch}
    (h : Ends jump c { s.modArch c g with free := n } t) : SameOutside s t := by
  obtain ⟨m, d, ht⟩ := Ends.rest h
  rw [ht]
  exact ⟨rfl, ⟨rfl, rfl, rfl, rfl⟩, ⟨rfl, rfl, rfl, rfl, rfl, rfl, rfl⟩, rfl, rfl, rfl, rfl, rfl⟩

/-- What an operation of a result slot leaves where nothing forbids it (R23, R41, R87). -/
theorem exec_resultSlot {i : Instr} {f : OpFn} {k : Slot} {s : State} {b : Bead} (hf : slotOp i = some f) (hk : slotOf i = some k)
    (hr : resultSlot k = true) (hw : wellFormed i = true) (hs : CanIssue s b) (hq : (f s.cur s).waits = none)
    (ht : issueTrap s.cur {} [f s.cur s] s = none) :
    ∃ t g n, exec i s = .next t ∧ Ends (f s.cur s).jump s.cur { s.modArch s.cur g with free := n } t ∧
      (∀ r, ∃ w q p l, g r = { r with wtb := w, rqaddr := q, rqpos := p, loops := l }) ∧
      ((f s.cur s).rq = false → ∀ r, (g r).rqpos = r.rqpos ∧ (g r).rqaddr = r.rqaddr) ∧
      ((∀ a, i ≠ .loop a) → ∀ r, (g r).loops = r.loops) := by
  have ho := resultOnly_of_slotOp hf hk hr s.cur s
  obtain ⟨t, he, hE⟩ := exec_ends hs hw hf hk (loneHeader_of_resultSlot hk hr) hq ht ho.leave
  obtain ⟨g, n, hg, h1, h2, h3⟩ := exists_applyOp ho s
  rw [hg] at hE
  exact ⟨t, g, n, he, hE, h1, h2, h3⟩

/-- Settles O12.  No operation of these slots touches the pending target, so that the end of the bundle takes it. -/
theorem delayBundle : Obligations.DelayBundle := by
  intro i f k s b u hf hk hr hw hs hq ht hu
  obtain ⟨t, g, n, he, hE, hg, -, -⟩ := exec_resultSlot hf hk hr hw hs hq ht
  obtain ⟨p, q, hc⟩ := Ends.ctx hE
  obtain ⟨w, a, o, l, hr⟩ := hg (s.ctx s.cur).arch
  refine ⟨t, he, ?_, ?_⟩
  · rw [hc]
    change ((State.modArch s s.cur g).ctx s.cur).arch.target.getD _ % 2 ^ 64 = _
    rw [State.modArch_ctx_self, hr]
    simp [hu]
  · rw [hc]
    change (if ((State.modArch s s.cur g).ctx s.cur).arch.target.isSome then none else _) = _
    rw [State.modArch_ctx_self, hr]
    simp [hu]

/-- Settles O49.  What the effect and the end of the bundle write is none of these fields. -/
theorem registerFrame : Obligations.RegisterFrame := by
  intro i f k s b hf hk hr hw hs hq ht
  obtain ⟨t, g, n, he, hE, hg, hrq, hloop⟩ := exec_resultSlot hf hk hr hw hs hq ht
  obtain ⟨p, q, hc⟩ := Ends.ctx hE
  obtain ⟨w, a, o, l, hr⟩ := hg (s.ctx s.cur).arch
  have hx : ({ s.modArch s.cur g with free := n } : State).ctx s.cur = { s.ctx s.cur with arch := g (s.ctx s.cur).arch } :=
    State.modArch_ctx_self s s.cur g
  rw [hx] at hc
  refine ⟨t, he, ?_, sameOutside_of_ends hE, fun d hd => (Ends.ctx_ne hE hd).trans (State.modArch_ctx_ne s g hd), ?_⟩
  · rw [hc]
    change SameRegisters _ { g (s.ctx s.cur).arch with cc := _, target := _ }
    rw [hr]
    exact ⟨rfl, rfl, rfl, ⟨rfl, rfl, rfl, rfl, rfl⟩, rfl, rfl, rfl, rfl, rfl, rfl, rfl, rfl, rfl⟩
  · rw [hc]
    exact ⟨rfl, rfl, rfl, rfl, rfl, rfl, rfl, fun h => hrq h _, fun h => hloop h _⟩

end Sys2Proof.Effects
end

section
/-! SUPPORT. A lone operation of the scalar, vector or crossbar slot whose results fit, and the trap of one; transfers of control, hardware
loops, `getc` and `setc` (R58, R86 to R91, R361). -/
namespace Sys2Proof.ScalarControl
open Sys2Proof Sys2Proof.Machine Sys2Proof.Claims Sys2Proof.Crossbar Sys2Proof.Lone Sys2Proof.Effects Sys2Proof.ScalarInteger Sys2Proof.TrapOperation

/-! ### The bundle of an operation whose results fit -/

theorem inDrain_resultSlot (x : Ctx) {o : Op} (h : resultSlot o.slot = true) : inDrain x o = false := by
  unfold inDrain
  cases hk : o.slot with
  | s | va | vb | x => rfl
  | _ =>
    rw [hk] at h
    cases h

section
variable {i : Instr} {k : Slot} {s : State} {b : Bead} {o : Op} (hs : CanIssue s b) (ho : ResultOnly i k s.cur o)
  (hr : resultSlot k = true) (hg : o.groups ≤ 6) (hj : (s.ctx s.cur).arch.target.isSome = true → o.jump = none)
  (hfit : Fits s o.reads o.lands) (ha : Apart o.lands)
include hs ho hg hj hfit ha

/-- Results that fit break no condition of the whole bundle (R52, R53). -/
theorem badBundle_of_fits : badBundle (s.ctx s.cur) {} [o] = false := by
  refine badBundle_single rfl hj (by simp [ho.stays]) ?_ ?_ ?_ hg hfit.early
  · simpa [ho.entries, Config.withholdMax] using hs.entries
  · simpa [ho.loads, Config.landingMax] using hs.loads
  · have : writesOf (s.ctx s.cur).arch.cc [o] = writesAt (s.ctx s.cur).arch.cc o.lands := by
      simp [writesOf, ho.loads, writesAt]
    rw [this]
    exact noCollision_false hfit.apart (ha.writes _)

include hr

theorem issueTrap_of_fits (ht : o.traps = []) : issueTrap s.cur {} [o] s = none :=
  issueTrap_none ht (by simp [ho.plain]) (inDrain_resultSlot _ (by rw [ho.slot]; exact hr))
    (badBundle_of_fits hs ho hg hj hfit ha)

theorem issueTrap_of_fits_of_traps {x : Cause} (ht : o.traps = [x]) : issueTrap s.cur {} [o] s = some x :=
  issueTrap_of_traps ht ho.plain (inDrain_resultSlot _ (by rw [ho.slot]; exact hr)) (badBundle_of_fits hs ho hg hj hfit ha)

end

/-- The codes of the traps that an access walks for (R265, R266). -/
def walkedCodes : List TrapCode := [.xlate, .perm, .hmwrite, .mchk, .soft]

/-- The trap of an operation that is none of an access is taken as it is (R58, R338). -/
theorem bundleTrap_unwalked {s : State} {c : Nat} {x : Cause} (hf : (s.ctx c).freeze = none) (hx : x.code ∉ walkedCodes)
    (hl : x.line = none) : bundleTrap s c x = takeTrap s c x := by
  simp only [walkedCodes, List.mem_cons, not_or] at hx
  have hw : walkMissed s c x = s := by simp [walkMissed, hx]
  rw [bundleTrap, trapFreeze_thawed hf, hw, logIssue, numbered, hl]
  rfl

/-- A lone operation outside a checkpoint bundle takes the trap that its issue raises (R58). -/
theorem exec_traps {i : Instr} {k : Slot} {f : OpFn} {s : State} {b : Bead} {x : Cause} (hs : CanIssue s b)
    (hw : wellFormed i = true) (hf : slotOp i = some f) (hk : slotOf i = some k) (hh : loneHeader i = {})
    (hq : (f s.cur s).waits = none) (ht : issueTrap s.cur {} [f s.cur s] s = some x) : exec i s = .next (bundleTrap s s.cur x) := by
  rw [exec_eq_issueAlone hf hk, issueAlone_traps hs hw (x := x) (by rw [hh]; exact hq) (by rw [hh]; exact ht), bundleTrap,
    trapFreeze_thawed hs.thawed]

/-! ### Transfers of control -/

theorem toNat_target (x : Ctx) (a : SArgs) : (target x a).toNat = jumpTarget x.arch a x.pc := by
  unfold target jumpTarget
  cases a.a with
  | imm =>
    have h : BitVec.ofNat 64 x.pc + 64 * a.imm.signExtend 64 = BitVec.ofInt 64 ((x.pc : Int) + 64 * a.imm.toInt) := by
      rw [BitVec.ofInt_add, BitVec.ofInt_mul, BitVec.signExtend, BitVec.ofInt_natCast]
      rfl
    rw [h, BitVec.toNat_ofInt]
    rfl
  | _ => rfl

theorem slotOp_of_transfers {i : Instr} {a : SArgs} {link : Bool} (h : transfers i = some (a, link)) :
    slotOp i = some (transferOp a link) ∧ slotOf i = some .s := by
  cases i with
  | br a | jmp a | call a | ret a =>
    cases h
    exact ⟨rfl, rfl⟩
  | _ => cases h

/-- What a transfer lands (R86). -/
theorem lands_transferOp (a : SArgs) (link : Bool) (s : State) : (transferOp a link s.cur s).lands =
    if link then scalarLands s a (BitVec.ofNat 64 ((s.ctx s.cur).pc + 128)) else [] := by
  cases link
  · rfl
  · exact scalarResult_eq_scalarLands (by rw [BitVec.toNat_ofNat])

section
variable {a : SArgs} {link : Bool} {s : State}

theorem apart_transferOp : Apart (transferOp a link s.cur s).lands := by
  rw [lands_transferOp]
  cases link
  · exact apart_nil
  · exact apart_scalarLands _ _ _

theorem lands_transferOp_of_enabled (h : enabledS (s.ctx s.cur).arch a.pred a.neg = true) :
    (transferOp a link s.cur s).lands = linkLands (s.ctx s.cur) a link := by
  rw [lands_transferOp, scalarLands, if_pos h]
  rfl

theorem lands_transferOp_of_disabled (h : enabledS (s.ctx s.cur).arch a.pred a.neg = false) :
    (transferOp a link s.cur s).lands = [] := by
  rw [lands_transferOp, scalarLands, h]
  cases link <;> rfl

theorem jump_transferOp_of_enabled (h : enabledS (s.ctx s.cur).arch a.pred a.neg = true) :
    (transferOp a link s.cur s).jump = some (target (s.ctx s.cur) a).toNat := by
  rw [toNat_target]
  exact if_pos h

theorem jump_transferOp_of_disabled (h : enabledS (s.ctx s.cur).arch a.pred a.neg = false) :
    (transferOp a link s.cur s).jump = none := by
  change (if enabledS (s.ctx s.cur).arch a.pred a.neg = true then _ else none) = none
  rw [h]
  rfl

theorem traps_transferOp : (transferOp a link s.cur s).traps =
    trapIf (enabledS (s.ctx s.cur).arch a.pred a.neg && (target (s.ctx s.cur) a).toNat % 64 != 0) s s.cur .s .align
      (target (s.ctx s.cur) a).toNat := by
  rw [toNat_target]
  rfl

theorem applyOp_transferOp : applyOp s.cur s (transferOp a link s.cur s) = land s s.cur .s (transferOp a link s.cur s).lands := rfl

end

/-- Settles O10.  An aligned target raises no trap and waits for the end of the bundle; a link is the only result. -/
theorem transfers : Obligations.Transfers := by
  intro i a link s b hi hw hs
  obtain ⟨hf, hk⟩ := slotOp_of_transfers hi
  have ho := resultOnly_of_slotOp hf hk rfl s.cur s
  refine ⟨fun hon hn hal hfit => ?_, fun hoff hfit => ?_⟩
  · have hl := lands_transferOp_of_enabled (link := link) hon
    have ht : (transferOp a link s.cur s).traps = [] := by
      rw [traps_transferOp, hal]
      exact congrArg (fun b => trapIf b s s.cur .s .align _) (Bool.and_false _)
    obtain ⟨t, he, hE⟩ := exec_ends hs hw hf hk (loneHeader_of_resultSlot hk rfl) rfl
      (issueTrap_of_fits hs ho rfl (Nat.zero_le _) (by simp [hn]) (by rw [hl]; exact hfit) apart_transferOp ht) ho.leave
    refine ⟨t, he, ?_⟩
    rw [jump_transferOp_of_enabled hon, applyOp_transferOp, hl] at hE
    exact hE
  · have hl := lands_transferOp_of_disabled (link := link) hoff
    have hj := jump_transferOp_of_disabled (link := link) hoff
    have ht : (transferOp a link s.cur s).traps = [] := by
      rw [traps_transferOp, hoff]
      rfl
    obtain ⟨t, he, hE⟩ := exec_ends hs hw hf hk (loneHeader_of_resultSlot hk rfl) rfl
      (issueTrap_of_fits hs ho rfl (Nat.zero_le _) (fun _ => hj) (by rw [hl]; exact hfit) apart_transferOp ht) ho.leave
    refine ⟨t, he, ?_⟩
    rw [hj, applyOp_transferOp, hl] at hE
    exact hE

/-- A transfer in a delay bundle breaks a condition of its bundle, whose field is its slot (R88). -/
theorem badBundle_of_delay {x : Ctx} {o : Op} (ht : x.arch.target ≠ none) (hj : o.jump.isSome = true) :
    badBundle x {} [o] = true ∧ bundleField x {} [o] = some o.slot := by
  have h := Option.isSome_iff_ne_none.mpr ht
  exact ⟨by simp [badBundle, h, hj], by simp [bundleField, h, hj]⟩

/-- Settles O11.  ALIGN is the transfer's own trap; in a delay bundle ILLSCHED is of a smaller class than ALIGN. -/
theorem transferFaults : Obligations.TransferFaults := by
  intro i a link s b hi hw hs x hon
  obtain ⟨hf, hk⟩ := slotOp_of_transfers hi
  have ho := resultOnly_of_slotOp hf hk rfl s.cur s
  have hh := loneHeader_of_resultSlot hk rfl
  have hj := jump_transferOp_of_enabled (link := link) hon
  refine ⟨fun hn hal hfit => ?_, fun hd => ?_⟩
  · have ht : (transferOp a link s.cur s).traps = [causeAt s s.cur .s .align (target x a).toNat] := by
      rw [traps_transferOp, hon, bne_iff_ne.mpr hal]
      rfl
    have hi := issueTrap_of_fits_of_traps hs ho rfl (Nat.zero_le _) (fun h => by rw [hn] at h; cases h)
      (by rw [lands_transferOp_of_enabled hon]; exact hfit) apart_transferOp ht
    rw [exec_traps hs hw hf hk hh rfl hi, bundleTrap_unwalked hs.thawed (show TrapCode.align ∉ walkedCodes by decide) rfl]
  · obtain ⟨hb, hfield⟩ := badBundle_of_delay (x := s.ctx s.cur) hd (o := transferOp a link s.cur s) (by rw [hj]; rfl)
    have hi : issueTrap s.cur {} [transferOp a link s.cur s] s = some (Cause.plain .illsched (some .s) x.pc x.arch.cc 0) := by
      unfold issueTrap
      simp only [List.flatMap_cons, List.flatMap_nil, hb, hfield, traps_transferOp, ho.plain, ho.slot, if_true,
        inDrain_resultSlot (s.ctx s.cur) (o := transferOp a link s.cur s) rfl, Bool.false_and, Bool.or_false, trapIf_false,
        List.append_nil]
      unfold trapIf
      split <;> rfl
    rw [exec_traps hs hw hf hk hh rfl hi, bundleTrap_unwalked hs.thawed (show TrapCode.illsched ∉ walkedCodes by decide) rfl]

/-! ### Hardware loops -/

theorem modArch_congr {s : State} {c : Nat} {f g : Arch → Arch} (h : f (s.ctx c).arch = g (s.ctx c).arch) :
    s.modArch c f = s.modArch c g := by
  simp only [State.modArch, State.modCtx, h]

/-- The loop stack that `loop` leaves (R89). -/
theorem applyOp_opLoop (a : SArgs) (s : State) : applyOp s.cur s (opLoop a s.cur s) = s.modArch s.cur fun r =>
    { r with loops := if enabledS (s.ctx s.cur).arch a.pred a.neg = false then (s.ctx s.cur).arch.loops
      else loopStack (s.ctx s.cur).arch.loops ((s.ctx s.cur).pc + 64) (srcN (s.ctx s.cur).arch a a.a) } := by
  unfold applyOp opLoop
  by_cases h : enabledS (s.ctx s.cur).arch a.pred a.neg = true
  · simp only [h, if_true, modArch_modArch]
    exact modArch_congr (by simp)
  · exact (if_neg h).trans (modArch_congr (by simp [h]))

theorem loopStack_eq (l : List LoopEntry) (start n : Nat) :
    loopStack l start n = if n = 0 then l.tail else { start := start, remaining := n } :: l := by
  rw [loopStack, List.drop_one]

/-- Settles O13.  The effect at issue is on the loop stack; a fifth entry is the operation's own ILLSCHED. -/
theorem loop : Obligations.Loop := by
  intro a s b hw hs hfit x n on l
  have ho := resultOnly_of_slotOp (i := .loop a) rfl rfl rfl s.cur s
  have ht : (opLoop a s.cur s).traps = trapIf (on && n != 0 && x.arch.loops.length == 4) s s.cur .s .illsched := by
    unfold n
    rw [arg_toNat]
    rfl
  refine ⟨fun hno => ?_, fun hon hn hlen => ?_⟩
  · have ht : (opLoop a s.cur s).traps = [] := by
      rw [ht]
      have : (on && n != 0 && x.arch.loops.length == 4) = false := by
        simpa [and_assoc, Classical.or_iff_not_imp_left] using hno
      rw [this]
      rfl
    obtain ⟨t, he, hE⟩ := exec_ends (i := .loop a) hs hw rfl rfl rfl rfl
      (issueTrap_of_fits hs ho rfl (Nat.zero_le _) (fun _ => rfl) hfit apart_nil ht) rfl
    refine ⟨t, he, ?_⟩
    rw [applyOp_opLoop, ← arg_toNat, loopStack_eq] at hE
    exact hE
  · refine (exec_eq_issueAlone rfl rfl s).trans (issueAlone_illsched (f := opLoop a) hs hw rfl rfl rfl ?_)
    rw [ht, hon, hlen, bne_iff_ne.mpr hn]
    rfl

/-- The trap at issue of a bundle that is only the end of a loop (R58, R90). -/
theorem issueTrap_lend {s : State} {c : Nat} (ht : (s.ctx c).arch.target = none)
    (hn : ((s.ctx c).arch.wtb.filter (·.load)).length ≤ Config.landingMax) (he : (s.ctx c).withheld.length ≤ Config.withholdMax) :
    issueTrap c { lend := true } [] s = if (s.ctx c).arch.loops.isEmpty then
      some (Cause.plain .illsched none (s.ctx c).pc (s.ctx c).arch.cc 0) else none := by
  have h1 : ¬64 < ((s.ctx c).arch.wtb.filter (·.load)).length := Nat.not_lt.mpr hn
  have h2 : ¬256 < (s.ctx c).withheld.length := Nat.not_lt.mpr he
  have hb : badBundle (s.ctx c) { lend := true } [] = (s.ctx c).arch.loops.isEmpty := by
    simp [badBundle, ht, h1, h2, writesOf, collision]
  unfold issueTrap
  simp only [List.flatMap_nil, List.nil_append, hb]
  cases h : (s.ctx c).arch.loops.isEmpty
  · rfl
  · simp [bundleField, h, chooseIssue]

/-- The end of a bundle that is only the end of a loop moves the context by `advance` (R90). -/
theorem finishBundle_lend {s : State} {c : Nat} : ((finishBundle c { lend := true } [] s).ctx c).pc =
      (advance { lend := true } none (s.ctx c).pc (s.ctx c).arch).1 ∧
    ((finishBundle c { lend := true } [] s).ctx c).arch = (advance { lend := true } none (s.ctx c).pc (s.ctx c).arch).2 := by
  obtain ⟨⟨p, q, hx⟩, -⟩ := ((count_counted s c evBundle 1).trans (count_counted _ c evCycle 1)).trans (countDeferred_counted _ c)
  unfold finishBundle
  simp only [List.foldl_nil, List.map_nil, firstSome, State.modCtx_ctx_self, hx, and_self]

/-- Settles O14.  The bundle has no operation, so that only its header can be at fault, and its end follows the loop stack. -/
theorem loopBack : Obligations.LoopBack := by
  intro s c b hrun hfr htgt hn he t
  have hi := issueTrap_lend htgt hn he
  have hnext : (s.ctx c).arch.loops.isEmpty = false → t = finishBundle c { lend := true } [] s := by
    intro h
    rw [h] at hi
    simp only [t, issueBundle, metState, List.map_nil, firstSome, Bool.false_eq_true, if_false, hi, endFreeze_thawed hfr,
      List.foldl_nil]
  obtain ⟨hpc, harch⟩ := finishBundle_lend (s := s) (c := c)
  refine ⟨fun e r hl hr => ?_, fun e r hl hr => ?_, fun hl => ?_⟩
  · rw [hnext (by simp [hl]), hpc, harch]
    simp [advance, hl, endLoop, hr, htgt]
  · rw [hnext (by simp [hl]), hpc, harch]
    simp [advance, hl, endLoop, Nat.not_lt.mpr hr, htgt]
  · rw [hl] at hi
    simp only [t, issueBundle, metState, List.map_nil, firstSome, Bool.false_eq_true, if_false, List.isEmpty_nil, if_true, hi]
    exact bundleTrap_of_form hfr rfl (by simp [Cause.plain]) rfl

/-! ### Control registers -/

theorem supOf_cur {s : State} {b : Bead} (hs : CanIssue s b) : supOf s s.cur = b.sup := by
  simp [supOf, hs.runs]

theorem getcPriv_eq_false {s : State} {b : Bead} {n : Nat} (hs : CanIssue s b) (h : n = 0x0F0 → b.sup = true) :
    getcPriv s s.cur n = false := by
  rw [getcPriv, supOf_cur hs]
  by_cases hn : n = 0x0F0
  · simp [h hn]
  · simp [hn]

theorem setcPriv_iff {s : State} {b : Bead} {n : Nat} (hs : CanIssue s b) : setcPriv s s.cur n = true ↔
    readOnlyRegister n ∨ ((jobRegister n ∨ n = 0x0F0) ∧ b.sup = false) := by
  simp [setcPriv, supOf_cur hs, isReadOnly, isJobRegister, readOnlyRegister, jobRegister]

/-- Settles O15.  The value is read at issue; only LENERGY has an effect at issue, on the count of free values. -/
theorem controlRead : Obligations.ControlRead := by
  intro a s b hw hs hp l hfit
  have ho := resultOnly_of_slotOp (i := .getc a) rfl rfl rfl s.cur s
  have hl : (opGetc a s.cur s).lands = l := scalarResult_eq_scalarLands rfl
  have ht : (opGetc a s.cur s).traps = [] :=
    congrArg (fun p => trapIf p s s.cur .s .priv) (getcPriv_eq_false hs hp)
  obtain ⟨t, he, hE⟩ := exec_ends (i := .getc a) hs hw rfl rfl rfl rfl
    (issueTrap_of_fits hs ho rfl (Nat.zero_le _) (fun _ => rfl) (by rw [hl]; exact hfit) (by rw [hl]; exact apart_scalarLands _ _ _) ht)
    rfl
  refine ⟨t, he, ?_⟩
  have happly : applyOp s.cur s (opGetc a s.cur s) = (opGetc a s.cur s).act (land s s.cur .s l) := by
    rw [← hl]
    rfl
  have hact (u : State) : (opGetc a s.cur s).act u =
      if cregNo a = 0x058 ∧ enabledS (s.ctx s.cur).arch a.pred a.neg = true then { u with free := u.free + 1 } else u := by
    simp [opGetc]
  rw [happly, hact] at hE
  exact hE

theorem apart_singleton (r : Result) : Apart [r] := List.pairwise_singleton _ r

/-- What `setc` lands: its value with the job of its register (R91). -/
theorem lands_opSetc (a : SArgs) (s : State) : (opSetc a s.cur s).lands =
    if enabledS (s.ctx s.cur).arch a.pred a.neg then [landLatch (.creg (a.imm.extractLsb' 0 12)) 1
      (BitVec.ofNat 1024 ((srcS (s.ctx s.cur).arch a a.a).toNat + controlJob s s.cur * 2 ^ 64))] else [] := rfl

theorem apart_opSetc (a : SArgs) (s : State) : Apart (opSetc a s.cur s).lands := by
  rw [lands_opSetc]
  split
  · exact apart_singleton _
  · exact apart_nil

/-- Settles O16.  A register that the bead may write raises no PRIV, so that `setc` only reads and lands. -/
theorem controlWrite : Obligations.ControlWrite := by
  intro a s b hw hs hro hj
  have hp : setcPriv s s.cur (cregNo a) = false := by
    rw [← Bool.not_eq_true, setcPriv_iff hs]
    rintro (h | ⟨h, hsup⟩)
    · exact hro h
    · rw [hj h] at hsup
      cases hsup
  refine completes_of_lands (i := .setc a) hs hw rfl rfl rfl (by decide) (lands_opSetc a s ▸ apart_opSetc a s) ?_
  exact congrArg (fun p => ({ slot := .s, reads := readsS a [a.a], traps := trapIf p s s.cur .s .priv,
                              lands := (opSetc a s.cur s).lands } : Op)) hp

/-- A control register collides with nothing (R53). -/
theorem fits_opSetc {a : SArgs} {s : State} (h : NoEarlyRead (s.ctx s.cur).arch (readsS a [a.a])) :
    Fits s (opSetc a s.cur s).reads (opSetc a s.cur s).lands := by
  refine ⟨fun l _ w hw hc => ?_, h⟩
  rw [lands_opSetc] at hw
  split at hw
  · rw [List.mem_singleton.mp hw] at hc
    cases hc
  · cases hw

/-- Settles O17.  The trap stands whatever the predicate, and the write of a control register collides with nothing. -/
theorem controlWritePrivilege : Obligations.ControlWritePrivilege := by
  intro a s b hw hs he hp
  have ho := resultOnly_of_slotOp (i := .setc a) rfl rfl rfl s.cur s
  have ht : (opSetc a s.cur s).traps = [causeAt s s.cur .s .priv 0] :=
    congrArg (fun p => trapIf p s s.cur .s .priv) ((setcPriv_iff hs).mpr hp)
  have hi := issueTrap_of_fits_of_traps hs ho rfl (Nat.zero_le _) (fun _ => rfl) (fits_opSetc he) (apart_opSetc a s) ht
  rw [exec_traps (i := .setc a) (f := opSetc a) hs hw rfl rfl rfl rfl hi, bundleTrap_unwalked hs.thawed (show TrapCode.priv ∉ walkedCodes by decide) rfl]

end Sys2Proof.ScalarControl
end

section
/-! SUPPORT. Lanes as functions of their number: the sources, the enables and the results of the vector slots; the integer and
floating-point lanes, and the lanes of the crossbar (R92 to R102, R106, R110). -/
namespace Sys2Proof.VectorLanes
open Sys2Proof Sys2Proof.Machine Sys2Proof.Claims Sys2Proof.Crossbar Sys2Proof.ScalarInteger Sys2Proof.ScalarFloat

/-! ### Rows of lanes -/

/-- The lanes `x` of `n` that are on. -/
def laneRow (n : Nat) (on : Nat → Bool) (x : Nat → Nat × Flags) : List LaneResult :=
  (List.range n).map fun j => if on j then some (x j) else none

theorem eq_map_range {α : Type} {l : List α} {n : Nat} (h : l.length = n) (d : α) : l = (List.range n).map fun j => l.getD j d := by
  subst h
  refine List.ext_getElem (by simp) fun j h1 h2 => ?_
  rw [List.getElem_map, List.getElem_range, List.getD_eq_getElem _ _ h1]

theorem map1_enables {r : Arch} {a : VArgs} {s n : Nat} {x : List Nat} (hx : x.length = n) (f : Nat → Nat × Flags) :
    map1 (enables r a s n) x f = laneRow n (enabledLane r a s) fun j => f (x.getD j 0) := by
  rw [map1, enables, eq_map_range hx 0, List.zipWith_map, List.zipWith_self]
  refine List.map_congr_left fun j hj => ?_
  simp [List.mem_range.mp hj]

theorem map2_enables {r : Arch} {a : VArgs} {s n : Nat} {x y : List Nat} (hx : x.length = n) (hy : y.length = n)
    (f : Nat → Nat → Nat × Flags) :
    map2 (enables r a s n) x y f = laneRow n (enabledLane r a s) fun j => f (x.getD j 0) (y.getD j 0) := by
  rw [map2, enables, eq_map_range hx 0, eq_map_range hy 0, List.zip_map', List.zipWith_map, List.zipWith_self]
  refine List.map_congr_left fun j hj => ?_
  simp [List.mem_range.mp hj]

theorem map3_enables {r : Arch} {a : VArgs} {s n : Nat} {x y z : List Nat} (hx : x.length = n) (hy : y.length = n)
    (hz : z.length = n) (f : Nat → Nat → Nat → Nat × Flags) :
    map3 (enables r a s n) x y z f = laneRow n (enabledLane r a s) fun j => f (x.getD j 0) (y.getD j 0) (z.getD j 0) := by
  rw [map3, enables, eq_map_range hx 0, eq_map_range hy 0, eq_map_range hz 0, List.zip_map', List.zip_map', List.zipWith_map,
    List.zipWith_self]
  refine List.map_congr_left fun j hj => ?_
  simp [List.mem_range.mp hj]

theorem length_srcLanes (r : Arch) (a : VArgs) (t : ETy) (n : Nat) (q : Port) : (srcLanes r a t n q).length = n := by
  unfold srcLanes
  split <;> simp only [List.length_replicate, List.length_map, splitLanes, List.length_range]

theorem usedBits_le (t : ETy) : usedBits t ≤ t.bits := by
  cases t <;> decide

theorem width_ffmt {t : ETy} (h : t.isFp = true) : (ffmt t).width = t.bits ∧ 0 < (ffmt t).p := by
  cases t with
  | f16 | bf16 | f32 => decide
  | _ => cases h

theorem encodeInt_lt (n : Nat) (v : Int) : encodeInt n v < 2 ^ n := by
  have hp : (0 : Int) < 2 ^ n := Int.pow_pos (by decide)
  have h1 := Int.emod_lt_of_pos v hp
  have h2 := Int.emod_nonneg v hp.ne'
  unfold encodeInt
  zify
  rwa [Int.toNat_of_nonneg h2]

/-- A constant lane fits in its element (R94). -/
theorem constLane_lt (t : ETy) (v : Int) : constLane t v < 2 ^ t.bits := by
  unfold constLane
  split
  · rename_i h
    obtain ⟨hw, hp⟩ := width_ffmt h
    rw [← hw, ← two_mul_signBit]
    exact packF_lt hp _ _
  · exact (encodeInt_lt _ _).trans_le (Nat.pow_le_pow_right Nat.two_pos (usedBits_le t))

/-- Every lane of a source fits in its element (R94). -/
theorem srcLanes_getD_lt (r : Arch) (a : VArgs) (t : ETy) (n : Nat) (q : Port) (j : Nat) :
    (srcLanes r a t n q).getD j 0 < 2 ^ t.bits := by
  have hmod (x : Nat) : x % 2 ^ usedBits t < 2 ^ t.bits :=
    (Nat.mod_lt _ (Nat.two_pow_pos _)).trans_le (Nat.pow_le_pow_right Nat.two_pos (usedBits_le t))
  have hall : ∀ x ∈ srcLanes r a t n q, x < 2 ^ t.bits := by
    intro x hx
    unfold srcLanes at hx
    split at hx
    · rw [List.eq_of_mem_replicate hx]
      exact hmod _
    · rw [List.eq_of_mem_replicate hx]
      exact constLane_lt t _
    · rw [List.eq_of_mem_replicate hx]
      exact constLane_lt t _
    all_goals
      obtain ⟨y, -, rfl⟩ := List.mem_map.mp hx
      exact hmod y
  rcases Nat.lt_or_ge j (srcLanes r a t n q).length with h | h
  · rw [List.getD_eq_getElem _ _ h]
    exact hall _ (List.getElem_mem h)
  · rw [List.getD_eq_default _ _ h]
    exact Nat.two_pow_pos _

theorem laneNat_lt (r : Arch) (a : VArgs) (q : Port) (j : Nat) : laneNat r a q j < 2 ^ a.ety.bits := srcLanes_getD_lt _ _ _ _ _ _

theorem lanes1_eq (r : Arch) (a : VArgs) (f : Nat → Nat × Flags) : lanes1 r a f =
    laneRow (widthV a / a.ety.bits) (enabledLane r a a.ety.bits) fun j => f (laneNat r a a.a j) :=
  map1_enables (length_srcLanes _ _ _ _ _) f

theorem lanes2_eq (r : Arch) (a : VArgs) (f : Nat → Nat → Nat × Flags) : lanes2 r a f =
    laneRow (widthV a / a.ety.bits) (enabledLane r a a.ety.bits) fun j => f (laneNat r a a.a j) (laneNat r a a.b j) :=
  map2_enables (length_srcLanes _ _ _ _ _) (length_srcLanes _ _ _ _ _) f

theorem lanes3_eq (r : Arch) (a : VArgs) (f : Nat → Nat → Nat → Nat × Flags) : lanes3 r a f =
    laneRow (widthV a / a.ety.bits) (enabledLane r a a.ety.bits) fun j =>
      f (laneNat r a a.a j) (laneNat r a a.b j) (laneNat r a a.c j) :=
  map3_enables (length_srcLanes _ _ _ _ _) (length_srcLanes _ _ _ _ _) (length_srcLanes _ _ _ _ _) f

/-! ### What a row lands (R93, R95, R96) -/

theorem laneFlags_append (k l : List LaneResult) : laneFlags (k ++ l) = l.foldl (fun f x => match x with
    | some (_, g) => f ||| g
    | none => f) (laneFlags k) := List.foldl_append

theorem laneFlags_laneRow (on : Nat → Bool) (x : Nat → Nat × Flags) : (n : Nat) →
    laneFlags (laneRow n on x) = allFlags on (fun j => (x j).2) n
  | 0 => rfl
  | n + 1 => by
    have h : laneRow (n + 1) on x = laneRow n on x ++ [if on n then some (x n) else none] := by
      rw [laneRow, List.range_succ, List.map_append]
      rfl
    rw [h, laneFlags_append, laneFlags_laneRow on x n, allFlags]
    cases on n
    · exact (BitVec.or_zero).symm
    · rfl

/-- The value that a row of lanes of `s` bits lands. -/
def rowValue (s n : Nat) (on : Nat → Bool) (x : Nat → Nat) : VReg :=
  BitVec.ofNat 1024 (joinLanes s ((List.range n).map fun j => if on j then x j else 0))

theorem laneValues_laneRow (n : Nat) (on : Nat → Bool) (x : Nat → Nat × Flags) :
    laneValues (laneRow n on x) = (List.range n).map fun j => if on j then (x j).1 else 0 := by
  rw [laneValues, laneRow, List.map_map]
  refine List.map_congr_left fun j _ => ?_
  cases h : on j <;> simp [h]

theorem laneMask_laneRow (s n : Nat) (on : Nat → Bool) (x : Nat → Nat × Flags) :
    BitVec.ofNat 1024 (laneMask s (laneRow n on x)) = rowValue s n on fun _ => 2 ^ s - 1 := by
  rw [laneMask, laneRow, List.map_map, rowValue]
  refine congrArg (fun l => BitVec.ofNat 1024 (joinLanes s l)) (List.map_congr_left fun j _ => ?_)
  cases h : on j <;> simp [h]

/-- What the results of a row are (R93, R95, R96, R98). -/
theorem vectorResult_laneRow (a : VArgs) (lat s : Nat) (latch : Bool) (n : Nat) (on : Nat → Bool) (x : Nat → Nat × Flags) :
    vectorResult a lat s latch (laneRow n on x) =
      landPort a.dst lat (rowValue s n on fun j => (x j).1) (rowValue s n on fun _ => 2 ^ s - 1) ++
      (if latch then [landLatch (latchV a.unit) lat (rowValue s n on fun j => (x j).1)] else []) ++
      landFlags lat (allFlags on (fun j => (x j).2) n) := by
  rw [vectorResult, laneFlags_laneRow, laneMask_laneRow, laneValues_laneRow]
  rfl

section
variable {s n : Nat} (h : s * n ≤ 1024)
include h

theorem lane_rowValue (on : Nat → Bool) (x : Nat → Nat) {j : Nat} (hj : j < n) :
    lane (rowValue s n on x) s j = if on j then BitVec.ofNat s (x j) else 0 := by
  rw [rowValue, lane_joinLanes (by simpa using h), List.getD_eq_getElem _ _ (by simpa using hj), List.getElem_map, List.getElem_range]
  split <;> rfl

theorem getLsbD_rowValue (on : Nat → Bool) (x : Nat → Nat) {k : Nat} (hk : s * n ≤ k) : (rowValue s n on x).getLsbD k = false :=
  getLsbD_joinLanes_above (by simpa using h) (by simpa using hk)

theorem lane_rowMask (on : Nat → Bool) {j : Nat} (hj : j < n) :
    lane (rowValue s n on fun _ => 2 ^ s - 1) s j = if on j then BitVec.allOnes s else 0 := by
  rw [lane_rowValue h on _ hj, show BitVec.ofNat s (2 ^ s - 1) = BitVec.allOnes s by
    apply BitVec.eq_of_toNat_eq
    simp]

end

/-- A row of `n` lanes is the lanes of its function (R93, R95). -/
theorem lanesAre_row {w s n : Nat} (hw : s * n = w) (hn : w / s = n) (h : w ≤ 1024) (on : Nat → Bool) (x : Nat → Nat) :
    LanesAre w s on x (rowValue s n on x) (rowValue s n on fun _ => 2 ^ s - 1) := by
  subst hw
  refine ⟨fun j hj => lane_rowValue h on x (hn ▸ hj), fun j hj => lane_rowMask h on (hn ▸ hj),
    fun k hk => ⟨getLsbD_rowValue h on x hk, getLsbD_rowValue h on _ hk⟩⟩

/-! ### Widths -/

theorem bits_dvd_widthV (a : VArgs) : a.ety.bits ∣ widthV a := by
  refine Dvd.dvd.mul_right ?_ _
  cases a.ety <;> decide

theorem mul_lanes (a : VArgs) : a.ety.bits * (widthV a / a.ety.bits) = widthV a := Nat.mul_div_cancel' (bits_dvd_widthV a)

theorem widthV_le {a : VArgs} (h : a.width ≠ 3) : widthV a ≤ 1024 := by
  have hw : a.width.toNat ≠ 3 := fun e => h (BitVec.eq_of_toNat_eq e)
  have hl : a.width.toNat ≤ 2 := by
    have := a.width.isLt
    omega
  have : 2 ^ a.width.toNat ≤ 2 ^ 2 := Nat.pow_le_pow_right (by decide) hl
  unfold widthV
  omega

/-! ### Integer lanes (R97, R102) -/

/-- The function of two numbers that an operation computes in a lane is that of its table on bit vectors. -/
def ComputesLanes (a : VArgs) (f : Nat → Nat → Nat) (g : (N : Nat) → BitVec N → BitVec N → BitVec N) : Prop :=
  ∀ x y : BitVec a.ety.bits, f x.toNat y.toNat % 2 ^ a.ety.bits = (g a.ety.bits x y).toNat

theorem ival_toNat (a : VArgs) (x : BitVec a.ety.bits) : ival a x.toNat = laneInt a x := by
  unfold ival decodeInt laneInt
  rw [Nat.mod_eq_of_lt x.isLt]
  exact ite_congr rfl (fun _ => sgn_toNat x) fun _ => rfl

theorem encodeInt_mod (n : Nat) (v : Int) : encodeInt n v % 2 ^ n = (BitVec.ofInt n v).toNat := by
  rw [Nat.mod_eq_of_lt (encodeInt_lt n v)]
  exact enc_eq_toNat_ofInt v

theorem wrapOrClamp_mod (a : VArgs) (v : Int) : wrapOrClamp a v % 2 ^ a.ety.bits = (wrapOr a a.ety.bits v).toNat := by
  rw [wrapOrClamp, encodeInt_mod, wrapOr, clampInt, intMin, intMax]
  refine congrArg BitVec.toNat ?_
  split
  · cases a.ety.isI <;> rfl
  · rfl

theorem computesLanes_of_laneTwo {i : Instr} {a : VArgs} {g : (N : Nat) → BitVec N → BitVec N → BitVec N} {f : OpFn}
    (h : laneTwo i = some (a, g)) (hf : slotOp i = some f) (hw : wellFormed i = true) :
    ∃ F, f = vint2 a F ∧ ComputesLanes a F g := by
  cases i with
  | viadd b | visub b | vimul b =>
    cases h
    cases hf
    exact ⟨_, rfl, fun x y => by rw [wrapOrClamp_mod, ival_toNat, ival_toNat]⟩
  | vimulh b =>
    cases h
    cases hf
    exact ⟨_, rfl, fun x y => by rw [encodeInt_mod, ival_toNat, ival_toNat]⟩
  | vand b =>
    cases h
    cases hf
    exact ⟨_, rfl, and_value⟩
  | vor b =>
    cases h
    cases hf
    exact ⟨_, rfl, or_value⟩
  | vxor b =>
    cases h
    cases hf
    exact ⟨_, rfl, xor_value⟩
  | vshl b =>
    cases h
    cases hf
    exact ⟨_, rfl, fun x y => by rw [Nat.mod_mod, shl_value]⟩
  | vshr b =>
    cases h
    cases hf
    exact ⟨_, rfl, fun x y => shr_value x _⟩
  | vsar b =>
    cases h
    cases hf
    exact ⟨_, rfl, fun x y => sar_value x _⟩
  | vimin b =>
    cases h
    cases hf
    have hi : a.ety.isI = true := (Bool.and_eq_true_iff.mp hw).2
    refine ⟨_, rfl, fun x y => ?_⟩
    rw [ite_value, ival_toNat, ival_toNat, laneInt, laneInt, if_pos hi, if_pos hi]
    simp [BitVec.sle]
  | vimax b =>
    cases h
    cases hf
    have hi : a.ety.isI = true := (Bool.and_eq_true_iff.mp hw).2
    refine ⟨_, rfl, fun x y => ?_⟩
    rw [ite_value, ival_toNat, ival_toNat, laneInt, laneInt, if_pos hi, if_pos hi]
    simp [BitVec.sle]
  | viminn b =>
    cases h
    cases hf
    exact ⟨_, rfl, minn_value⟩
  | vimaxn b =>
    cases h
    cases hf
    exact ⟨_, rfl, maxn_value⟩
  | _ => cases h

theorem width_ne_of_wf {a : VArgs} (h : WF.v2 a = true) : a.width ≠ 3 := by
  intro e
  simp [WF.v2, WF.width, e] at h

theorem width_ne_of_laneTwo {i : Instr} {a : VArgs} {g : (N : Nat) → BitVec N → BitVec N → BitVec N}
    (h : laneTwo i = some (a, g)) (hw : wellFormed i = true) : a.width ≠ 3 := by
  cases i with
  | viadd b | visub b | vimul b | vimulh b | vand b | vor b | vxor b | vshl b | vshr b | vsar b | vimin b | vimax b | viminn b
  | vimaxn b =>
    cases h
    refine width_ne_of_wf ?_
    simp only [wellFormed, WF.vi2s, WF.vi2, Bool.and_eq_true] at hw
    simp only [hw]
  | _ => cases h

theorem allFlags_zero (on : Nat → Bool) : (n : Nat) → allFlags on (fun _ => 0) n = 0
  | 0 => rfl
  | n + 1 => by
    rw [allFlags, allFlags_zero on n, ite_self]
    rfl

/-- What an integer lane operation lands (R98, R102). -/
theorem lands_vint2 (a : VArgs) (F : Nat → Nat → Nat) (c : Nat) (s : State) : (vint2 a F c s).lands =
    let r := (s.ctx c).arch
    let v := rowValue a.ety.bits (widthV a / a.ety.bits) (enabledLane r a a.ety.bits) fun j => F (laneNat r a a.a j) (laneNat r a a.b j)
    landPort a.dst 2 v (rowValue a.ety.bits (widthV a / a.ety.bits) (enabledLane r a a.ety.bits) fun _ => 2 ^ a.ety.bits - 1) ++
      [landLatch (latchV a.unit) 2 v] := by
  change vectorResult a 2 a.ety.bits true (lanes2 (s.ctx c).arch a fun x y => (F x y, 0)) = _
  rw [lanes2_eq, vectorResult_laneRow, allFlags_zero, if_pos rfl, show landFlags 2 0 = [] from rfl, List.append_nil]

/-- Settles O19.  Each lane's number is that of its table on bit vectors, and the row puts it in its place. -/
theorem vectorIntegerLanes : Obligations.VectorIntegerLanes := by
  intro i a f g s hi hf hw
  obtain ⟨F, rfl, hF⟩ := computesLanes_of_laneTwo hi hf hw
  obtain ⟨hv, hm, hz⟩ := lanesAre_row (mul_lanes a) rfl (widthV_le (width_ne_of_laneTwo hi hw))
    (enabledLane (s.ctx s.cur).arch a a.ety.bits)
    fun j => F (laneNat (s.ctx s.cur).arch a a.a j) (laneNat (s.ctx s.cur).arch a a.b j)
  refine ⟨_, _, lands_vint2 a F s.cur s, fun j hj => (hv j hj).trans ?_, hm, hz⟩
  congr 1
  apply BitVec.eq_of_toNat_eq
  have hl (q : Port) : laneNat (s.ctx s.cur).arch a q j = (laneOf (s.ctx s.cur).arch a q j).toNat :=
    (BitVec.toNat_ofNat _ _).trans (Nat.mod_eq_of_lt (laneNat_lt _ _ _ _)) |>.symm
  rw [BitVec.toNat_ofNat]
  beta_reduce
  rw [hl, hl]
  exact hF _ _

/-! ### Floating-point lanes (R99, R101, R106) -/

/-- What an operation lands whose lanes are the function `f` of three sources. -/
def LandsFloat (a : VArgs) (lat : Nat) (latch : Bool) (f : Nat → Nat → Nat → Nat × Flags) (r : Arch) (l : List Result) : Prop :=
  l = vectorResult a lat a.ety.bits latch (laneRow (widthV a / a.ety.bits) (enabledLane r a a.ety.bits) fun j =>
    f (laneNat r a a.a j) (laneNat r a a.b j) (laneNat r a a.c j))

theorem laneRow_congr {n : Nat} {on : Nat → Bool} {x y : Nat → Nat × Flags} (h : ∀ j, x j = y j) : laneRow n on x = laneRow n on y :=
  congrArg _ (funext h)

section
variable {a : VArgs} {lat c : Nat} {latch : Bool} {f : Nat → Nat → Nat → Nat × Flags} {s : State} {g : OpFn}

theorem landsFloat_vec1 {F : Arch → Nat → Nat × Flags} (hg : g = vec1 a lat latch F)
    (h : ∀ j, F (s.ctx c).arch (laneNat (s.ctx c).arch a a.a j) = f (laneNat (s.ctx c).arch a a.a j)
      (laneNat (s.ctx c).arch a a.b j) (laneNat (s.ctx c).arch a a.c j)) : LandsFloat a lat latch f (s.ctx c).arch (g c s).lands := by
  subst hg
  change vectorResult a lat a.ety.bits latch (lanes1 _ a (F (s.ctx c).arch)) = _
  rw [lanes1_eq, laneRow_congr h]

theorem landsFloat_vec2 {F : Arch → Nat → Nat → Nat × Flags} (hg : g = vec2 a lat latch F)
    (h : ∀ x y z, F (s.ctx c).arch x y = f x y z) : LandsFloat a lat latch f (s.ctx c).arch (g c s).lands := by
  subst hg
  change vectorResult a lat a.ety.bits latch (lanes2 _ a (F (s.ctx c).arch)) = _
  rw [lanes2_eq, laneRow_congr fun j => h _ _ _]

theorem landsFloat_vec3 {F : Arch → Nat → Nat → Nat → Nat × Flags} (hg : g = vec3 a lat latch F)
    (h : ∀ x y z, F (s.ctx c).arch x y z = f x y z) : LandsFloat a lat latch f (s.ctx c).arch (g c s).lands := by
  subst hg
  change vectorResult a lat a.ety.bits latch (lanes3 _ a (F (s.ctx c).arch)) = _
  rw [lanes3_eq, laneRow_congr fun j => h _ _ _]

end

theorem landsFloat_of_laneFloat {i : Instr} {a : VArgs} {lat : Nat} {q : Bool} {f : Nat → Nat → Nat → Nat × Flags} {g : OpFn}
    {s : State} (h : laneFloat (s.ctx s.cur).arch i = some (a, lat, q, f)) (hg : slotOp i = some g) (hw : wellFormed i = true) :
    LandsFloat a lat q f (s.ctx s.cur).arch (g s.cur s).lands := by
  cases i with
  | vadd b | vsub b | vmul b | vmin b | vmax b | vdiv b =>
    cases h
    cases hg
    exact landsFloat_vec2 rfl fun _ _ _ => rfl
  | vfma b | vfnma b =>
    cases h
    cases hg
    exact landsFloat_vec3 rfl fun _ _ _ => rfl
  | vclass b | vsqrt b | vrsqrt b | vrcp b | vexp2 b | vlog2 b | vtanh b | vsigm b =>
    cases h
    cases hg
    exact landsFloat_vec1 rfl fun _ => rfl
  | vabs b =>
    cases h
    cases hg
    have hfp : a.ety.isFp = true := by
      simp only [wellFormed, WF.vf1, Bool.and_eq_true] at hw
      exact hw.1.2
    exact landsFloat_vec1 rfl fun j => by rw [absF_eq, (width_ffmt hfp).1]
  | vneg b =>
    cases h
    cases hg
    have hfp : a.ety.isFp = true := by
      simp only [wellFormed, WF.vf1, Bool.and_eq_true] at hw
      exact hw.1.2
    exact landsFloat_vec1 rfl fun j => by
      rw [negF_eq (by rw [(width_ffmt hfp).1]; exact laneNat_lt _ _ _ _), (width_ffmt hfp).1]
  | _ => cases h

theorem width_ne_of_laneFloat {i : Instr} {a : VArgs} {lat : Nat} {q : Bool} {f : Nat → Nat → Nat → Nat × Flags} {r : Arch}
    (h : laneFloat r i = some (a, lat, q, f)) (hw : wellFormed i = true) : a.width ≠ 3 := by
  intro e
  cases i with
  | vadd b | vsub b | vmul b | vmin b | vmax b | vdiv b | vfma b | vfnma b | vclass b | vsqrt b | vrsqrt b | vrcp b | vexp2 b
  | vlog2 b | vtanh b | vsigm b | vabs b | vneg b =>
    cases h
    simp [wellFormed, WF.vf2, WF.vf1, WF.vf3, WF.vsp1, WF.v2, WF.v1, WF.width, e] at hw
  | _ => cases h

/-- Settles O20.  Each operation lands the row of its scalar function, whose flags are those of the enabled lanes. -/
theorem vectorFloatLanes : Obligations.VectorFloatLanes := by
  intro i a lat q f g s hi hg hw
  have hl := landsFloat_of_laneFloat hi hg hw
  rw [LandsFloat, vectorResult_laneRow] at hl
  exact ⟨_, _, hl, lanesAre_row (mul_lanes a) rfl (widthV_le (width_ne_of_laneFloat hi hw)) _ _⟩

/-! ### The crossbar (R110) -/

theorem xwidth_le_two {a : XArgs} (h : WF.x a = true) : a.width.toNat ≤ 2 := by
  have hw : a.width ≠ 3 := by
    intro e
    simp [WF.x, e] at h
  have := a.width.isLt
  have : a.width.toNat ≠ 3 := fun e => hw (BitVec.eq_of_toNat_eq e)
  omega

theorem lanesX_eq (a : XArgs) : lanesX a = 2 ^ (a.width.toNat + 3) := by
  unfold lanesX widthX
  rw [Nat.pow_add]
  omega

/-- The operation makes lane `i` from lane `σ n i` of its source, which is one of its `n` lanes. -/
structure Permutes (a : XArgs) (σ : Nat → Nat → Nat) (g : List Nat → Nat → Nat → Nat) : Prop where
  lane : ∀ x i, i < lanesX a → g x (lanesX a) i = x.getD (σ (lanesX a) i) 0
  source : ∀ i, i < lanesX a → σ (lanesX a) i < lanesX a

theorem permutes_of_crossLane {i : Instr} {a : XArgs} {σ : Nat → Nat → Nat} (h : crossLane i = some (a, σ))
    (hw : wellFormed i = true) : WF.x a = true ∧ ∃ g, Permutes a σ g ∧ slotOp i = some (crossOp a g) ∧ slotOf i = some .x := by
  have hn := lanesX_eq a
  cases i with
  | xmov b =>
    cases h
    exact ⟨(Bool.and_eq_true_iff.mp hw).1, _, ⟨fun _ _ _ => rfl, fun _ h => h⟩, rfl, rfl⟩
  | xrot b =>
    cases h
    obtain ⟨hx, hi⟩ := Bool.and_eq_true_iff.mp hw
    have hi : a.idx.toNat < lanesX a := of_decide_eq_true hi
    exact ⟨hx, _, ⟨fun _ _ _ => by rw [Nat.mod_eq_of_lt hi], fun i h => Nat.mod_lt _ (by omega)⟩, rfl, rfl⟩
  | xshuf b =>
    cases h
    obtain ⟨hx, hi⟩ := Bool.and_eq_true_iff.mp hw
    have hi : 2 ^ a.idx.toNat < lanesX a := of_decide_eq_true hi
    exact ⟨hx, _, ⟨fun _ _ _ => rfl, fun i h => hn ▸ Nat.xor_lt_two_pow (hn ▸ h) (hn ▸ hi)⟩, rfl, rfl⟩
  | xbcast b =>
    cases h
    obtain ⟨hx, hi⟩ := Bool.and_eq_true_iff.mp hw
    have hi : a.idx.toNat < widthX a / 64 := of_decide_eq_true hi
    exact ⟨hx, _, ⟨fun _ _ _ => rfl, fun i h => by unfold lanesX; omega⟩, rfl, rfl⟩
  | xzip b =>
    cases h
    refine ⟨(Bool.and_eq_true_iff.mp hw).1, _, ⟨fun _ _ _ => ?_, fun i h => ?_⟩, rfl, rfl⟩
    · rw [Nat.add_comm]
    · rw [Nat.pow_succ] at hn
      split <;> omega
  | xunzip b =>
    cases h
    refine ⟨(Bool.and_eq_true_iff.mp hw).1, _, ⟨fun _ _ _ => rfl, fun i h => ?_⟩, rfl, rfl⟩
    rw [Nat.pow_succ] at hn
    split <;> omega
  | _ => cases h

/-- Settles O21.  The operation joins lanes of its source, each of which the source has. -/
theorem crossbarLanes : Obligations.CrossbarLanes := by
  intro i a σ s b hi hw hs
  obtain ⟨hx, g, hg, hf, hk⟩ := permutes_of_crossLane hi hw
  have hlen (l : List Nat) (h : l.length = lanesX a) : 32 * l.length ≤ 1024 ∧ 32 * l.length = widthX a := by
    rw [h, mul_lanesX]
    exact ⟨widthX_le (xwidth_le_two hx), rfl⟩
  obtain ⟨hle, heq⟩ := hlen ((List.range (lanesX a)).map
    (g (splitLanes 32 (lanesX a) (readVector (s.ctx s.cur).arch a.src)) (lanesX a))) (by simp)
  refine ⟨_, fun j (hj : j < lanesX a) => ?_, fun k hk => getLsbD_joinLanes_above hle (heq ▸ hk),
    completes_crossOp hs hw (Lone.exec_eq_issueAlone hf hk s) (Effects.loneHeader_of_resultSlot hk rfl) rfl⟩
  rw [lane_joinLanes hle, List.getD_eq_getElem _ _ (by simpa using hj), List.getElem_map, List.getElem_range, hg.lane _ _ hj,
    ofNat_splitLanes_getD _ (hg.source _ hj)]
  rfl

end Sys2Proof.VectorLanes
end

section
/-! SUPPORT. The other vector operations: compares, moves, conversions, scaling, reductions and signatures, and the issue of every
operation of the vector slots (R36, R55, R100 to R109). -/
namespace Sys2Proof.VectorRest
open Sys2Proof Sys2Proof.Machine Sys2Proof.Claims Sys2Proof.Crossbar Sys2Proof.ScalarInteger Sys2Proof.ScalarFloat

-- Many of this section's proofs are replayed at once otherwise, each on a stack of its own.
set_option Elab.async false
open Sys2Proof.VectorLanes Sys2Proof.Effects Sys2Proof.ScalarControl Sys2Proof.Lone

/-! ### Rows that other functions give -/

theorem laneRow_congr_below {n : Nat} {on : Nat → Bool} {x y : Nat → Nat × Flags} (h : ∀ j, j < n → x j = y j) :
    laneRow n on x = laneRow n on y :=
  List.map_congr_left fun j hj => by rw [h j (List.mem_range.mp hj)]

theorem allFlags_congr {on : Nat → Bool} {f g : Nat → Flags} : (n : Nat) → (∀ j, j < n → f j = g j) →
    allFlags on f n = allFlags on g n
  | 0, _ => rfl
  | n + 1, h => by
    rw [allFlags, allFlags, allFlags_congr n fun j hj => h j (by omega), h n (by omega)]

/-- What lands a row is the lanes of every function that agrees with the row's modulo the lane (R93, R95). -/
theorem laneLands_row {a : VArgs} (hw : a.width ≠ 3) (lat : Nat) (on : Nat → Bool) {x y : Nat → Nat × Flags}
    (h : ∀ j, j < widthV a / a.ety.bits → BitVec.ofNat a.ety.bits (y j).1 = BitVec.ofNat a.ety.bits (x j).1 ∧ (y j).2 = (x j).2) :
    LaneLands a lat on x (vectorResult a lat a.ety.bits true (laneRow (widthV a / a.ety.bits) on y)) := by
  obtain ⟨hv, hm, hz⟩ := lanesAre_row (mul_lanes a) rfl (widthV_le hw) on fun j => (y j).1
  refine ⟨_, _, vectorResult_laneRow a lat _ true _ on y |>.trans ?_, fun j hj => (hv j hj).trans ?_, hm, hz⟩
  · rw [allFlags_congr _ fun j hj => (h j hj).2]
    rfl
  · rw [(h j hj).1]

theorem laneLands_refl {a : VArgs} (hw : a.width ≠ 3) (lat : Nat) (on : Nat → Bool) (x : Nat → Nat × Flags) :
    LaneLands a lat on x (vectorResult a lat a.ety.bits true (laneRow (widthV a / a.ety.bits) on x)) :=
  laneLands_row hw lat on fun _ _ => ⟨rfl, rfl⟩

/-! ### Compares (R100, R103) -/

theorem map_laneRow (n k : Nat) (on : Nat → Bool) (t : Nat → Bool × Flags) :
    (laneRow n on fun j => ((t j).1.toNat, (t j).2)).map (fun x => x.map fun (u, f) => (u * (2 ^ k - 1), f)) =
      laneRow n on fun j => (if (t j).1 then 2 ^ k - 1 else 0, (t j).2) := by
  rw [laneRow, List.map_map]
  refine List.map_congr_left fun j _ => ?_
  cases h : on j <;> cases ht : (t j).1 <;> simp [h, ht]

/-- The spans of the lanes in a predicate are an eighth of the lanes (R95, R100). -/
theorem lanesAre_predicate {a : VArgs} (hw : a.width ≠ 3) (on : Nat → Bool) (x : Nat → Nat) :
    LanesAre (widthV a / 8) (a.ety.bits / 8) on x (rowValue (a.ety.bits / 8) (widthV a / a.ety.bits) on x)
      (rowValue (a.ety.bits / 8) (widthV a / a.ety.bits) on fun _ => 2 ^ (a.ety.bits / 8) - 1) := by
  have h8 : 8 ∣ a.ety.bits := by cases a.ety <;> decide
  have hpos : 0 < a.ety.bits := by cases a.ety <;> decide
  obtain ⟨k, hk⟩ := h8
  have hm := mul_lanes a
  have hk8 : a.ety.bits / 8 = k := by omega
  have hmul : a.ety.bits / 8 * (widthV a / a.ety.bits) = widthV a / 8 := by
    rw [hk8]
    rw [hk] at hm ⊢
    rw [Nat.mul_assoc] at hm
    omega
  have hle := widthV_le hw
  refine lanesAre_row hmul ?_ (by omega) on x
  rw [← hmul, Nat.mul_div_cancel_left _ (by omega)]

theorem compareLands_compareLanes {a : VArgs} (hw : a.width ≠ 3) (on : Nat → Bool) (t : Nat → Bool × Flags) :
    CompareLands a on t (compareLanes a a.ety.bits (laneRow (widthV a / a.ety.bits) on fun j => ((t j).1.toNat, (t j).2))) := by
  refine ⟨_, _, _, _, ?_, lanesAre_predicate hw on _, lanesAre_row (mul_lanes a) rfl (widthV_le hw) on _⟩
  unfold compareLanes
  rw [laneFlags_laneRow]
  simp only [map_laneRow, laneMask_laneRow, laneValues_laneRow]
  rfl

theorem vicmpOp_eq (a : VArgs) (g : Nat → Nat → Bool) : vicmpOp a g = vecCompare a fun x y => (g x y, 0) := rfl

/-- The operation compares two lanes by `g`. -/
theorem vecCompare_of_laneCompare {i : Instr} {a : VArgs} {g : Nat → Nat → Bool × Flags} {f : OpFn}
    (h : laneCompare i = some (a, g)) (hf : slotOp i = some f) (hw : wellFormed i = true) :
    a.width ≠ 3 ∧ ∃ F, f = vecCompare a F ∧ ∀ x y : BitVec a.ety.bits, F x.toNat y.toNat = g x.toNat y.toNat := by
  have hv (b : VArgs) (h : WF.v2 b = true) := width_ne_of_wf h
  cases i with
  | vcmpEq b | vcmpNe b | vcmpLt b | vcmpLe b | vcmpUn b =>
    cases h
    cases hf
    simp only [wellFormed, WF.vcmp, Bool.and_eq_true] at hw
    exact ⟨hv _ hw.1.1.1, _, rfl, fun _ _ => rfl⟩
  | vicmpEq b =>
    cases h
    cases hf
    simp only [wellFormed, WF.vicmp, Bool.and_eq_true] at hw
    exact ⟨hv _ hw.1.1.1, _, vicmpOp_eq a fun x y => x == y, fun _ _ => rfl⟩
  | vicmpNe b =>
    cases h
    cases hf
    simp only [wellFormed, WF.vicmp, Bool.and_eq_true] at hw
    refine ⟨hv _ hw.1.1.1, _, vicmpOp_eq a fun x y => x != y, fun x y => ?_⟩
    by_cases e : x.toNat = y.toNat <;> simp [e]
  | vicmpLtn b =>
    cases h
    cases hf
    simp only [wellFormed, WF.vicmp, Bool.and_eq_true] at hw
    exact ⟨hv _ hw.1.1.1.1, _, vicmpOp_eq a fun x y => decide (x < y), fun _ _ => rfl⟩
  | vicmpLen b =>
    cases h
    cases hf
    simp only [wellFormed, WF.vicmp, Bool.and_eq_true] at hw
    exact ⟨hv _ hw.1.1.1.1, _, vicmpOp_eq a fun x y => decide (x ≤ y), fun _ _ => rfl⟩
  | vicmpLt b =>
    cases h
    cases hf
    simp only [wellFormed, WF.vicmp, Bool.and_eq_true] at hw
    refine ⟨hv _ hw.1.1.1.1, _, vicmpOp_eq a fun x y => decide (ival a x < ival a y), fun x y => ?_⟩
    rw [ival_toNat, ival_toNat, laneInt, laneInt, if_pos hw.2, if_pos hw.2]
    beta_reduce
    rw [BitVec.ofNat_toNat, BitVec.ofNat_toNat, BitVec.setWidth_eq, BitVec.setWidth_eq]
    rfl
  | vicmpLe b =>
    cases h
    cases hf
    simp only [wellFormed, WF.vicmp, Bool.and_eq_true] at hw
    refine ⟨hv _ hw.1.1.1.1, _, vicmpOp_eq a fun x y => decide (ival a x ≤ ival a y), fun x y => ?_⟩
    rw [ival_toNat, ival_toNat, laneInt, laneInt, if_pos hw.2, if_pos hw.2]
    beta_reduce
    rw [BitVec.ofNat_toNat, BitVec.ofNat_toNat, BitVec.setWidth_eq, BitVec.setWidth_eq]
    rfl
  | _ => cases h

theorem toNat_laneNat (r : Arch) (a : VArgs) (q : Port) (j : Nat) :
    laneNat r a q j = (BitVec.ofNat a.ety.bits (laneNat r a q j)).toNat := by
  rw [BitVec.toNat_ofNat, Nat.mod_eq_of_lt (laneNat_lt _ _ _ _)]

theorem compareLands_of_laneCompare {i : Instr} {a : VArgs} {g : Nat → Nat → Bool × Flags} {f : OpFn} {s : State}
    (h : laneCompare i = some (a, g)) (hf : slotOp i = some f) (hw : wellFormed i = true) :
    let r := (s.ctx s.cur).arch
    CompareLands a (enabledLane r a a.ety.bits) (fun j => g (laneNat r a a.a j) (laneNat r a a.b j)) (f s.cur s).lands := by
  obtain ⟨hw, F, rfl, hF⟩ := vecCompare_of_laneCompare h hf hw
  intro r
  have hl : (vecCompare a F s.cur s).lands = compareLanes a a.ety.bits (laneRow (widthV a / a.ety.bits) (enabledLane r a a.ety.bits)
      fun j => ((g (laneNat r a a.a j) (laneNat r a a.b j)).1.toNat, (g (laneNat r a a.a j) (laneNat r a a.b j)).2)) := by
    change compareLanes a a.ety.bits (lanes2 r a fun x y => ((F x y).1.toNat, (F x y).2)) = _
    rw [lanes2_eq]
    refine congrArg _ (laneRow_congr fun j => ?_)
    rw [toNat_laneNat r a a.a j, toNat_laneNat r a a.b j, hF]
  rw [hl]
  exact compareLands_compareLanes hw _ fun j => g (laneNat r a a.a j) (laneNat r a a.b j)

/-! ### Moves, selection, conversion and scaling (R101, R104, R105, R108) -/

theorem sextNat_eq_toInt (n x : Nat) : sextNat n x = (BitVec.ofNat n x).toInt := by
  rw [← sgn_toNat (BitVec.ofNat n x), sgn, sextNat, sextNat, BitVec.toNat_ofNat, Nat.mod_mod]

theorem scaleLane_eq (f : FFmt) (md : Rm) (q x : Nat) : scaleLane f md q x = scaledLane f md (BitVec.ofNat 8 q).toInt x := by
  have hq : (BitVec.ofNat 8 q).toInt = -128 ↔ q % 256 = 128 := by
    rw [BitVec.toInt_eq_toNat_cond, BitVec.toNat_ofNat]
    have : q % 2 ^ 8 < 2 ^ 8 := Nat.mod_lt _ (by decide)
    split <;> omega
  unfold scaleLane scaledLane scaleExp
  rw [sextNat_eq_toInt]
  by_cases h : q % 256 = 128
  · rw [if_pos h, if_pos (hq.mpr h)]
    rfl
  · rw [if_neg h, if_neg (mt hq.mp h)]
    dsimp only
    cases decodeF f x <;> rfl

theorem vcvtLane_eq {t u : ETy} (md : Rm) {x : Nat} (hx : x < 2 ^ u.bits) : vcvtLane t u md x = convertedLane t u md x := by
  unfold vcvtLane convertedLane
  by_cases h : t.isInt = true ∧ u.isInt = true
  · have hd : decodeInt u.isI u.bits x = if u.isI = true then (BitVec.ofNat u.bits x).toInt else (x : Int) := by
      rw [decodeInt, sextNat_eq_toInt, Nat.mod_eq_of_lt hx]
    have hc (v : Int) : clampInt t.isI t.bits v =
        if t.isI = true then max (-2 ^ (t.bits - 1)) (min (2 ^ (t.bits - 1) - 1) v) else max 0 (min (2 ^ t.bits - 1) v) := by
      unfold clampInt intMin intMax
      cases t.isI <;> rfl
    rw [if_pos h, if_pos (by simp [h]), hd, hc]
    exact congrArg (fun n => (n, (0 : Flags))) (enc_eq_toNat_ofInt _)
  · rw [if_neg h, if_neg (by simpa using h)]

/-- The part of the result that a conversion fills, and where each lane comes from (R104). -/
theorem vcvtLanes_eq (r : Arch) (a : VArgs) (u : ETy) :
    let q := (a.imm.extractLsb' 4 3).toNat
    let n := widthV a / max a.ety.bits u.bits
    let from_ (i : Nat) := convertedLane a.ety u (modeOf r a.rnd) ((srcLanes r a u (widthV a / u.bits) a.a).getD i 0)
    vcvtLanes r a a.ety u = if u.bits ≤ a.ety.bits then
        laneRow (widthV a / a.ety.bits) (enabledLane r a a.ety.bits) fun j => from_ (q * n + j)
      else laneRow (widthV a / a.ety.bits)
        (fun j => decide (q * n ≤ j) && decide (j < q * n + n) && enabledLane r a a.ety.bits j) fun j => from_ (j - q * n) := by
  intro q n from_
  have hfrom (i : Nat) : vcvtLane a.ety u (modeOf r a.rnd) ((srcLanes r a u (lanesV a u.bits) a.a).getD i 0) = from_ i :=
    vcvtLane_eq _ (srcLanes_getD_lt _ _ _ _ _ _)
  unfold vcvtLanes
  simp only [hfrom]
  by_cases h : u.bits ≤ a.ety.bits
  · rw [if_pos h]
    refine List.map_congr_left fun j _ => ?_
    simp only [Nat.not_lt.mpr h, decide_false, Bool.false_and, Bool.false_or, if_false]
    cases enabledLane r a a.ety.bits j <;> rfl
  · rw [if_neg h]
    refine List.map_congr_left fun j _ => ?_
    simp only [Nat.not_le.mp h, decide_true, Bool.true_and, if_true]
    change (if ((decide (j < q * n) || decide (q * n + n ≤ j)) || !enabledLane r a a.ety.bits j) = true then none else _) =
      if (decide (q * n ≤ j) && decide (j < q * n + n) && enabledLane r a a.ety.bits j) = true then some _ else none
    have hb : (decide (q * n ≤ j) && decide (j < q * n + n) && enabledLane r a a.ety.bits j) =
        !((decide (j < q * n) || decide (q * n + n ≤ j)) || !enabledLane r a a.ety.bits j) := by
      rw [Bool.not_or, Bool.not_or, Bool.not_not, ← decide_not, ← decide_not, decide_eq_decide.mpr Nat.not_lt,
        decide_eq_decide.mpr Nat.not_le]
    rw [hb]
    cases (decide (j < q * n) || decide (q * n + n ≤ j)) || !enabledLane r a a.ety.bits j <;> rfl

theorem width_ne_of_laneValue {i : Instr} {a : VArgs} {lat : Nat} {on : Nat → Bool} {x : Nat → Nat × Flags} {r : Arch}
    (h : laneValue r i = some (a, lat, on, x)) (hw : wellFormed i = true) : a.width ≠ 3 := by
  intro e
  cases i with
  | vsel b | vmov b | vbcast b | viota b | vscale b =>
    cases h
    simp [wellFormed, WF.v2, WF.v1, WF.width, e] at hw
  | vcvt b =>
    have hb : b = a := by
      simp only [laneValue] at h
      split at h
      · cases h
      · split at h <;> cases h <;> rfl
    simp [wellFormed, WF.vcvt, WF.width, hb, e] at hw
  | _ => cases h

theorem laneLands_of_laneValue {i : Instr} {a : VArgs} {lat : Nat} {on : Nat → Bool} {x : Nat → Nat × Flags} {f : OpFn} {s : State}
    (h : laneValue (s.ctx s.cur).arch i = some (a, lat, on, x)) (hf : slotOp i = some f) (hw : wellFormed i = true) :
    LaneLands a lat on x (f s.cur s).lands := by
  have hwd := width_ne_of_laneValue h hw
  cases i with
  | vsel b =>
    cases h
    cases hf
    refine (congrArg (LaneLands a 2 _ _) ?_).mpr (laneLands_refl hwd 2 _ _)
    change vectorResult a 2 a.ety.bits true (List.zipWith _ (enables _ a a.ety.bits _) (List.zip (srcLanes _ a a.ety _ a.a)
      (srcLanes _ a a.ety _ a.b))) = _
    rw [enables, eq_map_range (length_srcLanes _ a a.ety _ a.a) 0, eq_map_range (length_srcLanes _ a a.ety _ a.b) 0, List.zip_map',
      List.zipWith_map, List.zipWith_self]
    rfl
  | vmov b =>
    cases h
    cases hf
    refine (congrArg (LaneLands a 2 _ _) ?_).mpr (laneLands_refl hwd 2 _ _)
    exact congrArg (vectorResult a 2 a.ety.bits true) (lanes1_eq _ a _)
  | vbcast b =>
    cases h
    cases hf
    refine (congrArg (LaneLands a 2 _ _) ?_).mpr (laneLands_refl hwd 2 _ _)
    refine congrArg (vectorResult a 2 a.ety.bits true) ((map1_enables List.length_replicate _).trans (laneRow_congr_below fun j hj => ?_))
    rw [List.getD_eq_getElem _ _ (by simpa using hj), List.getElem_replicate]
    rfl
  | viota b =>
    cases h
    cases hf
    refine (congrArg (LaneLands a 2 _ _) ?_).mpr (laneLands_row (y := fun j => ((laneNat (s.ctx s.cur).arch a a.a j + j) %
      2 ^ a.ety.bits, 0)) hwd 2 _ fun j _ => ⟨BitVec.eq_of_toNat_eq (by simp), rfl⟩)
    refine congrArg (vectorResult a 2 a.ety.bits true) ((map1_enables (by simp [length_srcLanes, lanesV]) _).trans
      (laneRow_congr_below fun j hj => ?_))
    rw [List.getD_eq_getElem _ _ (by simpa [length_srcLanes, lanesV] using hj), List.getElem_zipWith, List.getElem_range,
      ← List.getD_eq_getElem _ 0]
    rfl
  | vscale b =>
    cases h
    cases hf
    refine (congrArg (LaneLands a 4 _ _) ?_).mpr (laneLands_refl hwd 4 _ _)
    refine congrArg (vectorResult a 4 a.ety.bits true) ?_
    rw [enables, ← List.map_id (List.range (lanesV a a.ety.bits)), List.map_map, List.zipWith_map, List.zipWith_self]
    refine List.map_congr_left fun j _ => ?_
    simp only [scaleLane_eq]
    rfl
  | vcvt b =>
    cases hf
    simp only [laneValue] at h
    have hl : (opVcvt b s.cur s).lands = match ETy.ofCode (b.imm.extractLsb' 0 4) with
      | some u => vectorResult b 4 b.ety.bits true (vcvtLanes (s.ctx s.cur).arch b b.ety u)
      | none => [] := rfl
    cases hu : ETy.ofCode (b.imm.extractLsb' 0 4) with
    | none =>
      rw [hu] at h
      cases h
    | some u =>
      rw [hu] at h hl
      dsimp only at h hl
      rw [hl, vcvtLanes_eq]
      split at h
      · rename_i hle
        cases h
        rw [if_pos hle]
        exact laneLands_refl hwd 4 _ _
      · rename_i hle
        cases h
        rw [if_neg hle]
        exact laneLands_refl hwd 4 _ _
  | _ => cases h

/-! ### Reductions (R107) -/

/-- A node of a reduction's tree (R107). -/
def node (f : Nat → Nat → Nat × Flags) : Option Nat → Option Nat → Option Nat × Flags
  | some u, some v => (some (f u v).1, (f u v).2)
  | some u, none => (some u, 0)
  | none, v => (v, 0)

/-- Flags of `m` numbers, all together. -/
def unionFlags (F : Nat → Flags) (m : Nat) : Flags := ((List.range m).map F).foldr (· ||| ·) 0

theorem unionFlags_succ (F : Nat → Flags) (m : Nat) : unionFlags F (m + 1) = F 0 ||| unionFlags (fun i => F (i + 1)) m := by
  rw [unionFlags, List.range_succ_eq_map, List.map_cons, List.map_map, List.foldr_cons]
  rfl

theorem unionFlags_or (F G : Nat → Flags) (m : Nat) :
    unionFlags (fun i => F i ||| G i) m = unionFlags F m ||| unionFlags G m := by
  induction m generalizing F G with
  | zero => exact (BitVec.or_zero).symm
  | succ m ih =>
    rw [unionFlags_succ, unionFlags_succ F, unionFlags_succ G, ih]
    ac_rfl

theorem unionFlags_double (F : Nat → Flags) (m : Nat) :
    unionFlags F (2 * m) = unionFlags (fun i => F (2 * i) ||| F (2 * i + 1)) m := by
  induction m generalizing F with
  | zero => rfl
  | succ m ih =>
    rw [Nat.mul_succ, unionFlags_succ, unionFlags_succ, ih, unionFlags_succ, BitVec.or_assoc]
    rfl

theorem reduceLevel_cons (f : Nat → Nat → Nat × Flags) (x y : Option Nat) (r : List (Option Nat)) :
    reduceLevel f (x :: y :: r) = ((node f x y).1 :: (reduceLevel f r).1, (reduceLevel f r).2 ||| (node f x y).2) := by
  cases x with
  | none => cases y <;> simp [reduceLevel, node]
  | some u => cases y <;> simp [reduceLevel, node]

/-- A level of the tree combines the neighbours (R107). -/
theorem reduceLevel_pairs (f : Nat → Nat → Nat × Flags) (x : Nat → Option Nat) (m : Nat) :
    reduceLevel f ((List.range (2 * m)).map x) = ((List.range m).map fun i => (node f (x (2 * i)) (x (2 * i + 1))).1,
      unionFlags (fun i => (node f (x (2 * i)) (x (2 * i + 1))).2) m) := by
  induction m generalizing x with
  | zero => rfl
  | succ m ih =>
    have h : (List.range (2 * (m + 1))).map x = x 0 :: x 1 :: (List.range (2 * m)).map fun i => x (i + 2) := by
      rw [Nat.mul_succ, List.range_succ_eq_map, List.range_succ_eq_map]
      simp [List.map_map, Function.comp_def]
    rw [h, reduceLevel_cons, ih, unionFlags_succ, List.range_succ_eq_map, List.map_cons, List.map_map]
    simp only [Function.comp_def, Nat.mul_succ, Nat.mul_zero, Nat.zero_add, Nat.add_assoc, BitVec.or_comm]

theorem treeNode_succ (f : Nat → Nat → Nat × Flags) (x : Nat → Option Nat) (l i : Nat) : treeNode f x (l + 1) i =
    ((node f (treeNode f x l (2 * i)).1 (treeNode f x l (2 * i + 1)).1).1,
      ((treeNode f x l (2 * i)).2 ||| (treeNode f x l (2 * i + 1)).2) |||
        (node f (treeNode f x l (2 * i)).1 (treeNode f x l (2 * i + 1)).1).2) := by
  rw [treeNode]
  rcases treeNode f x l (2 * i) with ⟨_ | u, g⟩ <;> rcases treeNode f x l (2 * i + 1) with ⟨_ | v, h⟩ <;> simp [node]

/-- From level `l` on, the tree of the model reaches the root, with the flags of all its nodes (R107). -/
theorem reduceTree_level (f : Nat → Nat → Nat × Flags) (x : Nat → Option Nat) (fl : Flags) (k l : Nat) :
    reduceTree f k ((List.range (2 ^ k)).map fun i => (treeNode f x l i).1) (fl ||| unionFlags (fun i => (treeNode f x l i).2) (2 ^ k)) =
      ((treeNode f x (l + k) 0).1, fl ||| (treeNode f x (l + k) 0).2) := by
  induction k generalizing l with
  | zero => simp [reduceTree, unionFlags]
  | succ k ih =>
    rw [Nat.pow_succ', reduceTree, reduceLevel_pairs, unionFlags_double]
    dsimp only
    rw [BitVec.or_assoc, ← unionFlags_or, show l + (k + 1) = l + 1 + k by omega, ← ih (l + 1)]
    simp only [treeNode_succ]

theorem reduceTree_eq (f : Nat → Nat → Nat × Flags) (x : Nat → Option Nat) (fl : Flags) (k : Nat) :
    reduceTree f k ((List.range (2 ^ k)).map x) fl = ((treeNode f x k 0).1, fl ||| (treeNode f x k 0).2) := by
  have h := reduceTree_level f x fl k 0
  have h0 : ∀ m, unionFlags (fun i => (treeNode f x 0 i).2) m = 0 := by
    intro m
    induction m with
    | zero => rfl
    | succ m ih =>
      rw [unionFlags_succ]
      exact BitVec.zero_or.trans ih
  rw [h0, show fl ||| (0 : Flags) = fl from BitVec.or_zero, Nat.zero_add] at h
  exact h

/-- The lanes of an operation are a power of two (R92). -/
theorem lanes_eq_pow (a : VArgs) : widthV a / a.ety.bits = 2 ^ Nat.log2 (widthV a / a.ety.bits) := by
  have h : ∃ k, k ≤ 8 ∧ a.ety.bits = 2 ^ k := by
    cases a.ety with
    | i8 | n8 | ta8 | ta6 | sc8 => exact ⟨3, by decide, rfl⟩
    | i16 | n16 | f16 | bf16 => exact ⟨4, by decide, rfl⟩
    | i32 | n32 | f32 => exact ⟨5, by decide, rfl⟩
    | i64 | n64 => exact ⟨6, by decide, rfl⟩
  obtain ⟨k, hk, hb⟩ := h
  have : widthV a / a.ety.bits = 2 ^ (8 + a.width.toNat - k) := by
    rw [hb, widthV, show (256 : Nat) = 2 ^ 8 by rfl, ← Nat.pow_add, Nat.pow_div (by omega) (by decide)]
  rw [this, Nat.log2_two_pow]

/-- The functions of two lanes agree on what fits in a lane. -/
theorem treeNode_congr {f g : Nat → Nat → Nat × Flags} (h : ∀ x y, f x y = g x y) (x : Nat → Option Nat) (l i : Nat) :
    treeNode f x l i = treeNode g x l i := by
  rw [show f = g from funext fun x => funext (h x)]

theorem reductionLands_reduceOp (a : VArgs) (e : Nat) (F : Arch → Nat → Nat → Nat × Flags) (s : State) :
    ReductionLands (s.ctx s.cur).arch a e (F (s.ctx s.cur).arch) (reduceOp a e F s.cur s).lands := by
  let r := (s.ctx s.cur).arch
  let x (i : Nat) := if enabledLane r a a.ety.bits i then some (laneNat r a a.a i) else none
  have hl : List.zipWith (fun e x => if e = true then some x else none) (enables r a a.ety.bits (lanesV a a.ety.bits))
      (srcLanes r a a.ety (lanesV a a.ety.bits) a.a) = (List.range (widthV a / a.ety.bits)).map x := by
    rw [enables, eq_map_range (length_srcLanes r a a.ety _ a.a) 0, List.zipWith_map, List.zipWith_self]
    rfl
  have hs : signalling a ((List.range (widthV a / a.ety.bits)).map x) =
      if a.ety.isFp && (List.range (widthV a / a.ety.bits)).any fun i => match x i with
        | some v => (decodeF (ffmt a.ety) v).isSnan
        | none => false then Flags.nv else 0 := by
    rw [signalling, List.any_map]
    rfl
  have ht : reduceTree (F r) (Nat.log2 (lanesV a a.ety.bits)) ((List.range (widthV a / a.ety.bits)).map x)
      (signalling a ((List.range (widthV a / a.ety.bits)).map x)) =
      ((treeNode (F r) x (Nat.log2 (widthV a / a.ety.bits)) 0).1,
        (treeNode (F r) x (Nat.log2 (widthV a / a.ety.bits)) 0).2 ||| signalling a ((List.range (widthV a / a.ety.bits)).map x)) := by
    rw [BitVec.or_comm]
    exact (congrArg (fun n => reduceTree (F r) (Nat.log2 (lanesV a a.ety.bits)) ((List.range n).map x)
      (signalling a ((List.range (widthV a / a.ety.bits)).map x))) (lanes_eq_pow a)).trans (reduceTree_eq _ _ _ _)
  let root := treeNode (F r) x (Nat.log2 (widthV a / a.ety.bits)) 0
  let v := BitVec.ofNat 1024 (root.1.getD e)
  have hlands : (reduceOp a e F s.cur s).lands =
      landPort a.dst 4 v (BitVec.ofNat 1024 (if a.dst.isV then 2 ^ widthV a - 1 else 2 ^ 64 - 1)) ++
        [landLatch (latchV a.unit) 4 v] ++
        landFlags 4 (root.2 ||| signalling a ((List.range (widthV a / a.ety.bits)).map x)) := by
    simp only [reduceOp, vecOp]
    rw [hl, ht]
  rw [hs] at hlands
  exact hlands

theorem laneInt_ofNat (a : VArgs) (x : Nat) : laneInt a (BitVec.ofNat a.ety.bits x) = ival a x := by
  rw [laneInt, ival, decodeInt, sextNat_eq_toInt, BitVec.toNat_ofNat]

theorem toNat_wrapOr (a : VArgs) (v : Int) : (wrapOr a a.ety.bits v).toNat = wrapOrClamp a v := by
  rw [← wrapOrClamp_mod]
  exact Nat.mod_eq_of_lt (encodeInt_lt _ _)

/-- The smallest value of an element type (R107). -/
theorem extremeIdentity_max (a : VArgs) : extremeIdentity a true =
    if a.ety.isFp then 2 ^ (a.ety.bits - 1) + (ffmt a.ety).inf else if a.ety.isI then 2 ^ (a.ety.bits - 1) else 0 := by
  unfold extremeIdentity
  cases a.ety <;> rfl

/-- The largest value of an element type (R107). -/
theorem extremeIdentity_min (a : VArgs) : extremeIdentity a false =
    if a.ety.isFp then (ffmt a.ety).inf else if a.ety.isI then 2 ^ (a.ety.bits - 1) - 1 else 2 ^ a.ety.bits - 1 := by
  unfold extremeIdentity
  cases a.ety <;> rfl

theorem extremeLane_max (a : VArgs) : extremeLane a true = fun x y => if a.ety.isFp then minMaxF (ffmt a.ety) true x y
    else (if laneInt a (BitVec.ofNat a.ety.bits x) ≤ laneInt a (BitVec.ofNat a.ety.bits y) then y else x, 0) := by
  funext x y
  rw [extremeLane, laneInt_ofNat, laneInt_ofNat]
  by_cases h : ival a x ≤ ival a y <;> simp [h]

theorem extremeLane_min (a : VArgs) : extremeLane a false = fun x y => if a.ety.isFp then minMaxF (ffmt a.ety) false x y
    else (if laneInt a (BitVec.ofNat a.ety.bits x) ≤ laneInt a (BitVec.ofNat a.ety.bits y) then x else y, 0) := by
  funext x y
  rw [extremeLane, laneInt_ofNat, laneInt_ofNat]
  by_cases h : ival a x ≤ ival a y <;> simp [h]

theorem reductionLands_of_reduction {i : Instr} {a : VArgs} {e : Nat} {g : Nat → Nat → Nat × Flags} {f : OpFn} {s : State}
    (h : reduction (s.ctx s.cur).arch i = some (a, e, g)) (hf : slotOp i = some f) :
    ReductionLands (s.ctx s.cur).arch a e g (f s.cur s).lands := by
  cases i with
  | vsum b =>
    cases h
    cases hf
    simp only [laneInt_ofNat, toNat_wrapOr]
    exact reductionLands_reduceOp a 0 _ s
  | vrmax b =>
    cases h
    cases hf
    rw [← extremeIdentity_max, ← extremeLane_max]
    exact reductionLands_reduceOp a _ (fun _ => extremeLane a true) s
  | vrmin b =>
    cases h
    cases hf
    rw [← extremeIdentity_min, ← extremeLane_min]
    exact reductionLands_reduceOp a _ (fun _ => extremeLane a false) s
  | _ => cases h

/-! ### One lane, and signatures (R108, R109) -/

theorem wholeMask_eq (on : Bool) (n : Nat) : wholeMask on n = oneEnable on n := by
  cases on <;> rfl

theorem lane_set {s n k y j : Nat} {l : List Nat} (hl : l.length = n) (h : s * n ≤ 1024) (hj : j < n) :
    lane (BitVec.ofNat 1024 (joinLanes s (l.set k y))) s j = BitVec.ofNat s (if j = k then y else l.getD j 0) := by
  rw [lane_joinLanes (by rwa [List.length_set, hl]), List.getD_eq_getElem _ _ (by rwa [List.length_set, hl]), List.getElem_set,
    List.getD_eq_getElem _ _ (by rwa [hl])]
  simp only [eq_comm]

theorem singleLands_vins {a : VArgs} (hw : a.width ≠ 3) (s : State) :
    SingleLands s (s.ctx s.cur).arch (opVins a s.cur s).lands (.vins a) := by
  have hle : a.ety.bits * (widthV a / a.ety.bits) ≤ 1024 := by
    rw [mul_lanes]
    exact widthV_le hw
  refine ⟨_, ?_, fun j hj => lane_set (length_srcLanes (s.ctx s.cur).arch a a.ety (widthV a / a.ety.bits) a.dst) hle hj, fun j hj => ?_⟩
  · rw [← wholeMask_eq, ← wholeMask_eq]
    rfl
  · exact getLsbD_joinLanes_above (by rwa [List.length_set, length_srcLanes]) (by rwa [List.length_set, length_srcLanes, mul_lanes])

theorem getLsbD_eq_lane {v : VReg} (j : Nat) : v.getLsbD j = (lane v 1 j).getLsbD 0 := by
  simp [lane, -BitVec.getLsbD_eq_getElem]

theorem sign_bit {u : Nat} (h : u < 2 ^ 32) : (BitVec.ofNat 1 (1 - u / 2 ^ 31)).getLsbD 0 = !(BitVec.ofNat 32 u).msb := by
  rw [BitVec.msb_eq_decide, BitVec.toNat_ofNat, Nat.mod_eq_of_lt h]
  rcases Nat.lt_or_ge u (2 ^ 31) with hu | hu
  · rw [Nat.div_eq_of_lt hu]
    simp
    omega
  · have : u / 2 ^ 31 = 1 := by omega
    rw [this]
    simp
    omega

theorem singleLands_vsigFin (a : VArgs) (s : State) :
    SingleLands s (s.ctx s.cur).arch (opVsigFin a s.cur s).lands (.vsigFin a) := by
  refine ⟨_, by rw [← wholeMask_eq]; rfl, fun j _ => ?_⟩
  have hlen : (((srcLanes (s.ctx s.cur).arch a .f32 32 a.a).take 12).map fun u => 1 - u / 2 ^ 31).length = 12 := by
    simp [length_srcLanes]
  rcases Nat.lt_or_ge j 12 with hj | hj
  · have h32 : j < (srcLanes (s.ctx s.cur).arch a .f32 32 a.a).length := by
      rw [length_srcLanes]
      omega
    rw [getLsbD_eq_lane, lane_joinLanes (by rw [hlen]; decide), List.getD_eq_getElem _ _ (by rwa [hlen]), List.getElem_map,
      List.getElem_take, ← List.getD_eq_getElem _ 0 h32, sign_bit (srcLanes_getD_lt _ _ .f32 _ _ _)]
    simp [hj]
  · rw [getLsbD_joinLanes_above (by rw [hlen]; decide) (by rw [hlen]; omega)]
    simp [Nat.not_lt.mpr hj]

theorem allFlags_true (F : Nat → Nat × Flags) (n : Nat) :
    ((List.range n).map F).foldl (fun f x => f ||| x.2) 0 = allFlags (fun _ => true) (fun j => (F j).2) n := by
  induction n with
  | zero => rfl
  | succ n ih =>
    rw [List.range_succ, List.map_append, List.foldl_append, ih]
    rfl

theorem filterMap_enabled (n : Nat) (on : Nat → Bool) (x : Nat → FVal) (h : FVal → Nat → FVal) :
    ((List.range n).map fun i => (on i, x i, i)).filterMap (fun (e, v, i) => if e then some (h v i) else none) =
      ((List.range n).filter on).map fun i => h (x i) i := by
  rw [List.filterMap_map, ← List.filterMap_eq_map, ← List.filterMap_eq_filter, List.filterMap_filterMap]
  refine List.filterMap_congr fun i _ => ?_
  cases h : on i <;> simp [h, Option.guard]

/-- The enabled elements of a signature, with their numbers (R109). -/
theorem zip_enables (r : Arch) (a : VArgs) (n : Nat) (q : Port) :
    (enables r a a.ety.bits n).zip (((srcLanes r a a.ety n q).map (decodeF (ffmt a.ety))).zipIdx) =
      (List.range n).map fun i =>
        (enabledLane r a a.ety.bits i, decodeF (ffmt a.ety) ((srcLanes r a a.ety n q).getD i 0), i) := by
  have hz : ((srcLanes r a a.ety n q).map (decodeF (ffmt a.ety))).zipIdx =
      (List.range n).map fun i => (decodeF (ffmt a.ety) ((srcLanes r a a.ety n q).getD i 0), i) := by
    refine List.ext_getElem (by simp [length_srcLanes]) fun i h1 h2 => ?_
    have hi : i < (srcLanes r a a.ety n q).length := by simpa using h1
    rw [List.getElem_zipIdx, List.getElem_map, List.getElem_map, List.getElem_range, List.getD_eq_getElem _ _ hi, Nat.zero_add]
  rw [hz, enables, List.zip_map']

theorem singleLands_vsig (a : VArgs) (s : State) :
    SingleLands s (s.ctx s.cur).arch (opVsig a s.cur s).lands (.vsig a) := by
  let r := (s.ctx s.cur).arch
  let sums := (List.range 12).map (signatureSum s r a)
  have hsums : ((List.range 12).map fun j => sigSum (decodeF .f32 ((splitLanes 32 12 (readVector r a.c)).getD j 0) ::
      ((enables r a a.ety.bits (lanesV a a.ety.bits)).zip
        (((srcLanes r a a.ety (lanesV a a.ety.bits) a.a).map (decodeF (ffmt a.ety))).zipIdx)).filterMap fun (e, v, i) =>
          if e then some (if proj (predictor s s.cur ((readScalar r 0 a.b).toNat % 64)).seed
            (bitsOf (readScalar r 0 a.b).toNat 16 32 + i) j then v else v.negate) else none)) = sums := by
    refine List.map_congr_left fun j hj => ?_
    have hj : j < 12 := List.mem_range.mp hj
    rw [zip_enables, filterMap_enabled _ _ _ fun v i => if proj (predictor s s.cur ((readScalar r 0 a.b).toNat % 64)).seed
      (bitsOf (readScalar r 0 a.b).toNat 16 32 + i) j = true then v else v.negate]
    rw [splitLanes, List.getD_eq_getElem _ _ (by simpa using hj), List.getElem_map, List.getElem_range]
    rfl
  have hlen : (sums.map (·.1)).length = 12 := by simp [sums]
  have hlands : (opVsig a s.cur s).lands = landPort a.dst 4 (BitVec.ofNat 1024 (joinLanes 32 (sums.map (·.1)))) ++
      [landLatch (latchV a.unit) 4 (BitVec.ofNat 1024 (joinLanes 32 (sums.map (·.1))))] ++
      landFlags 4 (allFlags (fun _ => true) (fun j => (signatureSum s r a j).2) 12) := by
    rw [← allFlags_true, show (List.range 12).map (signatureSum s r a) = sums from rfl, ← hsums]
    rfl
  refine ⟨_, hlands, fun j _ => ?_⟩
  rw [lane_joinLanes (by rw [hlen]; decide)]
  split
  · rename_i hj
    rw [List.getD_eq_getElem _ _ (by rwa [hlen]), List.getElem_map, List.getElem_map, List.getElem_range]
  · rename_i hj
    rw [List.getD_eq_default _ _ (by rw [hlen]; omega)]
    rfl

theorem singleLands_of_slotOp {i : Instr} {f : OpFn} {s : State} (hf : slotOp i = some f) (hw : wellFormed i = true) :
    SingleLands s (s.ctx s.cur).arch (f s.cur s).lands i := by
  cases i with
  | vlane a =>
    cases hf
    exact congrArg (fun m => landPort a.dst 2 _ m ++ [landLatch (latchV a.unit) 2 _ m]) (wholeMask_eq _ 1024)
  | vins a =>
    cases hf
    refine singleLands_vins ?_ s
    intro e
    simp [wellFormed, WF.v2, WF.width, e] at hw
  | vsigFin a =>
    cases hf
    exact singleLands_vsigFin a s
  | vsig a =>
    cases hf
    exact singleLands_vsig a s
  | _ => trivial

theorem vectorLands_of_slotOp {i : Instr} {f : OpFn} {s : State} (hf : slotOp i = some f) (hw : wellFormed i = true) :
    VectorLands s i (f s.cur s).lands :=
  ⟨fun _ _ h => compareLands_of_laneCompare h hf hw, fun _ _ _ _ h => laneLands_of_laneValue h hf hw,
    fun _ _ _ h => reductionLands_of_reduction h hf, singleLands_of_slotOp hf hw⟩

/-! ### The issue of a vector operation (R36, R55, R58) -/

theorem latchV_latch (u : VUnit) : latchV u = .iq ∨ latchV u = .fq ∨ latchV u = .aq ∨ latchV u = .bq ∨ latchV u = .xq := by
  cases u <;> simp [latchV]

/-- A destination, the unit's latch and flags are three places (R37). -/
theorem apart_unit (q : Port) (u : VUnit) (lat : Nat) (v m w n : VReg) (fl : Flags) :
    Apart (landPort q lat v m ++ [landLatch (latchV u) lat w n] ++ landFlags lat fl) :=
  apart_result q (latchV u) lat v w m n fl (latchV_latch u)

theorem apart_unit_plain (q : Port) (u : VUnit) (lat : Nat) (v m w n : VReg) :
    Apart (landPort q lat v m ++ [landLatch (latchV u) lat w n]) := by
  have h := apart_unit q u lat v m w n 0
  rwa [show landFlags lat 0 = [] from rfl, List.append_nil] at h

theorem apart_vectorResult (a : VArgs) (lat s : Nat) (latch : Bool) (l : List LaneResult) : Apart (vectorResult a lat s latch l) := by
  unfold vectorResult
  refine List.Pairwise.sublist ?_ (apart_unit a.dst a.unit lat (BitVec.ofNat 1024 (joinLanes s (laneValues l)))
    (BitVec.ofNat 1024 (laneMask s l)) (BitVec.ofNat 1024 (joinLanes s (laneValues l))) (BitVec.allOnes 1024) (laneFlags l))
  refine List.Sublist.append (List.Sublist.append (List.Sublist.refl _) ?_) (List.Sublist.refl _)
  cases latch
  · exact List.nil_sublist _
  · exact List.Sublist.refl _

theorem apart_compareLanes (a : VArgs) (s : Nat) (l : List LaneResult) : Apart (compareLanes a s l) := by
  unfold compareLanes
  dsimp only
  split <;> exact apart_unit _ _ _ _ _ _ _ _

/-- What an operation of a vector slot is at issue (R36, R55). -/
structure IsVector (a : VArgs) (c : Nat) (o : Op) : Prop where
  width : a.width ≠ 3
  groups : o.groups = 2 ^ a.width.toNat
  traps : o.traps = []
  waits : o.waits = none
  jump : o.jump = none
  apart : Apart o.lands
  act : ∀ u : State, o.act u = if o.rq then u.modArch c popRandom else u

section
variable {a : VArgs} {c : Nat} {s : State} {f : OpFn} (hw : a.width ≠ 3)
include hw

theorem isVector_vecOp {l : List Port} {r : Arch → List Result} (hf : f = vecOp a l r) (hl : Apart (r (s.ctx c).arch)) :
    IsVector a c (f c s) := by
  subst hf
  exact ⟨hw, rfl, rfl, rfl, rfl, hl, fun _ => rfl⟩

theorem isVector_vec1 {n : Nat} {q : Bool} {g : Arch → Nat → Nat × Flags} (hf : f = vec1 a n q g) : IsVector a c (f c s) :=
  isVector_vecOp hw (hf.trans rfl) (apart_vectorResult _ _ _ _ _)

theorem isVector_vec2 {n : Nat} {q : Bool} {g : Arch → Nat → Nat → Nat × Flags} (hf : f = vec2 a n q g) : IsVector a c (f c s) :=
  isVector_vecOp hw (hf.trans rfl) (apart_vectorResult _ _ _ _ _)

theorem isVector_vec3 {n : Nat} {q : Bool} {g : Arch → Nat → Nat → Nat → Nat × Flags} (hf : f = vec3 a n q g) :
    IsVector a c (f c s) :=
  isVector_vecOp hw (hf.trans rfl) (apart_vectorResult _ _ _ _ _)

theorem isVector_vecCompare {g : Nat → Nat → Bool × Flags} (hf : f = vecCompare a g) : IsVector a c (f c s) :=
  isVector_vecOp hw (hf.trans rfl) (apart_compareLanes _ _ _)

theorem isVector_vint2 {g : Nat → Nat → Nat} (hf : f = vint2 a g) : IsVector a c (f c s) := isVector_vec2 hw (hf.trans rfl)

theorem isVector_vicmpOp {g : Nat → Nat → Bool} (hf : f = vicmpOp a g) : IsVector a c (f c s) :=
  isVector_vecCompare hw (hf.trans rfl)

theorem isVector_reduceOp {e : Nat} {g : Arch → Nat → Nat → Nat × Flags} (hf : f = reduceOp a e g) : IsVector a c (f c s) :=
  isVector_vecOp hw (hf.trans rfl) (apart_unit _ _ _ _ _ _ _ _)

theorem isVector_opVsig (hb : boundHere s c ((readScalar (s.ctx c).arch 0 a.b).toNat % 64) = true) : IsVector a c (opVsig a c s) := by
  refine ⟨hw, rfl, ?_, rfl, rfl, apart_unit _ _ _ _ _ _ _ _, fun _ => rfl⟩
  exact congrArg (fun p => trapIf (!p) s c (slotV a.unit) .perm) hb

end

theorem apart_opVcvt (a : VArgs) (r : Arch) : Apart (match ETy.ofCode (a.imm.extractLsb' 0 4) with
    | some u => vectorResult a 4 a.ety.bits true (vcvtLanes r a a.ety u)
    | none => []) := by
  split
  · exact apart_vectorResult _ _ _ _ _
  · exact apart_nil

theorem isVector_of_slotOp {i : Instr} {f : OpFn} {k : Slot} {s : State} (hf : slotOp i = some f) (hk : slotOf i = some k)
    (hv : k = .va ∨ k = .vb) (hw : wellFormed i = true)
    (hb : ∀ a, i = .vsig a → boundHere s s.cur ((readScalar (s.ctx s.cur).arch 0 a.b).toNat % 64) = true) :
    ∃ a, IsVector a s.cur (f s.cur s) := by
  cases i with
  | vabs a | vneg a | vclass a | vsqrt a | vrsqrt a | vrcp a | vexp2 a | vlog2 a | vtanh a | vsigm a | vmov a =>
    cases hf
    refine ⟨a, isVector_vec1 (fun e => ?_) rfl⟩
    simp [wellFormed, WF.vf1, WF.vsp1, WF.v1, WF.width, e] at hw
  | vadd a | vsub a | vmul a | vmin a | vmax a | vdiv a =>
    cases hf
    refine ⟨a, isVector_vec2 (fun e => ?_) rfl⟩
    simp [wellFormed, WF.vf2, WF.v2, WF.width, e] at hw
  | vfma a | vfnma a =>
    cases hf
    refine ⟨a, isVector_vec3 (fun e => ?_) rfl⟩
    simp [wellFormed, WF.vf3, WF.width, e] at hw
  | vcmpEq a | vcmpNe a | vcmpLt a | vcmpLe a | vcmpUn a =>
    cases hf
    refine ⟨a, isVector_vecCompare (fun e => ?_) rfl⟩
    simp [wellFormed, WF.vcmp, WF.v2, WF.width, e] at hw
  | viadd a | visub a | vimul a | vimulh a | vand a | vor a | vxor a | vshl a | vshr a | vsar a | vimin a
  | vimax a | viminn a | vimaxn a =>
    cases hf
    refine ⟨a, isVector_vint2 (fun e => ?_) rfl⟩
    simp [wellFormed, WF.vi2s, WF.vi2, WF.v2, WF.width, e] at hw
  | vicmpEq a | vicmpNe a | vicmpLt a | vicmpLe a | vicmpLtn a | vicmpLen a =>
    cases hf
    refine ⟨a, isVector_vicmpOp (fun e => ?_) rfl⟩
    simp [wellFormed, WF.vicmp, WF.v2, WF.width, e] at hw
  | vsum a | vrmax a | vrmin a =>
    cases hf
    refine ⟨a, isVector_reduceOp (fun e => ?_) rfl⟩
    simp [wellFormed, WF.vred, WF.v1, WF.width, e] at hw
  | vsel a | vscale a | vbcast a | viota a =>
    cases hf
    refine ⟨a, isVector_vecOp (fun e => ?_) rfl (apart_vectorResult _ _ _ _ _)⟩
    simp [wellFormed, WF.v2, WF.v1, WF.width, e] at hw
  | vcvt a =>
    cases hf
    refine ⟨a, isVector_vecOp (fun e => ?_) rfl (apart_opVcvt a _)⟩
    simp [wellFormed, WF.vcvt, WF.width, e] at hw
  | vlane a | vins a | vsigFin a =>
    cases hf
    refine ⟨a, isVector_vecOp (fun e => ?_) rfl (apart_unit_plain _ _ _ _ _ _ _)⟩
    simp [wellFormed, WF.v2, WF.width, e] at hw
  | vsig a =>
    cases hf
    refine ⟨a, isVector_opVsig (fun e => ?_) (hb a rfl)⟩
    simp [wellFormed, WF.width, e] at hw
  | _ => cases hk <;> simp at hv

theorem IsVector.groups_le {a : VArgs} {c : Nat} {o : Op} (h : IsVector a c o) : o.groups ≤ 6 := by
  have hw : a.width.toNat ≠ 3 := fun e => h.width (BitVec.eq_of_toNat_eq e)
  have hl : a.width.toNat ≤ 2 := by
    have := a.width.isLt
    omega
  have : 2 ^ a.width.toNat ≤ 2 ^ 2 := Nat.pow_le_pow_right (by decide) hl
  rw [h.groups]
  omega

/-- Settles O18.  The values are those of the rows, trees and sums above; the issue is that of a lone operation whose results fit. -/
theorem vectorOperations : Obligations.VectorOperations := by
  intro i f k s b hf hk hv hw hs hb hfit
  have hr : resultSlot k = true := by rcases hv with rfl | rfl <;> rfl
  have ho := resultOnly_of_slotOp hf hk hr s.cur s
  obtain ⟨a, ha⟩ := isVector_of_slotOp hf hk hv hw hb
  refine ⟨vectorLands_of_slotOp hf hw, ?_⟩
  obtain ⟨t, he, hE⟩ := exec_ends hs hw hf hk (loneHeader_of_resultSlot hk hr) ha.waits
    (issueTrap_of_fits hs ho hr ha.groups_le (fun _ => ha.jump) hfit ha.apart ha.traps) ho.leave
  refine ⟨t, he, ?_⟩
  have happly : applyOp s.cur s (f s.cur s) = vectorEffect s k (f s.cur s) := by
    rw [applyOp, ha.act, ho.slot]
    rfl
  rw [ha.jump, happly] at hE
  exact hE

end Sys2Proof.VectorRest
end

section
/-! SUPPORT. The layout of a trap record, words of the spec's examples, and the state after reset (R30, R327, R340, R394). -/
namespace Sys2Proof.Layout
open Sys2Proof Sys2Proof.Machine Sys2Proof.Claims

/-! ### Fields that are packed one above the other -/

/-- Fields, each a value with its width, the lowest first. -/
def packFields : List (Nat × Nat) → Nat
  | [] => 0
  | (v, w) :: r => v + 2 ^ w * packFields r

/-- Bits that stand above a field are those of the rest. -/
theorem bitsOf_above {v w : Nat} (h : v < 2 ^ w) (x lo n : Nat) : bitsOf (v + 2 ^ w * x) (w + lo) n = bitsOf x lo n := by
  unfold bitsOf
  rw [Nat.pow_add, ← Nat.div_div_eq_div_mul, Nat.add_mul_div_left _ _ (Nat.two_pow_pos w), Nat.div_eq_of_lt h, Nat.zero_add]

/-- Field `i` of packed fields stands above the widths of those before it. -/
theorem bitsOf_packFields : (l : List (Nat × Nat)) → (∀ f ∈ l, f.1 < 2 ^ f.2) → (i : Nat) → (hi : i < l.length) →
    bitsOf (packFields l) ((l.take i).map (·.2)).sum l[i].2 = l[i].1
  | (v, w) :: r, h, 0, _ => by
    have hv : v < 2 ^ w := h (v, w) (by simp)
    simp [packFields, bitsOf, Nat.mod_eq_of_lt hv]
  | (v, w) :: r, h, i + 1, hi => by
    have hv : v < 2 ^ w := h (v, w) (by simp)
    have ih := bitsOf_packFields r (fun f hf => h f (by simp [hf])) i (by simpa using hi)
    simpa [packFields, bitsOf_above hv] using ih

/-- The fields of a trap record, with those of its load or zeros (R340). -/
def recordFields (x : Cause) (resume launch index : Nat) : List (Nat × Nat) :=
  [(x.pc % 2 ^ 64, 64), (resume % 2 ^ 64, 64), (x.cc % 2 ^ 32, 32), (0, 15), (x.aflags.toNat, 5), (slotCode x.slot, 4),
    (x.code.num, 8), (x.addr % 2 ^ 64, 64), ((x.load.map fun l => l.pc % 2 ^ 64).getD 0, 64), (x.row % 2 ^ 16, 16), (0, 36),
    ((x.load.map fun l => l.code.num).getD 0, 8), ((x.load.map fun l => l.slot.index).getD 0, 4), (index % 2 ^ 32, 32),
    (launch % 2 ^ 32, 32), (x.log % 2 ^ 64, 64)]

theorem trapRecord_eq (x : Cause) (resume launch index : Nat) :
    trapRecord x resume launch index = packFields (recordFields x resume launch index) := by
  have h (n : Nat) : (2 : Nat) ^ (256 + n) = 2 ^ 256 * 2 ^ n := Nat.pow_add 2 256 n
  unfold trapRecord recordFields
  rw [h 64, h 128, h 192]
  cases x.load with
  | none =>
    simp only [packFields, Option.map_none, Option.getD_none]
    ring
  | some l =>
    simp only [packFields, Option.map_some, Option.getD_some]
    ring

theorem index_lt (k : Slot) : k.index < 2 ^ 4 := by
  cases k <;> decide

theorem num_lt (k : TrapCode) : k.num < 2 ^ 8 := by
  cases k <;> decide

theorem slotCode_lt (k : Option Slot) : slotCode k < 2 ^ 4 := by
  cases k with
  | none => decide
  | some k => exact index_lt k

theorem recordFields_lt (x : Cause) (resume launch index : Nat) : ∀ f ∈ recordFields x resume launch index, f.1 < 2 ^ f.2 := by
  have hmod (v w : Nat) : v % 2 ^ w < 2 ^ w := Nat.mod_lt _ (Nat.two_pow_pos w)
  have hpc : (x.load.map fun l => l.pc % 2 ^ 64).getD 0 < 2 ^ 64 := by
    cases x.load with
    | none => decide
    | some l => exact hmod _ _
  have hcode : (x.load.map fun l => l.code.num).getD 0 < 2 ^ 8 := by
    cases x.load with
    | none => decide
    | some l => exact num_lt _
  have hslot : (x.load.map fun l => l.slot.index).getD 0 < 2 ^ 4 := by
    cases x.load with
    | none => decide
    | some l => exact index_lt _
  simp only [recordFields, List.forall_mem_cons, List.not_mem_nil, false_implies, implies_true, and_true]
  exact ⟨hmod _ _, hmod _ _, hmod _ _, by decide, x.aflags.isLt, slotCode_lt _, num_lt _, hmod _ _, hpc, hmod _ _, by decide,
    hcode, hslot, hmod _ _, hmod _ _, hmod _ _⟩

/-- Two fields beside each other that are both zero. -/
theorem bitsOf_append_zero {x lo m n : Nat} (h : bitsOf x lo m = 0) (g : bitsOf x (lo + m) n = 0) : bitsOf x lo (m + n) = 0 := by
  unfold bitsOf at h g ⊢
  rw [Nat.pow_add, ← Nat.div_div_eq_div_mul] at g
  rw [Nat.pow_add, Nat.mod_mul, h, g, Nat.mul_zero]

/-- A field of the record, by its place in the table and its lowest bit (R340). -/
theorem bitsOf_record {x : Cause} {resume launch index : Nat} (i lo w v : Nat)
    (h : (recordFields x resume launch index)[i]? = some (v, w))
    (hlo : (((recordFields x resume launch index).take i).map (·.2)).sum = lo) :
    bitsOf (Machine.trapRecord x resume launch index) lo w = v := by
  obtain ⟨hi, he⟩ := List.getElem?_eq_some_iff.mp h
  have hf := bitsOf_packFields _ (recordFields_lt x resume launch index) i hi
  rwa [← trapRecord_eq, hlo, he] at hf

/-- Settles O54.  The record is its fields packed in the order of the table. -/
theorem trapRecord : Obligations.TrapRecord := by
  intro x resume launch index r
  have hpc := bitsOf_record (x := x) (resume := resume) (launch := launch) (index := index) 8 256 64 _ rfl (by simp [recordFields])
  have hcode := bitsOf_record (x := x) (resume := resume) (launch := launch) (index := index) 11 372 8 _ rfl (by simp [recordFields])
  have hslot := bitsOf_record (x := x) (resume := resume) (launch := launch) (index := index) 12 380 4 _ rfl (by simp [recordFields])
  refine ⟨bitsOf_record 0 0 64 _ rfl (by simp [recordFields]), bitsOf_record 1 64 64 _ rfl (by simp [recordFields]), bitsOf_record 2 128 32 _ rfl (by simp [recordFields]),
    bitsOf_record 3 160 15 _ rfl (by simp [recordFields]), bitsOf_record 4 175 5 _ rfl (by simp [recordFields]), bitsOf_record 5 180 4 _ rfl (by simp [recordFields]),
    bitsOf_record 6 184 8 _ rfl (by simp [recordFields]), bitsOf_record 7 192 64 _ rfl (by simp [recordFields]), bitsOf_record 9 320 16 _ rfl (by simp [recordFields]),
    bitsOf_record 10 336 36 _ rfl (by simp [recordFields]), fun l hl => ?_, fun hl => ?_, bitsOf_record 13 384 32 _ rfl (by simp [recordFields]),
    bitsOf_record 14 416 32 _ rfl (by simp [recordFields]), bitsOf_record 15 448 64 _ rfl (by simp [recordFields])⟩
  · rw [hl] at hpc hcode hslot
    exact ⟨hpc, hcode, hslot⟩
  · rw [hl] at hpc hcode hslot
    exact ⟨hpc, bitsOf_append_zero (m := 8) hcode hslot⟩

/-! ### Words, and the state after reset -/

/-- Settles O57.  Each word is closed, and the decoder computes its operation. -/
theorem wordsDecode : Obligations.WordsDecode := by
  unfold Obligations.WordsDecode
  decide +kernel

/-- Settles O60.  Reset lists no entry of any table, so that each reads as its reset value. -/
theorem resetState : Obligations.ResetState :=
  ⟨fun _ => rfl, fun _ => show Queue.en Queue.reset = false by decide, fun _ => rfl, fun _ _ => rfl, rfl, rfl, rfl⟩

end Sys2Proof.Layout
end

section
/-! SUPPORT. What completes an operation with an effect at issue that nothing forbids (R43, R58). -/
namespace Sys2Proof.Acting
open Sys2Proof Sys2Proof.Machine Sys2Proof.Claims Sys2Proof.Lone Sys2Proof.Effects

/-- What every operation but a transfer, a result and one that leaves its context keeps: it lands no result, takes no lane group, and its
landing-part entries wait for distinct places. -/
structure Modest (o : Op) : Prop where
  lands : o.lands = []
  jump : o.jump = none
  groups : o.groups = 0
  stays : o.leaves = false
  plain : o.needsCkpt = false
  leave : o.leave = id
  apart : o.loads.Pairwise fun u v => u.1 ≠ v.1

/-- An operation that starts no load. -/
theorem modest_of_eq {o : Op} (h1 : o.lands = []) (h2 : o.jump = none) (h3 : o.groups = 0) (h4 : o.leaves = false)
    (h5 : o.needsCkpt = false) (h6 : o.leave = id) (h7 : o.loads = []) : Modest o :=
  ⟨h1, h2, h3, h4, h5, h6, by rw [h7]; exact .nil⟩

theorem modest_ite {p : Prop} [Decidable p] {o u : Op} (ho : Modest o) (hu : Modest u) : Modest (if p then o else u) := by
  split
  · exact ho
  · exact hu

theorem land_nil_ctx (s : State) (c : Nat) (k : Slot) (d : Nat) : (land s c k []).ctx d = s.ctx d := by
  by_cases h : d = c
  · subst h
    simp [land]
  · exact State.modCtx_ctx_ne s _ h

section
variable {s : State} {o : Op} (ha : Allowed s o) (hm : Modest o)
include ha hm

/-- The landing-part entries of an allowed operation meet no other write (R53). -/
theorem noCollision_of_allowed : collision ((s.ctx s.cur).arch.wtb.map fun l => (l.dest, l.due))
    (writesOf (s.ctx s.cur).arch.cc [o]) = false := by
  refine noCollision_false ha.apart ?_
  have hw : writesOf (s.ctx s.cur).arch.cc [o] = o.loads.map fun w => (w.1, (s.ctx s.cur).arch.cc + w.2) := by
    simp [writesOf, hm.lands]
  rw [hw, List.pairwise_map]
  refine hm.apart.imp ?_
  intro u v h _ he
  exact h (Prod.ext_iff.mp he).1

theorem badBundle_of_allowed : badBundle (s.ctx s.cur) {} [o] = false :=
  badBundle_single rfl (fun _ => hm.jump) (by simp [hm.stays]) (by simpa [Config.withholdMax] using ha.room) ha.loads (noCollision_of_allowed ha hm)
    (by simp [hm.groups]) ha.early

theorem issueTrap_of_allowed : issueTrap s.cur {} [o] s = none :=
  issueTrap_none ha.checks (by simp [hm.plain]) (inDrain_false ha.drain o) (badBundle_of_allowed ha hm)

end

/-- A lone operation that nothing forbids has its effect, and its bundle ends (R58). -/
theorem acts_of_allowed {i : Instr} {f : OpFn} {k : Slot} {s : State} {b : Bead} {e : State → State} (hf : slotOp i = some f)
    (hk : slotOf i = some k) (hh : loneHeader i = {}) (hw : wellFormed i = true) (hs : CanIssue s b) (ha : Allowed s (f s.cur s))
    (hm : Modest (f s.cur s)) (he : (f s.cur s).act (land s s.cur .s []) = e (land s s.cur .s [])) : Acts i s e := by
  obtain ⟨t, ht, hE⟩ := exec_ends hs hw hf hk hh ha.ready (issueTrap_of_allowed ha hm) hm.leave
  refine ⟨t, ht, ?_⟩
  have happly : applyOp s.cur s (f s.cur s) = (f s.cur s).act (land s s.cur .s []) := by
    unfold applyOp
    rw [hm.lands]
    rfl
  rwa [hm.jump, happly, he] at hE

end Sys2Proof.Acting
end

section
/-! SUPPORT. Loads, stores and atomics whose checks pass (R196, R207, R208, R229 to R236). -/
namespace Sys2Proof.MemoryAccess
open Sys2Proof Sys2Proof.Machine Sys2Proof.Claims Sys2Proof.Lone Sys2Proof.Effects Sys2Proof.Acting

/-! ### The frames of checked ranges -/

theorem framesOf_checks (s : State) (u : Use) (align : Nat) (l : List (Nat × Nat)) :
    framesOf (l.map fun (va, n) => checkUse s s.cur u align va n) = l.map fun (va, n) => framesFor s u align va n := by
  simp only [framesOf, List.map_map]
  refine List.map_congr_left fun ⟨va, n⟩ _ => ?_
  simp only [framesFor, Function.comp]
  cases checkUse s s.cur u align va n <;> rfl

/-! ### Loads -/

/-- The virtual range of a range with its place in the destination. -/
def rangeOf (x : Nat × Nat × Nat) : Nat × Nat := (x.1, x.2.1)

/-- The segments of a load's ranges, each with its place in the destination (R207). -/
theorem segs_eq_flatMap (s : State) (align : Nat) : (l : List (Nat × Nat × Nat)) →
    ((framesOf ((l.map rangeOf).map fun (va, n) => checkUse s s.cur .load align va n)).zip
        ((l.map rangeOf).zip (l.map fun x => x.2.2))).flatMap (fun (f, (va, n), b) => segsOf f va n b) =
      l.flatMap fun (va, n, bit) => segsOf (framesFor s .load align va n) va n bit
  | [] => rfl
  | (va, n, bit) :: r => by
    have ih := segs_eq_flatMap s align r
    rw [framesOf_checks] at ih ⊢
    simp only [List.map_cons, List.zip_cons_cons, List.flatMap_cons, rangeOf] at ih ⊢
    rw [ih]

section
variable (a : LArgs) (reads : List Nat) (on : Bool) (align : Nat) (l : List (Nat × Nat)) (bits : List Nat) (mask : BitVec 1024)
  (c : Nat) (s : State)

theorem modest_loadOp : Modest (loadOp a reads on align l bits mask c s) := by
  cases on
  · exact ⟨rfl, rfl, rfl, rfl, rfl, rfl, .nil⟩
  · refine ⟨rfl, rfl, rfl, rfl, rfl, rfl, ?_⟩
    simp only [loadOp]
    cases destOf a.dst <;> simp

theorem loadOp_act_of_disabled : (loadOp a reads false align l bits mask c s).act = id := rfl

theorem loadOp_act_of_enabled : (loadOp a reads true align l bits mask c s).act =
    startRead c .ld (arrivalD a.dist) ((destOf a.dst).toList.map fun d => (d, mask))
      (.bytes (((framesOf (l.map fun (va, n) => checkUse s c .load align va n)).zip (l.zip bits)).flatMap
        fun (f, (va, n), b) => segsOf f va n b) a.hint) := by
  simp only [loadOp]
  cases destOf a.dst <;> rfl

end

/-- A load of the ranges that the claim names is the model's. -/
theorem slotOp_of_loadParts {s : State} {i : Instr} {a : LArgs} {on : Bool} {align : Nat} {l : List (Nat × Nat × Nat)}
    {mask : BitVec 1024} {f : OpFn} (hp : loadParts s i = some (a, on, align, l, mask)) (hf : slotOp i = some f) :
    slotOf i = some .ld ∧ loneHeader i = {} ∧
      ∃ reads, f s.cur s = loadOp a reads on align (l.map rangeOf) (l.map fun x => x.2.2) mask s.cur s := by
  cases i with
  | ld b =>
    cases hp
    cases hf
    refine ⟨rfl, rfl, reading a.pred [a.base, a.index], ?_⟩
    have hz : sizeL a / 8 = 2 ^ a.size.toNat := Nat.mul_div_cancel_left _ (by decide)
    simp only [opLd, hz]
    rfl
  | vld b =>
    cases hf
    simp only [loadParts] at hp
    split at hp <;> cases hp <;> refine ⟨rfl, rfl, reading a.pred [a.base, a.index], ?_⟩ <;> rename_i hpr
    · exact if_pos hpr
    · exact if_neg hpr
  | vgath b =>
    cases hp
    cases hf
    refine ⟨rfl, rfl, reading a.pred [a.base, a.index], ?_⟩
    rw [List.map_map, List.map_map]
    rfl
  | _ => cases hp

/-- Settles O25. -/
theorem loads : Obligations.Loads := by
  intro i f e s b he hf hw hs ha
  unfold loadEffect at he
  split at he
  · cases he
  · next a on align l mask hp =>
    obtain ⟨hk, hh, reads, hop⟩ := slotOp_of_loadParts hp hf
    refine acts_of_allowed hf hk hh hw hs ha (hop ▸ modest_loadOp a reads on align _ _ mask s.cur s) ?_
    rw [hop]
    cases on <;> cases he
    · rfl
    · rw [loadOp_act_of_enabled, segs_eq_flatMap]

/-! ### Accesses whose checks pass -/

theorem firstFail_eq_none : (l : List (TrapCode × Nat)) → firstFail l = none → l = []
  | [], _ => rfl
  | x :: r, h => by
    simp only [firstFail] at h
    split at h
    · cases h
    · split at h <;> cases h

/-- An access that raises no trap has passed each of its checks (R227). -/
theorem failsOf_of_accessTraps {s : State} {c : Nat} {k : Slot} {u : Use} {l : List (Nat × Nat)}
    {checks : List (Sum (TrapCode × Nat) Frames)} (h : accessTraps s c k u l checks = []) : failsOf checks = [] := by
  unfold accessTraps at h
  split at h
  · cases h
  · next hn => exact firstFail_eq_none _ hn

theorem exists_frames_of_failsOf {x : Sum (TrapCode × Nat) Frames} (h : failsOf [x] = []) : ∃ f, x = .inr f := by
  cases x with
  | inl e => cases h
  | inr f => exact ⟨f, rfl⟩

/-! ### Atomics -/

theorem jobOf_land (s : State) (c : Nat) (k : Slot) (d : Nat) : jobOf (land s c k []) d = jobOf s d := by
  simp only [jobOf, land_nil_ctx]

theorem checkUse_of_checkAtomic {s : State} {c n va : Nat} {op : AtomicOp} {f : Frames} (h : checkAtomic s c n va op = .inr f) :
    checkUse s c .atomic n va n = .inr f := by
  unfold checkAtomic at h
  split at h
  · next hf =>
    split at h
    · cases h
    · rw [hf, h]
  · split at h
    · split at h <;> cases h
    · cases h
  · cases h

theorem framesFor_of_checkAtomic {s : State} {n va : Nat} {op : AtomicOp} {f : Frames} (h : checkAtomic s s.cur n va op = .inr f) :
    framesFor s .atomic n va n = f := by
  rw [framesFor, checkUse_of_checkAtomic h]

section
variable {op : AtomicOp} {n : Nat} {a : LArgs} {dests : List Dest} {v w : Arch → Nat} {s : State}

theorem modest_atomicOp (hd : dests.Pairwise (· ≠ ·)) (c : Nat) : Modest (atomicOp op n a dests v w c s) := by
  cases hon : onL (s.ctx c).arch a
  · simp only [atomicOp, hon]
    exact ⟨rfl, rfl, rfl, rfl, rfl, rfl, .nil⟩
  · simp only [atomicOp, hon]
    refine ⟨rfl, rfl, rfl, rfl, rfl, rfl, ?_⟩
    simpa [List.pairwise_map] using hd

theorem atomicOp_act_of_disabled (hon : enabledS (s.ctx s.cur).arch a.pred a.neg = false) :
    (atomicOp op n a dests v w s.cur s).act = id := by
  simp only [atomicOp, onL, hon]
  rfl

/-- What an enabled atomic does whose check passes (R208). -/
theorem atomicOp_act_of_enabled {t : State} (hon : enabledS (s.ctx s.cur).arch a.pred a.neg = true)
    (ht : (atomicOp op n a dests v w s.cur s).traps = []) :
    (atomicOp op n a dests v w s.cur s).act t =
      let f := framesFor s .atomic n (atomicVa s a n) n
      withhold (startWithheld s.cur .ld (arrivalD a.dist) dests t).2 s.cur .ld
        (.atomic op (framePa f (atomicVa s a n)) n (v (s.ctx s.cur).arch) (w (s.ctx s.cur).arch)
          (startWithheld s.cur .ld (arrivalD a.dist) dests t).1 ((t.ctx s.cur).arch.cc + arrivalD a.dist)
          (frameLeaf f (atomicVa s a n))) [(jobOf t s.cur, atomicVa s a n, n)] := by
  simp only [atomicOp, onL, hon, Bool.not_true, Bool.false_eq_true, if_false, List.append_eq_nil_iff] at ht ⊢
  obtain ⟨f, hf⟩ := exists_frames_of_failsOf (failsOf_of_accessTraps ht.2)
  change checkAtomic s s.cur n (atomicVa s a n) op = .inr f at hf
  simp only [framesFor_of_checkAtomic hf]
  change withhold _ _ _ (.atomic op (framePa (match checkAtomic s s.cur n (atomicVa s a n) op with
    | .inr f => f
    | .inl _ => []) _) _ _ _ _ _ (frameLeaf (match checkAtomic s s.cur n (atomicVa s a n) op with
    | .inr f => f
    | .inl _ => []) _)) _ = _
  rw [hf]
  rfl

end

/-- The register after another is another place (R32, R236). -/
theorem pairwise_pair {q : Port} (h : WF.pair q = true) :
    ((destOf q).toList ++ (destOf (nextReg q)).toList).Pairwise (· ≠ ·) := by
  cases q with
  | s m =>
    simp only [destOf, nextReg]
    split <;> split <;> simp
  | _ => cases h

theorem pairwise_toList (o : Option Dest) : o.toList.Pairwise (· ≠ ·) := by
  cases o <;> simp

theorem pairwise_atomicDests {i : Instr} {a : LArgs} {op : AtomicOp} {n : Nat} (hi : atomicOf i = some (a, op, n))
    (hw : wellFormed i = true) : (atomicDests i a).Pairwise (· ≠ ·) := by
  cases i with
  | acas16 b =>
    cases hi
    simp only [wellFormed, Bool.and_eq_true] at hw
    exact pairwise_pair hw.1.1.2
  | _ => exact pairwise_toList _

/-- An atomic of one register. -/
theorem atomicN_eq (op : AtomicOp) (a : LArgs) : atomicN op a = atomicOp op (2 ^ a.size.toNat) a (destOf a.dst).toList
    (fun r => (readScalar r 0 a.index).toNat % 2 ^ (8 * 2 ^ a.size.toNat))
    (fun r => (readScalar r 0 a.dst).toNat % 2 ^ (8 * 2 ^ a.size.toNat)) := by
  have hz : sizeL a / 8 = 2 ^ a.size.toNat := Nat.mul_div_cancel_left _ (by decide)
  simp only [atomicN, hz]

/-- The operation `o` withholds the atomic `op` of `n` bytes with the operands that the claim names (R208). -/
def IsAtomic (s : State) (i : Instr) (a : LArgs) (op : AtomicOp) (n : Nat) (o : Op) : Prop :=
  ∃ reads v w, o = { atomicOp op n a (atomicDests i a) v w s.cur s with reads := reads } ∧
    v (s.ctx s.cur).arch = atomicValue s i n a.index ∧ w (s.ctx s.cur).arch = atomicValue s i n a.dst

theorem isAtomic_atomicN {s : State} {i : Instr} {a : LArgs} (op : AtomicOp) (hd : atomicDests i a = (destOf a.dst).toList)
    (hv : ∀ n q, atomicValue s i n q = (readScalar (s.ctx s.cur).arch 0 q).toNat % 2 ^ (8 * n)) :
    IsAtomic s i a op (2 ^ a.size.toNat) (atomicN op a s.cur s) := by
  rw [atomicN_eq, ← hd]
  let g (q : Port) (r : Arch) : Nat := (readScalar r 0 q).toNat % 2 ^ (8 * 2 ^ a.size.toNat)
  exact ⟨(atomicOp op (2 ^ a.size.toNat) a (atomicDests i a) (g a.index) (g a.dst) s.cur s).reads, g a.index, g a.dst, rfl,
    (hv _ _).symm, (hv _ _).symm⟩

/-- An atomic that the claim names is the model's (R235, R236). -/
theorem slotOp_of_atomicOf {s : State} {i : Instr} {a : LArgs} {op : AtomicOp} {n : Nat} {f : OpFn}
    (hi : atomicOf i = some (a, op, n)) (hf : slotOp i = some f) :
    slotOf i = some .ld ∧ loneHeader i = {} ∧ IsAtomic s i a op n (f s.cur s) := by
  cases i with
  | aadd b | aand b | aor b | axor b | amin b | amax b | aminn b | amaxn b | aswap b | acas b =>
    cases hi
    cases hf
    exact ⟨rfl, rfl, isAtomic_atomicN _ rfl fun _ _ => rfl⟩
  | acas16 b =>
    cases hi
    cases hf
    exact ⟨rfl, rfl, _, _, _, rfl, rfl, rfl⟩
  | _ => cases hi

/-- Settles O27. -/
theorem atomics : Obligations.Atomics := by
  intro i f e s b he hf hw hs ha
  unfold atomicEffect at he
  split at he
  · cases he
  · next a op n hi =>
    obtain ⟨hk, hh, reads, v, w, hop, hv, hx⟩ := slotOp_of_atomicOf hi hf
    have hm : Modest (f s.cur s) := by
      rw [hop]
      obtain ⟨h1, h2, h3, h4, h5, h6, h7⟩ := modest_atomicOp (op := op) (n := n) (a := a) (v := v) (w := w) (s := s)
        (pairwise_atomicDests hi hw) s.cur
      exact ⟨h1, h2, h3, h4, h5, h6, h7⟩
    refine acts_of_allowed hf hk hh hw hs ha hm ?_
    have ht := ha.checks
    rw [hop] at ht ⊢
    cases hon : enabledS (s.ctx s.cur).arch a.pred a.neg
    · rw [hon] at he
      cases he
      exact congrFun (atomicOp_act_of_disabled hon) _
    · rw [hon] at he
      cases he
      refine (atomicOp_act_of_enabled hon ht).trans ?_
      simp only [hv, hx, jobOf_land, land_nil_ctx]

end Sys2Proof.MemoryAccess
end

section
/-! SUPPORT. Stores and prefetches whose checks pass, and loads whose checks fail (R227 to R234, R250). -/
namespace Sys2Proof.StoreAccess
open Sys2Proof Sys2Proof.Machine Sys2Proof.Claims Sys2Proof.Lone Sys2Proof.Effects Sys2Proof.Acting Sys2Proof.MemoryAccess Sys2Proof.ScalarControl Sys2Proof.TrapOperation

/-! ### Stores -/

section
variable {reads : List Nat} {align : Nat} {l : List (Nat × Nat)} {w : List (Nat × List Byte)} {s : State}

theorem modest_storeOp (on : Bool) : Modest (storeOp reads on align l w s.cur s) := by
  cases on <;> exact ⟨rfl, rfl, rfl, rfl, rfl, rfl, .nil⟩

/-- What an enabled store withholds (R232). -/
theorem storeOp_act_of_enabled (t : State) : (storeOp reads true align l w s.cur s).act t =
    withhold t s.cur .st
      (.store (w.flatMap fun (va, b) => b.zipIdx.map fun (x, j) =>
          (framePa (l.map fun (va, n) => framesFor s .store align va n).flatten (va + j), x))
        (Frames.leaves (l.map fun (va, n) => framesFor s .store align va n).flatten))
      (l.map fun (va, n) => (jobOf t s.cur, va, n)) := by
  rw [← framesOf_checks]
  rfl

end

theorem length_lanesOn (r : Arch) (p : BitVec 4) (neg : Bool) (z n : Nat) : (lanesOn r p neg z n).length = n := by
  simp [lanesOn]

/-- The operation `o` stores the bytes that the claim names (R231, R233). -/
def IsStore (s : State) (x : Option (Bool × Nat × List (Nat × Nat) × List (Nat × List Byte))) (o : Op) : Prop :=
  ∀ on align l w, x = some (on, align, l, w) → ∃ reads, o = storeOp reads on align l w s.cur s

theorem isStore_stOp (s : State) (n : Nat) (a : STArgs) :
    IsStore s (some (enabledS (s.ctx s.cur).arch a.pred false, n, [(eaST (s.ctx s.cur).arch a n, n)],
      [(eaST (s.ctx s.cur).arch a n, natToBytes n (readVector (s.ctx s.cur).arch a.data).toNat)])) (stOp n a s.cur s) := by
  intro on align l w h
  cases h
  exact ⟨_, rfl⟩

theorem isStore_vstOp (s : State) (z : Nat) (a : STArgs) :
    let r := (s.ctx s.cur).arch
    let ea := eaST r a 128
    let n := if a.data.isP then 16 else 128
    let en := lanesOn r a.pred false z (8 * n / z)
    IsStore s (some (en.any id, n, [(ea, n)], (List.range (8 * n / z)).filterMap fun i =>
      if en.getD i false then some (ea + i * (z / 8), natToBytes (z / 8) ((readVector r a.data).toNat / 2 ^ (z * i))) else none))
      (vstOp z a s.cur s) := by
  intro r ea n en on align l w h
  cases h
  refine ⟨reading a.pred [a.base, a.index, a.data], ?_⟩
  have hl : (List.range (8 * n / z)) = List.range en.length := by rw [length_lanesOn]
  rw [hl]
  rfl

theorem isStore_vscatOp (s : State) (z : Nat) (a : STArgs) :
    let r := (s.ctx s.cur).arch
    let en := lanesOn r a.pred false z (gatherLanes z)
    let lanes := (List.range (gatherLanes z)).filter fun i => en.getD i false
    let addr (i : Nat) : Nat :=
      (readScalar r 0 a.base + BitVec.ofInt 64 (indexLane (readVector r a.index) z i * (z / 8 : Nat)) +
        BitVec.ofInt 64 (a.imm.toInt * 128)).toNat
    IsStore s (some (en.any id, z / 8, lanes.map fun i => (addr i, z / 8),
      lanes.map fun i => (addr i, natToBytes (z / 8) ((readVector r a.data).toNat / 2 ^ (z * i))))) (vscatOp z a s.cur s) := by
  intro r en lanes addr on align l w h
  cases h
  exact ⟨_, rfl⟩

/-- A store that the claim names is the model's (R231, R233). -/
theorem slotOp_of_storeParts {s : State} {i : Instr} {f : OpFn} (hp : storeParts s i ≠ none) (hf : slotOp i = some f) :
    slotOf i = some .st ∧ loneHeader i = {} ∧ IsStore s (storeParts s i) (f s.cur s) := by
  cases i with
  | st8 a | st16 a | st32 a | st64 a =>
    cases hf
    exact ⟨rfl, rfl, isStore_stOp s _ a⟩
  | vst8 a | vst16 a | vst32 a | vst64 a =>
    cases hf
    exact ⟨rfl, rfl, isStore_vstOp s _ a⟩
  | vscat8 a | vscat16 a | vscat32 a | vscat64 a =>
    cases hf
    exact ⟨rfl, rfl, isStore_vscatOp s _ a⟩
  | _ => exact absurd rfl hp

/-- Settles O28. -/
theorem stores : Obligations.Stores := by
  intro i f e s b he hf hw hs ha
  unfold storeEffect at he
  split at he
  · cases he
  · next on align l w hp =>
    obtain ⟨hk, hh, hst⟩ := slotOp_of_storeParts (by rw [hp]; simp) hf
    obtain ⟨reads, hop⟩ := hst on align l w hp
    refine acts_of_allowed hf hk hh hw hs ha (hop ▸ modest_storeOp on) ?_
    rw [hop]
    cases on <;> cases he
    · rfl
    · rw [storeOp_act_of_enabled]
      simp only [jobOf_land]

/-! ### Prefetches -/

/-- Settles O26.  A prefetch has no check that could trap, and nothing but the other context's `phase` makes it wait. -/
theorem prefetch : Obligations.Prefetch := by
  intro a s b hw hs hd hq hr
  have hwait : (opPref a s.cur s).waits = none := by
    change (if (enabledS (s.ctx s.cur).arch a.pred a.neg && phaseHolds s s.cur) = true then _ else none) = none
    cases hon : enabledS (s.ctx s.cur).arch a.pred a.neg
    · rfl
    · rw [hq hon]
      rfl
  have ha : Allowed s (opPref a s.cur s) :=
    ⟨rfl, hwait, hd, hs.loads, hs.entries, fun _ _ _ hx => (nomatch hx), hr⟩
  refine acts_of_allowed rfl rfl rfl hw hs ha ⟨rfl, rfl, rfl, rfl, rfl, rfl, .nil⟩ ?_
  change (if enabledS (s.ctx s.cur).arch a.pred a.neg then _ else id) _ = _
  split <;> rfl

/-! ### Loads that fail -/

theorem rangesMeet_nil (m : List (Nat × Nat)) : rangesMeet [] m = false := rfl

theorem willWrite_nil (q : List Entry) : willWrite [] q = false := by
  unfold willWrite
  rw [List.any_eq_false]
  intro e _
  cases writtenTile e.act <;> simp [rangesMeet_nil]

theorem writes_nil (t : Transfer) : t.writes [] = false := by
  unfold Transfer.writes
  simp only [rangesMeet_nil, Bool.false_or]
  rw [Bool.or_eq_false_iff]
  constructor
  · rw [List.any_eq_false]
    intro p _
    cases p.expand <;> simp
  · cases t.kind <;> rfl

/-- A read of nothing waits for nothing (R228). -/
theorem bytesWait_nil (s : State) (c : Nat) : bytesWait s c [] = none := by
  unfold bytesWait
  have hw (l : List Transfer) : l.any (fun t => t.writes []) = false := by simp [writes_nil]
  have hm (l : List Entry) : l.any (fun e => rangesMeet [] (appendArea e)) = false := by simp [rangesMeet_nil]
  simp only [hw, hm, willWrite_nil]
  rfl

section
variable {a : LArgs} {s : State} {code : TrapCode} {x : Nat}
  (hon : enabledS (s.ctx s.cur).arch a.pred a.neg = true) (hD : 10 ≤ arrivalD a.dist)
  (hck : checkUse s s.cur .load (2 ^ a.size.toNat) (eaL (s.ctx s.cur).arch a (2 ^ a.size.toNat)) (2 ^ a.size.toNat) = .inl (code, x))
include hon hD hck

/-- A load whose check fails raises the trap of the check, and waits for nothing (R227). -/
theorem opLd_of_fails : opLd a s.cur s = { slot := .ld, reads := reading a.pred [a.base, a.index]
                                           traps := [failCause s s.cur .ld code x]
                                           loads := (destOf a.dst).toList.map fun d => (d, arrivalD a.dist)
                                           act := (opLd a s.cur s).act } := by
  have hz : sizeL a / 8 = 2 ^ a.size.toNat := Nat.mul_div_cancel_left _ (by decide)
  have hnear (l : List (Nat × Nat)) : tooNear s s.cur (arrivalD a.dist) l = false := by
    have : decide (arrivalD a.dist < 10) = false := by simpa using hD
    rw [tooNear, this]
    rfl
  simp only [opLd, loadOp, onL, hz, hon, Bool.not_true, Bool.false_eq_true, if_false, List.map_cons, List.map_nil, hck]
  simp only [framesOf, List.map_cons, List.map_nil, List.zip_cons_cons, List.zip_nil_right, List.flatMap_cons, List.flatMap_nil,
    segsOf, segRanges, List.append_nil, bytesAwaited, willWrite_nil, bytesWait_nil, hnear, ite_self]
  cases destOf a.dst <;> rfl

theorem exec_ld_of_fails {b : Bead} (hw : wellFormed (.ld a) = true) (hs : CanIssue s b) (hd : NoDrain (s.ctx s.cur))
    (hl : ((s.ctx s.cur).arch.wtb.filter (·.load)).length < Config.landingMax)
    (hr : NoEarlyRead (s.ctx s.cur).arch (reading a.pred [a.base, a.index]))
    (hc : NoCollision (s.ctx s.cur).arch
      ((destOf a.dst).toList.map fun d => (d, (s.ctx s.cur).arch.cc + arrivalD a.dist))) :
    exec (.ld a) s = .next (bundleTrap s s.cur (failCause s s.cur .ld code x)) := by
  have hop := opLd_of_fails hon hD hck
  refine exec_traps hs hw rfl rfl rfl (by rw [hop]) (issueTrap_of_traps (by rw [hop]) (by rw [hop]) (inDrain_false hd _) ?_)
  rw [hop]
  refine badBundle_single rfl (fun _ => rfl) (by simp) (by simpa [Config.withholdMax] using hs.entries) ?_ ?_ (Nat.zero_le _) hr
  · cases hq : destOf a.dst <;> simp [Config.landingMax] at hl ⊢ <;> omega
  · refine noCollision_false ?_ ?_
    · simpa [writesOf, Function.comp_def] using hc
    · cases hq : destOf a.dst <;> simp [writesOf]

end

theorem bundleTrap_of_unlogged {s : State} {c : Nat} {x : Cause} (hf : (s.ctx c).freeze = none) (hl : x.line = none) :
    bundleTrap s c x = takeTrap (walkMissed s c x) c x := by
  simp only [bundleTrap, trapFreeze_thawed hf, logIssue, numbered, hl]
  rfl

theorem code_of_tableFault {s : State} {t i : Nat} {code : TrapCode} (h : tableFault s t i = some code) :
    code = .mchk ∨ code = .soft := by
  unfold tableFault at h
  split at h
  · exact .inl (Option.some.inj h).symm
  · split at h
    · exact .inr (Option.some.inj h).symm
    · cases h

theorem code_of_walkFaultFrom {s : State} {va : Nat} {code : TrapCode} {line : Nat} : (n t : Nat) →
    walkFaultFrom s va n t = some (code, line) → code = .mchk ∨ code = .soft
  | 0, _, h => by cases h
  | n + 1, t, h => by
    simp only [walkFaultFrom] at h
    split at h
    · next hc =>
      cases h
      exact code_of_tableFault hc
    · split at h
      · exact code_of_walkFaultFrom n _ h
      · cases h
    · cases h

/-- A line at which a walk ends is not served, or its data is bad (R223, R273). -/
theorem code_of_walkFault {s : State} {j va line : Nat} {code : TrapCode} (h : walkFault s j va = some (code, line)) :
    code = .mchk ∨ code = .soft := by
  unfold walkFault at h
  split at h
  · exact code_of_walkFaultFrom _ _ h
  · cases h

/-- Settles O29. -/
theorem loadFaults : Obligations.LoadFaults := by
  intro a s b hw hs hd r n va hon hD hl hr hc
  refine ⟨fun hal => ?_, fun x hal htr hx => ?_, fun x code line hal htr hleaf hx => ?_⟩
  · have hck : checkUse s s.cur .load n va n = .inl (.align, va) := by
      unfold checkUse
      rw [if_pos (by simpa using hal)]
    rw [exec_ld_of_fails hon hD hck hw hs hd hl hr hc]
    exact congrArg _ (bundleTrap_unwalked hs.thawed (show TrapCode.align ∉ walkedCodes by decide) rfl)
  · have hck : checkUse s s.cur .load n va n = .inl (.xlate, x) := by
      have hcode : walkCode s (coreOf s.cur) (jobOf s s.cur) x = .xlate := by
        unfold walkCode
        rcases hx with hx | hx
        · rw [if_pos hx]
        · rw [hx]
          exact ite_self _
      unfold checkUse
      rw [if_neg (by simpa using hal)]
      simp only [checkRange, htr, hcode]
    rw [exec_ld_of_fails hon hD hck hw hs hd hl hr hc]
    exact congrArg _ (bundleTrap_of_unlogged hs.thawed rfl)
  · have hck : checkUse s s.cur .load n va n = .inl (code, x) := by
      have hcode : walkCode s (coreOf s.cur) (jobOf s s.cur) x = code := by
        unfold walkCode
        rw [hleaf, hx]
        rfl
      unfold checkUse
      rw [if_neg (by simpa using hal)]
      simp only [checkRange, htr, hcode]
    rw [exec_ld_of_fails hon hD hck hw hs hd hl hr hc, failCause, if_pos (code_of_walkFault hx), hx]
    rfl

end Sys2Proof.StoreAccess
end

section
/-! SUPPORT. What the memory system changes when it serves an access: the caches, tags and tiers, the counters of every context and the
fault log, and nothing else of the machine (R219 to R225, R259, R272, R305, R393). -/
namespace Sys2Proof.Serving
open Sys2Proof Sys2Proof.Machine

/-! ### What serving keeps -/

/-- What becomes of the memory: it is the same, or, where bytes are written, still in canonical form. -/
def MemKept (writes : Bool) (m n : List Host.Cell) : Prop := if writes then Memory.wf m = true → Memory.wf n = true else n = m

/-- The memory system turns `s` into `t`.  Contexts count events, messages of their overflows leave, errors enter the fault log; of the rest,
caches, tags, tiers and the model's own counters alone differ. -/
structure Served (writes : Bool) (s t : State) : Prop where
  ctx : ∀ c, ∃ pmcnt pmctl, t.ctx c = { s.ctx c with pmcnt := pmcnt, pmctl := pmctl }
  hub : ∃ mail defer, t.hub = { s.hub with mail := mail, pmDefer := defer }
  mgmt : ∃ flog n, t.mgmt = { s.mgmt with flog := flog, flogN := n }
  mem : MemKept writes s.mem t.mem
  rest : t = { s with
    ctxs := t.ctxs, cores := t.cores, mem := t.mem, homes := t.homes, dieTlb := t.dieTlb, recCache := t.recCache, hub := t.hub,
    mgmt := t.mgmt, tiers := t.tiers, fabricOut := t.fabricOut, mgmtIn := t.mgmtIn, padBits := t.padBits, uid := t.uid, free := t.free }

theorem memKept_refl (w : Bool) (m : List Host.Cell) : MemKept w m m := by
  cases w
  · rfl
  · exact id

theorem MemKept.trans {w : Bool} {m n o : List Host.Cell} (h : MemKept w m n) (g : MemKept w n o) : MemKept w m o := by
  cases w
  · exact Eq.trans g h
  · exact fun hm => g (h hm)

theorem Served.refl (w : Bool) (s : State) : Served w s s :=
  ⟨fun _ => ⟨_, _, rfl⟩, ⟨_, _, rfl⟩, ⟨_, _, rfl⟩, memKept_refl w _, rfl⟩

section
variable {w : Bool} {s t u : State}

theorem Served.trans (h : Served w s t) (g : Served w t u) : Served w s u := by
  obtain ⟨hc, ⟨m, d, hh⟩, ⟨l, n, hm⟩, hw, hr⟩ := h
  obtain ⟨gc, ⟨m', d', gh⟩, ⟨l', n', gm⟩, gw, gr⟩ := g
  refine ⟨fun c => ?_, ⟨m', d', by rw [gh, hh]⟩, ⟨l', n', by rw [gm, hm]⟩, hw.trans gw, by rw [gr, hr]⟩
  obtain ⟨p, q, hp⟩ := hc c
  obtain ⟨p', q', gp⟩ := gc c
  exact ⟨p', q', by rw [gp, hp]⟩

/-- A change outside the contexts, the messages, the fault log and the memory. -/
theorem Served.update (h : Served w s t) (hc : u.ctxs = t.ctxs) (hh : u.hub = t.hub) (hm : u.mgmt = t.mgmt) (hw : u.mem = t.mem)
    (hr : u = { t with
      ctxs := u.ctxs, cores := u.cores, mem := u.mem, homes := u.homes, dieTlb := u.dieTlb, recCache := u.recCache, hub := u.hub,
      mgmt := u.mgmt, tiers := u.tiers, fabricOut := u.fabricOut, mgmtIn := u.mgmtIn, padBits := u.padBits, uid := u.uid,
      free := u.free }) : Served w s u :=
  h.trans ⟨fun c => ⟨_, _, by rw [State.ctx, hc]; rfl⟩, ⟨_, _, by rw [hh]⟩, ⟨_, _, by rw [hm]⟩, hw ▸ memKept_refl w _, hr⟩

theorem Served.foldl {α : Type} {f : State → α → State} (hf : ∀ t x, Served w s t → Served w s (f t x)) :
    (l : List α) → {t : State} → Served w s t → Served w s (l.foldl f t)
  | [], _, h => h
  | x :: r, _, h => Served.foldl hf r (hf _ x h)

theorem Served.pos (h : Served w s t) : t.pos = s.pos := (congrArg State.pos h.rest).trans rfl
theorem Served.cur (h : Served w s t) : t.cur = s.cur := (congrArg State.cur h.rest).trans rfl
theorem Served.script (h : Served w s t) : t.script = s.script := (congrArg State.script h.rest).trans rfl
theorem Served.jobs (h : Served w s t) : t.jobs = s.jobs := (congrArg State.jobs h.rest).trans rfl
theorem Served.transfers (h : Served w s t) : t.transfers = s.transfers := (congrArg State.transfers h.rest).trans rfl
theorem Served.sameMem (h : Served false s t) : t.mem = s.mem := h.mem
theorem Served.wf (h : Served true s t) (hs : Memory.wf s.mem = true) : Memory.wf t.mem = true := h.mem hs

theorem Served.writes (h : Served false s t) : Served w s t := by
  refine ⟨h.ctx, h.hub, h.mgmt, ?_, h.rest⟩
  rw [h.sameMem]
  exact memKept_refl w _

end

/-! ### The log, messages and counters -/

section
variable {w : Bool} {s t : State} (h : Served w s t)
include h

theorem served_modHomes (f : Homes → Homes) : Served w s (t.modHomes f) := h.update rfl rfl rfl rfl rfl
theorem served_modTiers (f : Tiers → Tiers) : Served w s (t.modTiers f) := h.update rfl rfl rfl rfl rfl
theorem served_modCore (k : Nat) (f : Core → Core) : Served w s (t.modCore k f) := h.update rfl rfl rfl rfl rfl
theorem served_free : Served w s { t with free := t.free + 1 } := h.update rfl rfl rfl rfl rfl
theorem served_fabricOut (l : List FabricMsg) : Served w s { t with fabricOut := l } := h.update rfl rfl rfl rfl rfl

theorem served_logFault (e : LogEntry) : Served w s (logFault t e) :=
  h.trans ⟨fun _ => ⟨_, _, rfl⟩, ⟨_, _, rfl⟩, ⟨_, _, rfl⟩, memKept_refl w _, rfl⟩

theorem served_countHeld (life at_ code n : Nat) : Served w s (countHeld t life at_ code n) := by
  unfold countHeld
  split
  · exact h
  · exact h.trans ⟨fun _ => ⟨_, _, rfl⟩, ⟨_, _, rfl⟩, ⟨_, _, rfl⟩, memKept_refl w _, rfl⟩

theorem served_countLater (life code n : Nat) : Served w s (countLater t life code n) := served_countHeld h _ _ _ _
theorem served_countFrom (life cc code n : Nat) : Served w s (countFrom t life cc code n) := served_countHeld h _ _ _ _

/-- What counts events serves nothing. -/
theorem served_counted {c : Nat} {u : State} (g : Counted c t u) : Served w s u := by
  obtain ⟨⟨p, q, hc⟩, hd, m, d, hu⟩ := g
  refine h.trans ⟨fun x => ?_, ⟨t.hub.mail ++ m, d, by rw [hu]⟩, ⟨_, _, by rw [hu]⟩, by rw [hu]; exact memKept_refl w _, by rw [hu]⟩
  by_cases hx : x = c
  · subst hx
    exact ⟨p, q, hc⟩
  · exact ⟨_, _, hd x hx⟩

theorem served_count (c code n : Nat) : Served w s (count t c code n) := served_counted h (count_counted t c code n)
theorem served_countDeferred (c : Nat) : Served w s (countDeferred t c) := served_counted h (countDeferred_counted t c)

theorem served_countFabric (code : Nat) : Served w s (countFabric t code) :=
  Served.foldl (fun _ _ hx => served_count hx _ _ _) _ h

theorem served_setTag (line : Nat) (x : BitVec 16) : Served w s (setTag t line x) := served_modHomes h _
theorem served_setL2 (a line : Nat) (x : L2Copy) : Served w s (setL2 t a line x) := served_modHomes h _
theorem served_dropL2 (a line : Nat) : Served w s (dropL2 t a line) := served_modHomes h _
theorem served_cleanLine (line : Nat) : Served w s (cleanLine t line) := served_modHomes h _
theorem served_evictCopy (k : Nat) (x : L2Copy) : Served w s (evictCopy t k x) := served_modHomes h _
theorem served_logTag (q line : Nat) : Served w s (logTag t q line) := served_logFault h _
theorem served_logNoContext (line detail : Nat) : Served w s (logNoContext t line detail) := served_logFault h _
theorem served_setL1 (k line : Nat) (x : L1Line) : Served w s (setL1 t k line x) := served_modCore h k _
theorem served_eraseL1 (k line : Nat) : Served w s (eraseL1 t k line) := served_modCore h k _
theorem served_setLayer (stack l : Nat) (x : List (Nat × Nat)) : Served w s (setLayer t stack l x) := served_modTiers h _
theorem served_activate (stack row : Nat) : Served w s (activate t stack row) := by
  unfold activate
  exact served_modTiers h _

end

/-! ### The side of the homes -/

/-- A step of the homes and the agents' L2 alone: no core, no byte and no bound of a region of memory differs. -/
structure Homed (s t : State) : Prop where
  served : Served false s t
  cores : t.cores = s.cores
  present : t.homes.present = s.homes.present
  dcctl : t.tiers.dcctl = s.tiers.dcctl
  peerWays : t.tiers.peerWays = s.tiers.peerWays

theorem Homed.refl (s : State) : Homed s s := ⟨Served.refl false s, rfl, rfl, rfl, rfl⟩

section
variable {s t u : State}

theorem Homed.trans (h : Homed s t) (g : Homed t u) : Homed s u :=
  ⟨h.served.trans g.served, g.cores.trans h.cores, g.present.trans h.present, g.dcctl.trans h.dcctl, g.peerWays.trans h.peerWays⟩

theorem Homed.foldl {α : Type} {f : State → α → State} (hf : ∀ t x, Homed s t → Homed s (f t x)) :
    (l : List α) → {t : State} → Homed s t → Homed s (l.foldl f t)
  | [], _, h => h
  | x :: r, _, h => Homed.foldl hf r (hf _ x h)

theorem Served.homed {w : Bool} (h : Served w s t) (g : Homed t u) : Served w s u := h.trans g.served.writes

theorem region_homed (h : Homed s t) (pa : Nat) : region t pa = region s pa := by
  have hd : localDie t = localDie s := by
    funext a
    rw [localDie, localDie, h.served.pos]
  have hn : nearWays t = nearWays s := by
    funext a j
    rw [nearWays, nearWays, hd, h.dcctl, h.peerWays]
  unfold region
  rw [hn, h.present]

theorem tagged_homed (h : Homed s t) (pa : Nat) : tagged t pa = tagged s pa := by
  rw [tagged, tagged, region_homed h]

end

section
variable {s t : State} (h : Homed s t)
include h

theorem homed_modHomes (f : Homes → Homes) (hf : ∀ x, (f x).present = x.present) : Homed s (t.modHomes f) :=
  ⟨served_modHomes h.served f, h.cores, (hf _).trans h.present, h.dcctl, h.peerWays⟩
theorem homed_modTiers (f : Tiers → Tiers) (hf : ∀ x, (f x).dcctl = x.dcctl ∧ (f x).peerWays = x.peerWays) : Homed s (t.modTiers f) :=
  ⟨served_modTiers h.served f, h.cores, h.present, (hf _).1.trans h.dcctl, (hf _).2.trans h.peerWays⟩
theorem homed_free : Homed s { t with free := t.free + 1 } := ⟨served_free h.served, h.cores, h.present, h.dcctl, h.peerWays⟩
theorem homed_fabricOut (l : List FabricMsg) : Homed s { t with fabricOut := l } :=
  ⟨served_fabricOut h.served l, h.cores, h.present, h.dcctl, h.peerWays⟩
theorem homed_logFault (e : LogEntry) : Homed s (logFault t e) := ⟨served_logFault h.served e, h.cores, h.present, h.dcctl, h.peerWays⟩

theorem homed_count (c code n : Nat) : Homed s (count t c code n) := by
  refine h.trans ⟨served_count (Served.refl false t) c code n, ?_, ?_, ?_, ?_⟩ <;>
  · obtain ⟨_, _, _, _, hu⟩ := count_counted t c code n
    rw [hu]

theorem homed_countFabric (code : Nat) : Homed s (countFabric t code) := Homed.foldl (fun _ _ hx => homed_count hx _ _ _) _ h

theorem homed_setTag (line : Nat) (x : BitVec 16) : Homed s (setTag t line x) := homed_modHomes h _ fun _ => rfl
theorem homed_setL2 (a line : Nat) (x : L2Copy) : Homed s (setL2 t a line x) := homed_modHomes h _ fun _ => rfl
theorem homed_dropL2 (a line : Nat) : Homed s (dropL2 t a line) := homed_modHomes h _ fun _ => rfl
theorem homed_evictCopy (k : Nat) (x : L2Copy) : Homed s (evictCopy t k x) := homed_modHomes h _ fun _ => rfl
theorem homed_cleanLine (line : Nat) : Homed s (cleanLine t line) := homed_modHomes h _ fun _ => rfl
theorem homed_logTag (q line : Nat) : Homed s (logTag t q line) := homed_logFault h _
theorem homed_setLayer (stack l : Nat) (x : List (Nat × Nat)) : Homed s (setLayer t stack l x) :=
  homed_modTiers h _ fun _ => ⟨rfl, rfl⟩
theorem homed_activate (stack row : Nat) : Homed s (activate t stack row) := by
  unfold activate
  exact homed_modTiers h _ fun _ => ⟨rfl, rfl⟩

end

/-! ### Copies and lines (R219, R257, R258, R272) -/

section
variable {s t : State} (h : Homed s t)
include h

theorem homed_makeRoom (a slice line : Nat) : Homed s (makeRoom t a slice line) := by
  unfold makeRoom
  dsimp only
  split
  · exact h
  · split
    · exact homed_evictCopy (homed_free h) _ _
    · exact h

theorem homed_takeCopy (a line : Nat) (st : L2State) : Homed s (takeCopy t a line st) := by
  unfold takeCopy
  split
  · split
    · exact homed_setL2 (homed_makeRoom h _ _ _) _ _ _
    · exact homed_setL2 h _ _ _
  · exact homed_setL2 (homed_makeRoom h _ _ _) _ _ _

theorem homed_pin (q line : Nat) (e : W64) (had : Bool) : Homed s (pin t q line e had) := by
  unfold pin
  split
  · split
    · split
      · exact h
      · split
        · split
          · exact h
          · exact homed_modHomes h _ fun _ => rfl
        · dsimp only
          split
          · exact homed_setL2 h _ _ _
          · exact homed_setL2 (homed_makeRoom h _ _ _) _ _ _
    · exact h
  · exact h

theorem homed_dropShared (a line : Nat) : Homed s (dropShared t a line) := by
  unfold dropShared
  split
  · split
    · exact homed_dropL2 h _ _
    · exact h
  · exact h

theorem homed_findErrors (line : Nat) : Homed s (findErrors t line) := by
  unfold findErrors
  dsimp only
  split
  · exact h
  · exact Homed.foldl (fun _ _ hx => homed_logFault hx _) _ (homed_modHomes h _ fun _ => rfl)

theorem homed_allocLayer (stack l : Nat) : Homed s (allocLayer t stack l) := by
  unfold allocLayer
  dsimp only
  split
  · exact h
  · split
    · exact homed_setLayer h _ _ _
    · split
      · exact homed_setLayer (homed_free h) _ _ _
      · exact h

theorem homed_tierAccess (line : Nat) : Homed s (tierAccess t line) := by
  unfold tierAccess
  dsimp only
  split
  · split
    · exact homed_findErrors h _
    · exact homed_allocLayer (homed_activate (homed_findErrors h _) _ _) _ _
  · exact homed_findErrors h _

theorem homed_countPage (line : Nat) : Homed s (countPage t line) := by
  unfold countPage
  dsimp only
  split
  · exact homed_modTiers h _ fun _ => ⟨rfl, rfl⟩
  · exact h

theorem homed_touch (line : Nat) : Homed s (touch t line) := homed_tierAccess (homed_countPage h _) _

theorem homed_touchLines (l : List Nat) : Homed s (touchLines t l) := Homed.foldl (fun _ _ hx => homed_touch hx _) l h

end

theorem homed_invalidate {s : State} (line : Nat) : (l : List Nat) → {t : State} → Homed s t →
    Homed s (invalidate t line l)
  | [], _, h => h
  | a :: r, _, h => homed_invalidate line r (homed_dropShared h a line)

/-! ### Requests served whole (R220 to R224) -/

section
variable {s t : State} (h : Homed s t)
include h

theorem homed_downgrade (o line : Nat) (st : L2State) : Homed s (downgrade t o line st) := by
  unfold downgrade
  split
  · split
    · exact h
    · exact homed_takeCopy h _ _ _
  · exact h

theorem homed_forwardX (o line : Nat) : Homed s (forwardX t o line) := by
  unfold forwardX
  split
  · split
    · exact h
    · exact homed_dropL2 h _ _
  · exact h

/-- The tag takes a value and the requester a copy. -/
theorem homed_tagAndCopy (q line : Nat) (x : BitVec 16) (st : L2State) : Homed s (takeCopy (setTag t line x) q line st) :=
  homed_takeCopy (homed_setTag h _ _) _ _ _

theorem homed_serveRdSWith (answer : Bool × Bool) (q line : Nat) : Homed s (serveRdSWith answer t q line) := by
  have ht := homed_touch h line
  unfold serveRdSWith
  dsimp only
  split
  · exact homed_takeCopy ht _ _ _
  · split
    · exact homed_tagAndCopy ht _ _ _ _
    iterate 2
      split
      · exact homed_tagAndCopy ht _ _ _ _
      · split
        · exact homed_tagAndCopy ht _ _ _ _
        · split <;> exact homed_takeCopy (homed_downgrade (homed_setTag ht _ _) _ _ _) _ _ _
    · split
      · exact homed_tagAndCopy ht _ _ _ _
      · split <;> exact homed_tagAndCopy ht _ _ _ _
    · exact homed_tagAndCopy ht _ _ _ _

theorem homed_serveRdS (q line : Nat) : Homed s (serveRdS t q line) := homed_serveRdSWith h _ _ _

theorem homed_serveRdX (q line : Nat) : Homed s (serveRdX t q line) := by
  have ht := homed_touch h line
  unfold serveRdX
  dsimp only
  refine homed_tagAndCopy ?_ _ _ _ _
  split
  · exact homed_invalidate line _ ht
  iterate 2
    split
    · exact ht
    · exact homed_forwardX ht _ _
  · split
    · exact homed_invalidate line _ ht
    · exact homed_forwardX (homed_invalidate line _ ht) _ _
  · exact ht

theorem homed_carry (kind : CohKind) (line src dst : Nat) : Homed s (carry t kind line src dst) := by
  unfold carry
  split
  · exact h
  · split
    · exact homed_countFabric (homed_fabricOut h _) _
    · split
      · exact homed_countFabric h _
      · exact h

theorem homed_homeAccess (q line : Nat) (reads : Bool) (bytes : List (Nat × Byte)) : Homed s (homeAccess t q line reads bytes) := by
  unfold homeAccess
  dsimp only
  split
  · split
    · exact homed_touch h _
    · exact homed_findErrors h _
  · split
    · exact homed_countFabric (homed_countFabric (homed_fabricOut h _) _) _
    · exact homed_countFabric (homed_fabricOut h _) _

theorem homed_carryAll (kind : CohKind) (line : Nat) (src dst : Nat → Nat) (l : List Nat) :
    Homed s (l.foldl (fun s a => carry s kind line (src a) (dst a)) t) :=
  Homed.foldl (fun _ _ hx => homed_carry hx _ _ _ _) l h

theorem homed_sendNeeds (req : Request) (line : Nat) (acks : List Nat) (fwd : Option Nat) :
    Homed s (sendNeeds t req line acks fwd) := by
  have ha := homed_carryAll h .inv line (fun _ => paAgent (line * 128)) id acks
  unfold sendNeeds
  dsimp only
  split
  · exact homed_carry ha _ _ _ _
  · exact ha

theorem homed_sendOwner (line q o : Nat) : Homed s (sendOwner t line q o) := by
  unfold sendOwner
  dsimp only
  split
  · exact homed_carry (homed_carry (homed_carry h _ _ _ _) _ _ _ _) _ _ _ _
  · exact homed_carry (homed_carry h _ _ _ _) _ _ _ _

theorem homed_sendAnswer (req : Request) (q line : Nat) (forwarded marked : Bool) :
    Homed s (sendAnswer t req q line forwarded marked) := homed_carry h _ _ _ _

theorem homed_homeTraffic (req : Request) (q line : Nat) : Homed s (homeTraffic t req q line) := by
  have hn (l : List Nat) (o : Option Nat) := homed_carryAll (homed_sendNeeds h req line l o) .ack line id (fun _ => paAgent (line * 128)) l
  unfold homeTraffic
  dsimp only
  split
  · exact h
  · refine homed_sendAnswer ?_ _ _ _ _ _
    split
    · exact homed_sendOwner (hn _ _) _ _ _
    · exact hn _ _

theorem homed_traffic (req : Request) (q line : Nat) : Homed s (traffic t req q line) :=
  homed_homeTraffic (homed_carry h _ _ _ _) _ _ _

/-! ### Busy lines (R221, R224) -/

theorem homed_dropLayer (line : Nat) : Homed s (dropLayer t line) := by
  unfold dropLayer
  split
  · exact homed_setLayer h _ _ _
  · exact h

theorem homed_moveAccess (m : Migration) : Homed s (moveAccess t m) := homed_tierAccess (homed_tierAccess h _) _

theorem homed_endMove (a : Nat) (m : Migration) : Homed s (endMove t a m) := by
  have hd := homed_dropLayer (homed_dropLayer (homed_moveAccess h m) (m.up * 512 + m.done)) (m.down * 512 + m.done)
  unfold endMove
  dsimp only
  split <;>
  · refine homed_moveAccess (homed_modTiers hd _ ?_) _
    exact fun _ => ⟨rfl, rfl⟩

theorem homed_settleMove (line : Nat) : Homed s (settleMove t line) := by
  unfold settleMove
  split
  · split
    · exact homed_endMove h _ _
    · exact h
  · exact h

theorem homed_settle (line : Nat) : Homed s (settle t line) := by
  have hm := homed_settleMove h line
  unfold settle
  dsimp only
  split
  · exact hm
  · next x _ =>
    have ha := homed_carryAll (homed_modHomes hm (fun h => { h with busy := h.busy.erase line }) fun _ => rfl) .ack line id
      (fun _ => paAgent (line * 128)) x.acks
    have hs : Homed s (match x.owner, x.forwarded with
        | some o, false => sendOwner (x.acks.foldl (fun s a => carry s .ack line a (paAgent (line * 128)))
            ((settleMove t line).modHomes fun h => { h with busy := h.busy.erase line })) line x.q o
        | _, _ => x.acks.foldl (fun s a => carry s .ack line a (paAgent (line * 128)))
            ((settleMove t line).modHomes fun h => { h with busy := h.busy.erase line })) := by
      split
      · exact homed_sendOwner ha _ _ _
      · exact ha
    split
    · split
      · exact homed_serveRdSWith (homed_sendAnswer hs _ _ _ _ _) _ _ _
      · exact homed_serveRdS (homed_sendAnswer hs _ _ _ _ _) _ _
    · exact homed_serveRdX (homed_sendAnswer hs _ _ _ _ _) _ _

end

theorem homed_serveWaiting {s : State} (line : Nat) : (l : List (Nat × Request × Nat)) → {t : State} → Homed s t →
    Homed s (serveWaiting t line l)
  | [], _, h => h
  | (l, r, q) :: rest, _, h => by
    unfold serveWaiting
    split
    · refine homed_serveWaiting line rest ?_
      split
      · exact homed_logTag h _ _
      · split
        · exact homed_serveRdS (homed_homeTraffic h _ _ _) _ _
        · split
          · exact h
          · exact homed_serveRdX (homed_homeTraffic h _ _ _) _ _
    · exact homed_serveWaiting line rest h

section
variable {s t : State} (h : Homed s t)
include h

theorem homed_serveAll (line : Nat) : Homed s (serveAll t line) := by
  unfold serveAll
  dsimp only
  split
  · exact homed_serveWaiting line _ (homed_modHomes h _ fun _ => rfl)
  · exact h

theorem homed_settleAll (line : Nat) : Homed s (settleAll t line) := by
  have hs := homed_serveAll (homed_settle h line) line
  unfold settleAll
  dsimp only
  split
  · exact homed_serveAll hs _
  · exact hs

/-! ### Obtaining a line (R206, R219, R258) -/

theorem homed_obtainS (q line : Nat) : Homed s (obtainS t q line) := by
  have ha := homed_serveRdS (homed_traffic (homed_settleAll h line) .rds q line) q line
  unfold obtainS
  dsimp only
  split
  · exact h
  · split
    · split
      · exact ha
      · exact homed_findErrors h _
    · exact ha

theorem homed_obtainM (q line : Nat) : Homed s (obtainM t q line) := by
  have ha (req : Request) := homed_serveRdX (homed_traffic (homed_settleAll h line) req q line) q line
  unfold obtainM
  dsimp only
  split
  · exact h
  · split
    · split
      · exact ha _
      · split
        · exact homed_findErrors h _
        · exact homed_setL2 (homed_findErrors h _) _ _ _
        · exact ha _
    · exact ha _

theorem homed_obtainPinned (q line : Nat) (e : W64) : Homed s (obtainPinned t q line e) :=
  homed_pin (homed_obtainM h q line) _ _ _ _

theorem homed_obtainShared (q line : Nat) (e : W64) : Homed s (obtainShared t q line e) :=
  homed_pin (homed_obtainS h q line) _ _ _ _

end

section
variable {w : Bool} {s t : State} (h : Served w s t)
include h

theorem served_touchLines (l : List Nat) : Served w s (touchLines t l) := h.homed (homed_touchLines (Homed.refl t) l)
theorem served_carry (kind : CohKind) (line src dst : Nat) : Served w s (carry t kind line src dst) :=
  h.homed (homed_carry (Homed.refl t) kind line src dst)
theorem served_carryAll (kind : CohKind) (line : Nat) (src dst : Nat → Nat) (l : List Nat) :
    Served w s (l.foldl (fun s a => carry s kind line (src a) (dst a)) t) := h.homed (homed_carryAll (Homed.refl t) kind line src dst l)
theorem served_homeAccess (q line : Nat) (reads : Bool) (bytes : List (Nat × Byte)) : Served w s (homeAccess t q line reads bytes) :=
  h.homed (homed_homeAccess (Homed.refl t) q line reads bytes)
theorem served_obtainS (q line : Nat) : Served w s (obtainS t q line) := h.homed (homed_obtainS (Homed.refl t) q line)
theorem served_obtainPinned (q line : Nat) (e : W64) : Served w s (obtainPinned t q line e) :=
  h.homed (homed_obtainPinned (Homed.refl t) q line e)
theorem served_obtainShared (q line : Nat) (e : W64) : Served w s (obtainShared t q line e) :=
  h.homed (homed_obtainShared (Homed.refl t) q line e)

theorem served_forgetL2 (q line : Nat) (had : Bool) : Served w s (forgetL2 t q line had) := by
  unfold forgetL2
  split
  · exact h
  · split
    · dsimp only
      split
      · exact served_setTag (served_dropL2 h _ _) _ _
      · exact served_dropL2 h _ _
    · exact h

theorem served_dropAt (a line : Nat) : Served w s (dropAt t a line) := by
  refine served_dropL2 (Served.foldl (fun u x hx => ?_) _ h) _ _
  dsimp only
  split
  · exact served_eraseL1 hx _ _
  · exact hx

theorem served_sendInv (line : Nat) : Served w s (sendInv t line) :=
  served_carryAll h .inv line (fun _ => paAgent (line * 128)) id _

theorem served_takeInv (line : Nat) : Served w s (takeInv t line) :=
  Served.foldl (fun _ _ hx => served_carry (served_dropAt hx _ _) _ _ _ _) _ h

theorem served_unpad (l : List (Nat × Nat)) : Served w s (unpad t l) := by
  unfold unpad
  split
  · exact h
  · exact h.update rfl rfl rfl rfl rfl

theorem served_written (l : List (Nat × Nat)) : Served w s (written t l) := by
  unfold written
  dsimp only
  split
  · exact served_unpad h _
  · exact Served.foldl (fun _ _ hx => served_cleanLine hx _) _ (served_unpad h _)

theorem served_mgmtLater (pa n x : Nat) : Served w s (mgmtLater t pa n x) := h.update rfl rfl rfl rfl rfl

theorem served_hubObtain (own : Bool) (e : W64) (line : Nat) : Served w s (hubObtain own e t line) := by
  unfold hubObtain
  dsimp only
  split
  · exact served_logNoContext h _ _
  · split
    · exact served_homeAccess h _ _ _ _
    · split
      · exact served_obtainPinned h _ _ _
      · exact served_obtainShared h _ _ _

theorem served_hubLines (own : Bool) (e : W64) (pa n : Nat) : Served w s (hubLines t own e pa n) :=
  Served.foldl (fun _ _ hx => served_hubObtain hx _ _ _) _ h

theorem served_walkerRead (q line : Nat) : Served w s (walkerRead q t line) := by
  unfold walkerRead
  split
  · exact h
  · split
    · exact served_obtainS h _ _
    · exact served_homeAccess h _ _ _ _

theorem served_hubWalk (j va : Nat) : Served w s (hubWalk t j va) :=
  Served.foldl (fun _ _ hx => served_walkerRead hx _ _) _ h

end

/-! ### What writes bytes (R196, R206, R212) -/

section
variable {s t : State} (h : Served true s t)
include h

/-- Bytes are written that leave the memory in canonical form. -/
theorem served_mem {m : List Host.Cell} (hm : Memory.wf t.mem = true → Memory.wf m = true) : Served true s { t with mem := m } :=
  h.trans ⟨fun _ => ⟨_, _, rfl⟩, ⟨_, _, rfl⟩, ⟨_, _, rfl⟩, hm, rfl⟩

theorem served_pushRaw (k line : Nat) : Served true s (pushRaw t k line) := by
  unfold pushRaw
  split
  · exact h
  · split
    · exact h
    · split
      · exact served_logNoContext h _ _
      · dsimp only
        refine served_setL1 (served_mem ?_ (Memory.wf_writeCells _)) _ _ _
        split
        · exact served_cleanLine (served_obtainPinned h _ _ _) _
        · exact served_obtainPinned h _ _ _

theorem served_giveUp (k line : Nat) : Served true s (giveUp t k line) := served_eraseL1 (served_pushRaw h _ _) _ _

end

theorem served_takeBack {s : State} (k line : Nat) : (l : List (Nat × Core)) → {t : State} → Served true s t →
    Served true s (takeBack t k line l)
  | [], _, h => h
  | (q, c) :: r, _, h => by
    unfold takeBack
    refine served_takeBack k line r ?_
    split_ifs
    · exact served_giveUp h _ _
    · exact h

section
variable {s t : State} (h : Served true s t)
include h

theorem served_reclaim (k line : Nat) : Served true s (reclaim t k line) := served_takeBack _ _ _ h
theorem served_reclaimAll (line : Nat) : Served true s (reclaimAll t line) := served_takeBack _ _ _ h

theorem served_pushLine (k line : Nat) : Served true s (pushLine t k line) := by
  unfold pushLine
  split
  · split
    · exact h
    · exact served_pushRaw (served_reclaim h _ _) _ _
  · exact h

theorem served_dropLine (k line : Nat) : Served true s (dropLine t k line) := served_eraseL1 (served_pushLine h _ _) _ _

theorem served_readThrough (k line : Nat) (e : W64) : Served true s (readThrough t k line e) :=
  served_obtainShared (served_reclaim h _ _) _ _ _

theorem served_makeWay (k line : Nat) : Served true s (makeWay t k line) := by
  unfold makeWay
  dsimp only
  split
  · exact h
  · split
    · exact served_dropLine (served_free h) _ _
    · exact h

theorem served_fillLine (k line : Nat) (e : W64) (hint : BitVec 2) : Served true s (fillLine t k line e hint) := by
  have hr := served_readThrough h k line e
  have hf : Served true s (if hint = 2 then forgetL2 (readThrough t k line e) (agentOfCore t k) line (holds t (agentOfCore t k) line)
      else readThrough t k line e) := by
    split
    · exact served_forgetL2 hr _ _ _
    · exact hr
  unfold fillLine
  dsimp only
  generalize (if hint = 2 then forgetL2 (readThrough t k line e) (agentOfCore t k) line (holds t (agentOfCore t k) line)
    else readThrough t k line e) = u at hf ⊢
  split
  · exact hf
  · split
    · exact served_setL1 hf _ _ _
    · exact served_setL1 (served_makeWay hf _ _) _ _ _

theorem served_storeByteL1 (k pa : Nat) (b : Byte) (e : W64) : Served true s (storeByteL1 t k pa b e) :=
  served_setL1 (served_makeWay h _ _) _ _ _

theorem served_drainByte (k pa : Nat) (b : Byte) (e : W64) : Served true s (drainByte t k pa b e) := by
  unfold drainByte
  split
  · split
    · exact served_mem (served_obtainPinned (served_reclaim h _ _) _ _ _) (Memory.wf_set _ _)
    · exact served_storeByteL1 h _ _ _ _
  · exact served_mem h (Memory.wf_set _ _)

theorem served_putMem (pa n x : Nat) : Served true s (putMem t pa n x) :=
  served_unpad (served_mem h (Memory.wf_write _ _)) _

theorem served_cpAtom (q pa : Nat) (e : W64) (n : Nat) (f : Nat → Nat) : Served true s (cpAtomOld t q pa e n f).2 := by
  unfold cpAtomOld
  split
  · exact served_mgmtLater h _ _ _
  · dsimp only
    refine served_putMem ?_ _ _ _
    split
    · exact served_homeAccess h _ _ _ _
    · exact served_obtainPinned (served_reclaimAll h _) _ _ _

theorem served_homeAtom (pa : Nat) (e : W64) (n : Nat) (f : Nat → Nat) : Served true s (homeAtom t pa e n f) := by
  unfold homeAtom
  split
  · exact served_logNoContext h _ _
  · split
    · exact h
    · exact served_cpAtom h _ _ _ _ _

theorem served_hubWrite (e : W64) (pa n x : Nat) : Served true s (hubWrite t e pa n x) := by
  unfold hubWrite
  split
  · exact served_mgmtLater h _ _ _
  · dsimp only
    split
    · exact served_putMem (served_hubLines h _ _ _ _) _ _ _
    · exact served_hubLines h _ _ _ _

theorem served_hubClear (e : W64) (pa n : Nat) : Served true s (hubClear t e pa n) := by
  unfold hubClear
  split
  · exact served_mgmtLater h _ _ _
  · dsimp only
    split
    · exact served_unpad (served_mem (served_hubLines h _ _ _ _) (Memory.wf_clear _ _)) _
    · exact served_hubLines h _ _ _ _

end

theorem served_dropOthers {s : State} (k line : Nat) : (l : List (Nat × Core)) → {t : State} → Served true s t →
    Served true s (dropOthers t k line l)
  | [], _, h => h
  | (q, c) :: r, _, h => by
    unfold dropOthers
    refine served_dropOthers k line r ?_
    split
    · exact served_dropLine h _ _
    · exact h

theorem served_drainBytes {s : State} (k : Nat) (ptes : List (Nat × W64)) : (l : List (Nat × Byte)) → {t : State} → Served true s t →
    Served true s (drainBytes t k ptes l)
  | [], _, h => h
  | (_, _) :: r, _, h => served_drainBytes k ptes r (served_drainByte h _ _ _ _)

theorem served_pushLines {s : State} (k : Nat) : (l : List Nat) → {t : State} → Served true s t → Served true s (pushLines t k l)
  | [], _, h => h
  | _ :: r, _, h => served_pushLines k r (served_pushLine h _ _)

theorem served_dropLines {s : State} (k : Nat) : (l : List Nat) → {t : State} → Served true s t → Served true s (dropLines t k l)
  | [], _, h => h
  | _ :: r, _, h => served_dropLines k r (served_dropLine h _ _)

theorem served_pushAll {s t : State} (h : Served true s t) (k : Nat) : Served true s (pushAll t k) := served_pushLines k _ h

end Sys2Proof.Serving
end

section
/-! SUPPORT. What an operation sees at issue is what it sees once its results have landed: nothing of the machine differs but the
write-timing buffer (R43, R58, R204, R227). -/
namespace Sys2Proof.AtIssue
open Sys2Proof Sys2Proof.Machine Sys2Proof.Claims Sys2Proof.Acting Sys2Proof.MemoryAccess Sys2Proof.Serving

/-! ### Translations and checks -/

section
variable (s : State) (c : Nat) (k : Slot)

theorem supOf_land (d : Nat) : supOf (land s c k []) d = supOf s d := by
  simp only [supOf, land_nil_ctx]

theorem lifeOf_land (d : Nat) : lifeOf (land s c k []) d = lifeOf s d := by
  simp only [lifeOf, land_nil_ctx]

theorem job_land (j : Nat) : (land s c k []).job j = s.job j := rfl
theorem hidOf_land (j : Nat) : hidOf (land s c k []) j = hidOf s j := by
  rw [hidOf, job_land, hidOf]
theorem agentOf_land (d : Nat) : agentOf (land s c k []) d = agentOf s d := rfl

theorem region_land : region (land s c k []) = region s := rfl
theorem homeOk_land : homeOk (land s c k []) = homeOk s := by
  unfold homeOk
  rw [region_land]
theorem leafOk_land : leafOk (land s c k []) = leafOk s := by
  unfold leafOk
  rw [region_land, homeOk_land]
theorem tableFault_land (t i : Nat) : tableFault (land s c k []) t i = tableFault s t i := rfl
theorem tableEntry_land (t i : Nat) : tableEntry (land s c k []) t i = tableEntry s t i := rfl
theorem tableRoot_land (j : Nat) : tableRoot (land s c k []) j = tableRoot s j := rfl

theorem walkFrom_land (va n : Nat) : walkFrom (land s c k []) va n = walkFrom s va n := by
  induction n with
  | zero => rfl
  | succ n ih =>
    funext t
    rw [walkFrom, walkFrom, tableEntry_land, homeOk_land, leafOk_land, ih]

theorem walkFaultFrom_land (va n : Nat) : walkFaultFrom (land s c k []) va n = walkFaultFrom s va n := by
  induction n with
  | zero => rfl
  | succ n ih =>
    funext t
    rw [walkFaultFrom, walkFaultFrom, tableFault_land, tableEntry_land, homeOk_land, ih]

theorem leaf_land (q j va : Nat) : leaf (land s c k []) q j va = leaf s q j va := by
  unfold leaf walk
  rw [walkFrom_land, tableRoot_land]
  rfl

theorem translate_land (q j va : Nat) : Machine.translate (land s c k []) q j va = Machine.translate s q j va := by
  unfold Machine.translate
  rw [leaf_land, region_land]

theorem walkCode_land (q j va : Nat) : walkCode (land s c k []) q j va = walkCode s q j va := by
  simp only [walkCode, walkFault, leaf_land, walkFaultFrom_land, tableRoot_land]

theorem permBad_land (sup : Bool) (acc : Access) : permBad (land s c k []) sup acc = permBad s sup acc := rfl
theorem hmBad_land : hmBad (land s c k []) = hmBad s := rfl

theorem translateGranules_land (q j lo : Nat) : (n g : Nat) →
    translateGranules (land s c k []) q j lo g n = translateGranules s q j lo g n
  | 0, _ => rfl
  | n + 1, g => by
    simp only [translateGranules, translate_land, translateGranules_land q j lo n]

theorem translateRange_land (q j va n : Nat) : translateRange (land s c k []) q j va n = translateRange s q j va n := by
  simp only [translateRange, translateGranules_land]

theorem checkRange_land (q j : Nat) (sup : Bool) (acc : Access) (va n : Nat) :
    checkRange (land s c k []) q j sup acc va n = checkRange s q j sup acc va n := by
  simp only [checkRange, translateRange_land, walkCode_land, permBad_land, hmBad_land]

theorem checkUse_land (d : Nat) (u : Use) (align va n : Nat) :
    checkUse (land s c k []) d u align va n = checkUse s d u align va n := by
  simp only [checkUse, jobOf_land, supOf_land, checkRange_land]

theorem checkPlace_land (d : Nat) (u : Use) (align va n : Nat) (clasp : Bool) :
    checkPlace (land s c k []) d u align va n clasp = checkPlace s d u align va n clasp := by
  simp only [checkPlace, checkUse_land, jobOf_land, translate_land]
  rfl

theorem counterPa_land (d : Nat) (r : Arch) (t : TileReg) : counterPa (land s c k []) d r t = counterPa s d r t := by
  simp only [counterPa, jobOf_land, translate_land]

theorem pinsOf_land (d : Nat) (l : List (Nat × Nat)) : pinsOf (land s c k []) d l = pinsOf s d l := by
  simp only [pinsOf, jobOf_land]

theorem multicast_land (d : Nat) (cores : List Nat) (l : List Move) : multicast (land s c k []) d cores l = multicast s d cores l := rfl

theorem regionFrames_land (d : Nat) (t : TileReg) : regionFrames (land s c k []) d t = regionFrames s d t := by
  simp only [regionFrames, jobOf_land, translateRange_land, walkCode_land]
  rfl

theorem ref_nameTile_land (d : Nat) (j : Slot) (on : Bool) (q : Port) (role : Role) :
    (nameTile (land s c k []) d j on q role).ref = (nameTile s d j on q role).ref := by
  simp only [nameTile, land_nil_ctx, regionFrames_land]

theorem tileRef_land (d : Nat) (q : Port) : tileRef (land s c k []) d q = tileRef s d q := ref_nameTile_land s c k d _ _ _ _

end

/-! ### Transfers -/

/-- The same bead stands at the same bundle in context `c`, with as many entries issued and released. -/
structure SameBead (c : Nat) (s t : State) : Prop where
  pos : t.pos = s.pos
  run : (t.ctx c).run = (s.ctx c).run
  pc : (t.ctx c).pc = (s.ctx c).pc
  issued : (t.ctx c).issued = (s.ctx c).issued
  released : (t.ctx c).released = (s.ctx c).released

section
variable {c : Nat} {s t : State}

theorem sameBead_land (s : State) (c : Nat) (k : Slot) (d : Nat) : SameBead d s (land s c k []) := by
  have h := land_nil_ctx s c k d
  exact ⟨rfl, congrArg Ctx.run h, congrArg Ctx.pc h, congrArg Ctx.issued h, congrArg Ctx.released h⟩

theorem SameBead.trans {u : State} (h : SameBead c s t) (g : SameBead c t u) : SameBead c s u :=
  ⟨g.pos.trans h.pos, g.run.trans h.run, g.pc.trans h.pc, g.issued.trans h.issued, g.released.trans h.released⟩

theorem sameBead_served {w : Bool} (h : Served w s t) (c : Nat) : SameBead c s t := by
  obtain ⟨p, q, hc⟩ := h.ctx c
  exact ⟨h.pos, by rw [hc], by rw [hc], by rw [hc], by rw [hc]⟩

theorem sameBead_modArch (s : State) (c d : Nat) (f : Arch → Arch) : SameBead d s (s.modArch c f) := by
  by_cases h : d = c
  · subst h
    exact ⟨rfl, by simp, by simp, by simp, by simp⟩
  · have hc : (s.modArch c f).ctx d = s.ctx d := State.modCtx_ctx_ne s _ h
    exact ⟨rfl, by rw [hc], by rw [hc], by rw [hc], by rw [hc]⟩

theorem SameBead.jobOf (h : SameBead c s t) : jobOf t c = jobOf s c := by
  simp only [Machine.jobOf, h.run]

/-- A transfer is that of its bead at its bundle. -/
theorem newTransfer_congr (h : SameBead c s t) (kind : TransferKind) (tiles : List Nat) (pieces : List Piece)
    (counter : Option (Nat × W64)) (pins : List (Nat × Nat × Nat)) (leaves : List (Nat × W64)) :
    newTransfer t c kind tiles pieces counter pins leaves = newTransfer s c kind tiles pieces counter pins leaves := by
  simp only [newTransfer, lifeOf, Machine.jobOf, agentOf, agentOfCore, h.run, h.pc, h.issued, h.released, h.pos]

theorem multicast_congr (h : SameBead c s t) (cores : List Nat) (l : List Move) : multicast t c cores l = multicast s c cores l := by
  simp only [multicast, agentOf, agentOfCore, h.pos]

end

end Sys2Proof.AtIssue
end

section
/-! SUPPORT. What walks of the page tables, reads at issue and fetches of records and bundles change (R216, R228, R248, R266). -/
namespace Sys2Proof.Reading
open Sys2Proof Sys2Proof.Machine Sys2Proof.Serving

/-! ### Page walks -/

section
variable {w : Bool} {s t : State} (h : Served w s t)
include h

theorem served_keepCore (k : Nat) (e : TlbEntry) : Served w s (keepCore t k e) := served_modCore h k _
theorem served_keepDie (d : Nat) (e : TlbEntry) : Served w s (keepDie t d e) := h.update rfl rfl rfl rfl rfl

theorem served_pageWalk (c va : Nat) : Served w s (pageWalk t c va) := by
  unfold pageWalk
  split
  · exact h
  · next b _ =>
    have hr : Served w s ((walkLines t b.job va).foldl (walkerRead (agentOf t c)) t) :=
      Served.foldl (fun _ _ hx => served_walkerRead hx _ _) _ h
    dsimp only
    split
    · exact h
    · split
      · exact served_keepCore h _ _
      · split
        · exact served_keepDie (served_keepCore hr _ _) _ _
        · exact hr

theorem served_walkRange (c va n : Nat) : Served w s (walkRange t c va n) :=
  Served.foldl (fun _ _ hx => served_pageWalk hx _ _) _ h

theorem served_walkPins (c : Nat) (pins : List (Nat × Nat × Nat)) : Served w s (walkPins t c pins) :=
  Served.foldl (fun _ _ hx => served_walkRange hx _ _ _) _ h

theorem served_walkSegs (c : Nat) (l : List Seg) : Served w s (walkSegs t c l) :=
  Served.foldl (fun _ _ hx => served_pageWalk hx _ _) _ h

theorem served_walkRead (c : Nat) (r : ReadWhat) : Served w s (walkRead t c r) := by
  cases r with
  | bytes l hint => exact served_walkSegs h c l
  | _ => exact h

/-! ### Records and bundles -/

theorem served_pointRead (q pa : Nat) (e : W64) : Served w s (pointRead t q pa e).2 := by
  unfold pointRead
  dsimp only
  split
  · exact h
  · split
    · exact served_homeAccess h _ _ _ _
    · exact served_obtainShared h _ _ _

theorem served_fetchRecord (c pa : Nat) (e : W64) : Served w s (fetchRecord t c pa e).2 := by
  unfold fetchRecord
  dsimp only
  split
  · exact h
  · exact (served_pointRead h _ _ _).update rfl rfl rfl rfl rfl

theorem served_keepRecord (c : Nat) (rr : RecordRead) : Served w s (keepRecord t c rr) := by
  unfold keepRecord
  split
  · exact served_fetchRecord (served_pageWalk h _ _) _ _ _
  · exact h

theorem served_fillIcache (k pa : Nat) (e : W64) : Served w s (fillIcache t k pa e) := by
  unfold fillIcache
  dsimp only
  split
  · exact h
  · exact served_modCore (served_pointRead h _ _ _) _ _

theorem served_fetchLine (c : Nat) : Served w s (fetchLine t c) := by
  unfold fetchLine
  split
  · exact h
  · exact served_fillIcache (served_pageWalk h _ _) _ _ _

end

/-! ### Reads at issue -/

section
variable {s t : State} (h : Served true s t)
include h

theorem served_readLine (k life : Nat) (hint : BitVec 2) (own : List (Option Byte)) (g : Seg) :
    Served true s (readLine t k life hint own g).2.2 := by
  have hf := served_fillLine h k (g.pa / 128) g.pte hint
  have hr := served_readThrough h k (g.pa / 128) g.pte
  unfold readLine
  dsimp only
  split
  · exact h
  · split
    · exact served_homeAccess h _ _ _ _
    · split
      · split
        · exact h
        · split
          · exact hr
          · dsimp only
            exact served_countLater hf _ _ _
      · exact hr
      · split
        · dsimp only
          exact served_countLater hf _ _ _
        · exact hf

end

theorem served_readSegs {s : State} (c life before : Nat) (hint : BitVec 2) : (l : List Seg) → (r : Nat × List Nat × State) →
    Served true s r.2.2 → Served true s (readSegs c life before hint l r).2.2
  | [], _, h => h
  | g :: l, (v, lines, t), h => by
    unfold readSegs
    dsimp only
    split
    · exact served_readSegs c life before hint l _ h
    · exact served_readSegs c life before hint l _ (served_readLine h _ _ _ _ _)

theorem served_issueRead {s t : State} (h : Served true s t) (c : Nat) (l : List Seg) : Served true s (issueRead t c l).2 :=
  served_readSegs _ _ _ _ l _ (served_walkSegs h c l)

theorem served_prefetch {s t : State} (h : Served true s t) (c va : Nat) (hint : BitVec 2) : Served true s (prefetch t c va hint) := by
  unfold prefetch
  split
  · exact h
  · dsimp only
    split
    · exact served_pageWalk h _ _
    · split
      · exact served_readThrough (served_pageWalk h _ _) _ _ _
      · exact served_fillLine (served_pageWalk h _ _) _ _ _ _

/-! ### The hub's accesses to a job's memory (R7, R266) -/

theorem served_logWalk {w : Bool} {s t : State} (h : Served w s t) (j va : Nat) : Served w s (logWalk t j va) := by
  unfold logWalk
  split
  · exact served_logNoContext h _ _
  · exact h

theorem served_vEach {w : Bool} {s t : State} {f : State → W64 → Nat → Nat → Nat → State}
    (hf : ∀ u e pa k o, Served w s u → Served w s (f u e pa k o)) (h : Served w s t) (j va n : Nat) : Served w s (vEach f t j va n) := by
  refine Served.foldl (fun u x hx => ?_) _ h
  dsimp only
  split
  · exact hf _ _ _ _ _ (served_hubWalk hx _ _)
  · exact served_logWalk (served_hubWalk hx _ _) _ _

theorem served_vSee {w : Bool} {s t : State} (h : Served w s t) (j va n : Nat) : Served w s (vSee t j va n) :=
  served_vEach (fun _ _ _ _ _ hu => served_hubLines hu _ _ _ _) h _ _ _

theorem served_vWrite {s t : State} (h : Served true s t) (j va n x : Nat) : Served true s (vWrite t j va n x) :=
  served_vEach (fun _ _ _ _ _ hu => served_hubWrite hu _ _ _ _) h _ _ _

theorem served_vClear {s t : State} (h : Served true s t) (j va n : Nat) : Served true s (vClear t j va n) :=
  served_vEach (fun _ _ _ _ _ hu => served_hubClear hu _ _ _) h _ _ _

theorem served_vAtomStep {s t : State} (h : Served true s t) (j va n : Nat) (f : Nat → Nat) : Served true s (vAtomStep t j va n f) := by
  unfold vAtomStep
  split
  · exact served_homeAtom (served_hubWalk h _ _) _ _ _ _
  · exact served_logWalk (served_hubWalk h _ _) _ _

theorem served_seeChannel {w : Bool} {s t : State} (h : Served w s t) (j ch : Nat) : Served w s (seeChannel t j ch) :=
  served_vSee (served_vSee h _ _ _) _ _ _

/-! ### Lookups of names (R206, R263) -/

theorem served_homeFlits {w : Bool} {s t : State} (h : Served w s t) (x : Name) : Served w s (homeFlits t x) := by
  unfold homeFlits
  split
  · exact h
  · exact served_countFabric (served_countFabric (served_fabricOut h _) _) _

theorem served_look {w : Bool} {s t : State} (h : Served w s t) (hid : Nat) (x : Name) : Served w s (look t hid x) := by
  unfold look
  dsimp only
  split
  · exact h
  · exact served_touchLines (served_homeFlits h _) _

end Sys2Proof.Reading
end

section
/-! SUPPORT. Operations that start a tile transfer, and tile loads that mark their register (R182, R211, R240, R241, R245, R247, R280,
R384). -/
namespace Sys2Proof.TileStart
open Sys2Proof Sys2Proof.Machine Sys2Proof.Claims Sys2Proof.Lone Sys2Proof.Effects Sys2Proof.Acting Sys2Proof.MemoryAccess
open Sys2Proof.Serving Sys2Proof.AtIssue Sys2Proof.Reading

/-! ### Tile loads (R241) -/

theorem specFail_eq_none {spec : Bool} {l : List (Sum (TrapCode × Nat) Frames)}
    (h : (if spec then specFail true l else none) = none) : specFail spec l = none := by
  cases spec
  · rfl
  · exact h

theorem modest_opTld (a : LArgs) (s : State) : Modest (opTld a s.cur s) := by
  unfold opTld
  dsimp only
  exact modest_ite (modest_of_eq rfl rfl rfl rfl rfl rfl rfl) (modest_of_eq rfl rfl rfl rfl rfl rfl rfl)

theorem modest_opTldh (a : LArgs) (s : State) : Modest (opTldh a s.cur s) := by
  unfold opTldh
  dsimp only
  exact modest_ite (modest_of_eq rfl rfl rfl rfl rfl rfl rfl) (modest_of_eq rfl rfl rfl rfl rfl rfl rfl)

section
variable {a : LArgs} {s : State} {on : Bool} {pre : State → State} {x : Transfer}

/-- A `tld` starts the transfer that the claim names, or marks its register (R182, R241). -/
theorem opTld_act (h : startedTransfer s (.tld a) = some (on, pre, x)) : (opTld a s.cur s).act (land s s.cur .s []) =
    if on then loadTile s.cur .ld (tileNo a.dst) a.spec (specFail a.spec (tldChecks a s.cur s)) x (land s s.cur .s [])
    else land s s.cur .s [] := by
  cases h
  cases hon : enabledS (s.ctx s.cur).arch a.pred a.neg
  · simp only [opTld, onL, hon]
    rfl
  · simp only [opTld, onL, hon, Bool.not_true, Bool.false_eq_true, if_false, if_true, newTransfer_congr (sameBead_land s s.cur .s s.cur),
      counterPa_land, pinsOf_land, multicast_land]
    rfl

theorem opTldh_act_of_disabled (hon : enabledS (s.ctx s.cur).arch a.pred a.neg = false) : (opTldh a s.cur s).act = id := by
  simp only [opTldh, onL, hon]
  rfl

/-- A `tldh` whose memory can be read reads its record, moves its block offsets and starts the transfer that the claim names (R241). -/
theorem opTldh_act_of_none (hon : enabledS (s.ctx s.cur).arch a.pred a.neg = true)
    (hf : specFail a.spec (tldhChecks a s.cur s) = none) {f : Frames}
    (hc : (readRecord s s.cur (readScalar (s.ctx s.cur).arch 0 a.base).toNat).check = .inr f)
    (h : startedTransfer s (.tldh a) = some (on, pre, x)) : (opTldh a s.cur s).act (land s s.cur .s []) =
      startTransfer (pre (land s s.cur .s [])) x := by
  cases h
  have hb := (sameBead_land s s.cur .s s.cur).trans ((sameBead_served (served_keepRecord (Served.refl false _) s.cur
    (readRecord s s.cur (readScalar (s.ctx s.cur).arch 0 a.base).toNat)) s.cur).trans (sameBead_modArch _ s.cur s.cur
      fun r => setTReg r (tileNo a.dst) { tReg r (tileNo a.dst) with image := (tldhTile a s.cur s).reg.image }))
  simp only [opTldh, onL, hon, Bool.not_true, Bool.false_eq_true, if_false, hf, Option.isSome_none, newTransfer_congr hb,
    multicast_congr hb, counterPa_land, pinsOf_land, loadTile]
  unfold keepRecord
  rw [hc]
  rfl

/-- A speculative `tldh` whose memory cannot be read marks its register (R182). -/
theorem opTldh_act_of_some (hon : enabledS (s.ctx s.cur).arch a.pred a.neg = true) {code : TrapCode} {va : Nat}
    (hf : specFail a.spec (tldhChecks a s.cur s) = some (code, va)) (u : State) :
    ∃ t, (opTldh a s.cur s).act u = loadTile s.cur .ld (tileNo a.dst) a.spec (some (code, va)) t
      (keepRecord u s.cur (readRecord s s.cur (readScalar (s.ctx s.cur).arch 0 a.base).toNat)) := by
  simp only [opTldh, onL, hon, Bool.not_true, Bool.false_eq_true, if_false, hf, Option.isSome_some, if_true]
  exact ⟨_, rfl⟩

/-- A `tldh` whose checks pass has been able to read its record (R241). -/
theorem exists_frames_of_tldh (hon : enabledS (s.ctx s.cur).arch a.pred a.neg = true)
    (hf : specFail a.spec (tldhChecks a s.cur s) = none) (ht : (opTldh a s.cur s).traps = []) :
    ∃ f, (readRecord s s.cur (readScalar (s.ctx s.cur).arch 0 a.base).toNat).check = .inr f := by
  simp only [opTldh, onL, hon, Bool.not_true, Bool.false_eq_true, if_false, hf, Option.isSome_none, List.append_eq_nil_iff] at ht
  obtain ⟨⟨_, hacc⟩, _⟩ := ht
  have hall := failsOf_of_accessTraps hacc
  unfold tldhChecks at hall
  dsimp only at hall
  cases hc : (readRecord s s.cur (readScalar (s.ctx s.cur).arch 0 a.base).toNat).check with
  | inr f => exact ⟨f, rfl⟩
  | inl e =>
    rw [hc] at hall
    cases hall

end

/-! ### Zero-mask blocks and the transform engine (R245, R247) -/

theorem modest_opTexp (a : TArgs) (s : State) : Modest (opTexp a s.cur s) := by
  unfold opTexp
  dsimp only
  exact modest_ite (modest_of_eq rfl rfl rfl rfl rfl rfl rfl) (modest_of_eq rfl rfl rfl rfl rfl rfl rfl)

theorem modest_transformOp (a : TArgs) (reads : List Nat) (illegal clash : Bool) (names : List Named) (dst : TileRef)
    (kind : State → TransferKind) (moves : List Move) (s : State) :
    Modest (transformOp a reads illegal clash names dst kind moves s.cur s) := by
  unfold transformOp
  dsimp only
  exact modest_ite (modest_of_eq rfl rfl rfl rfl rfl rfl rfl) (modest_of_eq rfl rfl rfl rfl rfl rfl rfl)

/-- The operation `o` starts the transfer `x` if it is enabled, after `pre`. -/
def Starts (s : State) (on : Bool) (pre : State → State) (x : Transfer) (o : Op) : Prop :=
  Modest o ∧ o.act (land s s.cur .s []) = (if on then fun u => startTransfer (pre u) x else id) (land s s.cur .s [])

section
variable {s : State} {on : Bool} {pre : State → State} {x : Transfer}

theorem starts_opTexp {a : TArgs} (h : startedTransfer s (.texp a) = some (on, pre, x)) : Starts s on pre x (opTexp a s.cur s) := by
  refine ⟨modest_opTexp a s, ?_⟩
  cases h
  cases hon : enabledS (s.ctx s.cur).arch a.pred false
  · simp only [opTexp, onT, hon]
    rfl
  · simp only [opTexp, onT, hon, Bool.not_true, Bool.false_eq_true, if_false, newTransfer_congr (sameBead_land s s.cur .s s.cur),
      counterPa_land, pinsOf_land]
    rfl

/-- The transform engine starts the one transfer that the claim names (R245). -/
theorem starts_transformOp {a : TArgs} {reads : List Nat} {illegal clash : Bool} {names : List Named} {dst : TileRef}
    {kind : State → TransferKind} {moves : List Move} (hk : kind (land s s.cur .s []) = kind s) :
    Starts s (enabledS (s.ctx s.cur).arch a.pred false) id
      (transferWith s (kind s) (names.map fun n => n.ref.tl) (wholePiece moves) dst.reg [] [])
      (transformOp a reads illegal clash names dst kind moves s.cur s) := by
  refine ⟨modest_transformOp a reads illegal clash names dst kind moves s, ?_⟩
  cases hon : enabledS (s.ctx s.cur).arch a.pred false
  · simp only [transformOp, onT, hon]
    rfl
  · simp only [transformOp, onT, hon, Bool.not_true, Bool.false_eq_true, if_false, newTransfer_congr (sameBead_land s s.cur .s s.cur),
      counterPa_land, pinsOf_land, hk]
    rfl

theorem starts_opTcopy {a : TArgs} (h : startedTransfer s (.tcopy a) = some (on, pre, x)) : Starts s on pre x (opTcopy a s.cur s) := by
  cases h
  exact starts_transformOp rfl

theorem starts_opTtrans {a : TArgs} (h : startedTransfer s (.ttrans a) = some (on, pre, x)) :
    Starts s on pre x (opTtrans a s.cur s) := by
  cases h
  exact starts_transformOp rfl

theorem starts_opTconv {a : TArgs} (h : startedTransfer s (.tconv a) = some (on, pre, x)) : Starts s on pre x (opTconv a s.cur s) := by
  cases h
  refine starts_transformOp ?_
  rw [land_nil_ctx]

theorem starts_opTfill {a : TArgs} (h : startedTransfer s (.tfill a) = some (on, pre, x)) : Starts s on pre x (opTfill a s.cur s) := by
  cases h
  exact starts_transformOp rfl

/-! ### Fetches of lines by name, and receives (R280, R384) -/

theorem modest_opHmget (a : TArgs) (s : State) : Modest (opHmget a s.cur s) := by
  unfold opHmget
  dsimp only
  exact modest_ite (modest_of_eq rfl rfl rfl rfl rfl rfl rfl) (modest_of_eq rfl rfl rfl rfl rfl rfl rfl)

theorem starts_opHmget {a : TArgs} (ht : (opHmget a s.cur s).traps = []) (h : startedTransfer s (.hmget a) = some (on, pre, x)) :
    Starts s on pre x (opHmget a s.cur s) := by
  refine ⟨modest_opHmget a s, ?_⟩
  cases h
  cases hon : enabledS (s.ctx s.cur).arch a.pred false
  · simp only [opHmget, onT, hon]
    rfl
  · have hk : (hmTiles s s.cur true [(a.dst, .load, 128, 0, 1), (a.a, .use, 16, rowOf (s.ctx s.cur).arch a.b, 1)]).traps = [] := by
      by_contra hk
      simp only [opHmget, onT, hon, Bool.not_true, Bool.false_or] at ht
      rw [if_pos (by simpa using hk)] at ht
      exact hk ht
    have hb := (sameBead_land s s.cur .s s.cur).trans (sameBead_served (served_look (served_issueRead (Served.refl true _) s.cur
      (tileSegs (tileRef s s.cur a.a) (rowOf (s.ctx s.cur).arch a.b * (tileRef s s.cur a.a).reg.pitch) 16))
        (hidOf (land s s.cur .s []) (jobOf (land s s.cur .s []) s.cur)) (BitVec.ofNat 128 (issueRead s s.cur
      (tileSegs (tileRef s s.cur a.a) (rowOf (s.ctx s.cur).arch a.b * (tileRef s s.cur a.a).reg.pitch) 16)).1)) s.cur)
    simp only [opHmget, onT, hon, hk, Bool.not_true, List.isEmpty_nil, Bool.or_self, Bool.false_eq_true, if_false,
      newTransfer_congr hb, counterPa_land, pinsOf_land]
    have hn (q : Port) : named s .tm q .mutation = tileRef s s.cur q := rfl
    simp only [hn, rowOf, if_true]
    generalize findName s _ _ = found
    cases found <;> rfl

theorem modest_opChrecv (a : YArgs) (s : State) : Modest (opChrecv a s.cur s) := by
  unfold opChrecv
  dsimp only
  exact modest_ite (modest_of_eq rfl rfl rfl rfl rfl rfl rfl) (modest_of_eq rfl rfl rfl rfl rfl rfl rfl)

theorem starts_opChrecv {a : YArgs} (h : startedTransfer s (.chrecv a) = some (on, pre, x)) :
    Starts s on pre x (opChrecv a s.cur s) := by
  refine ⟨modest_opChrecv a s, ?_⟩
  cases h
  cases hon : enabledS (s.ctx s.cur).arch a.pred false
  · simp only [opChrecv, onY, hon]
    rfl
  · simp only [opChrecv, onY, hon, Bool.not_true, Bool.false_eq_true, if_false, jobOf_land, counterPa_land, pinsOf_land]
    rw [newTransfer_congr (s := s)]
    · rfl
    · exact (sameBead_land s s.cur .s s.cur).trans ⟨rfl, rfl, rfl, rfl, rfl⟩

end

/-! ### The obligations -/

section
variable {s : State} {on : Bool} {pre : State → State} {x : Transfer} {a : LArgs}

theorem starts_opTld (hl : loadFailure s (.tld a) = none) (h : startedTransfer s (.tld a) = some (on, pre, x)) :
    Starts s on pre x (opTld a s.cur s) := by
  refine ⟨modest_opTld a s, (opTld_act h).trans ?_⟩
  rw [specFail_eq_none hl]
  cases h
  cases enabledS (s.ctx s.cur).arch a.pred a.neg <;> rfl

theorem starts_opTldh (hl : loadFailure s (.tldh a) = none) (ht : (opTldh a s.cur s).traps = [])
    (h : startedTransfer s (.tldh a) = some (on, pre, x)) : Starts s on pre x (opTldh a s.cur s) := by
  refine ⟨modest_opTldh a s, ?_⟩
  have hf := specFail_eq_none hl
  have hx : on = enabledS (s.ctx s.cur).arch a.pred a.neg := by cases h; rfl
  cases hon : enabledS (s.ctx s.cur).arch a.pred a.neg
  · rw [opTldh_act_of_disabled hon, hx, hon]
    rfl
  · obtain ⟨f, hc⟩ := exists_frames_of_tldh hon hf ht
    rw [opTldh_act_of_none hon hf hc h, hx, hon]
    rfl

end

/-- An operation that the claim names starts its transfer (R211, R240). -/
theorem starts_of_startedTransfer {s : State} {i : Instr} {f : OpFn} {on : Bool} {pre : State → State} {x : Transfer}
    (h : startedTransfer s i = some (on, pre, x)) (hf : slotOp i = some f) (hl : loadFailure s i = none)
    (ht : (f s.cur s).traps = []) : (∃ k, slotOf i = some k) ∧ loneHeader i = {} ∧ Starts s on pre x (f s.cur s) := by
  cases i with
  | tld a => cases hf; exact ⟨⟨_, rfl⟩, rfl, starts_opTld hl h⟩
  | tldh a => cases hf; exact ⟨⟨_, rfl⟩, rfl, starts_opTldh hl ht h⟩
  | texp a => cases hf; exact ⟨⟨_, rfl⟩, rfl, starts_opTexp h⟩
  | tcopy a => cases hf; exact ⟨⟨_, rfl⟩, rfl, starts_opTcopy h⟩
  | ttrans a => cases hf; exact ⟨⟨_, rfl⟩, rfl, starts_opTtrans h⟩
  | tconv a => cases hf; exact ⟨⟨_, rfl⟩, rfl, starts_opTconv h⟩
  | tfill a => cases hf; exact ⟨⟨_, rfl⟩, rfl, starts_opTfill h⟩
  | hmget a => cases hf; exact ⟨⟨_, rfl⟩, rfl, starts_opHmget ht h⟩
  | chrecv a => cases hf; exact ⟨⟨_, rfl⟩, rfl, starts_opChrecv h⟩
  | _ => cases h

/-- Settles O30. -/
theorem tileTransfers : Obligations.TileTransfers := by
  intro i f on pre x s b h hf hw hs ha hl
  obtain ⟨⟨k, hk⟩, hh, hm, he⟩ := starts_of_startedTransfer h hf hl ha.checks
  exact acts_of_allowed hf hk hh hw hs ha hm he

/-- The mark of a speculative load that fails: its failing address has been walked, unless it is not aligned (R182). -/
theorem loadTile_of_some (c : Nat) (n : BitVec 5) (code : TrapCode) (va : Nat) (t : Transfer) (u : State) :
    loadTile c .ld n true (some (code, va)) t u = (walkFailed c code va u).modArch c fun r =>
      setTReg r n { tReg r n with abandoned := some { pc := (u.ctx c).pc, slot := .ld, code := code, addr := va } } := by
  simp only [loadTile, walkFailed, if_true, beq_iff_eq]

theorem keepRecord_eq (s u : State) (a : LArgs) :
    keepRecord u s.cur (readRecord s s.cur (readScalar (s.ctx s.cur).arch 0 a.base).toNat) = recordRead s (.tldh a) u := rfl

/-- A speculative tile load that fails marks its register, once its record has been read (R182, R183). -/
theorem act_of_loadFailure {s : State} {i : Instr} {f : OpFn} {a : LArgs} {code : TrapCode} {va : Nat} (hi : tileLoad i = some a)
    (hf : slotOp i = some f) (hon : enabledS (s.ctx s.cur).arch a.pred a.neg = true) (hl : loadFailure s i = some (code, va)) :
    slotOf i = some .ld ∧ loneHeader i = {} ∧ Modest (f s.cur s) ∧
      (f s.cur s).act (land s s.cur .s []) = (walkFailed s.cur code va (recordRead s i (land s s.cur .s []))).modArch s.cur fun r =>
        setTReg r (tileNo a.dst) { tReg r (tileNo a.dst) with
          abandoned := some { pc := (s.ctx s.cur).pc, slot := .ld, code := code, addr := va } } := by
  cases i with
  | tld a' =>
    cases hi
    cases hf
    refine ⟨rfl, rfl, modest_opTld a s, ?_⟩
    obtain ⟨hspec, hfail⟩ := Option.ite_none_right_eq_some.mp hl
    rw [opTld_act (on := enabledS (s.ctx s.cur).arch a.pred a.neg) rfl, hon, hspec, hfail, if_pos rfl, loadTile_of_some,
      land_nil_ctx]
    rfl
  | tldh a' =>
    cases hi
    cases hf
    refine ⟨rfl, rfl, modest_opTldh a s, ?_⟩
    obtain ⟨hspec, hfail⟩ := Option.ite_none_right_eq_some.mp hl
    obtain ⟨t, hact⟩ := opTldh_act_of_some hon (by rw [hspec]; exact hfail) (land s s.cur .s [])
    have hb := (sameBead_land s s.cur .s s.cur).trans (sameBead_served (served_keepRecord (Served.refl false _) s.cur
      (readRecord s s.cur (readScalar (s.ctx s.cur).arch 0 a.base).toNat)) s.cur)
    rw [hact, hspec, loadTile_of_some, hb.pc, keepRecord_eq]
  | _ => cases hi

/-- Settles O31. -/
theorem speculativeTileLoad : Obligations.SpeculativeTileLoad := by
  intro i f a code va s b hi hf hw hs ha hon hl
  obtain ⟨hk, hh, hm, he⟩ := act_of_loadFailure hi hf hon hl
  exact acts_of_allowed hf hk hh hw hs ha hm he

end Sys2Proof.TileStart
end

section
/-! SUPPORT. Operations on tiles that are withheld as one entry, and `tdef` (R232, R239, R242, R244, R247, R249, R353, R355). -/
namespace Sys2Proof.TileEntry
open Sys2Proof Sys2Proof.Machine Sys2Proof.Claims Sys2Proof.Lone Sys2Proof.Effects Sys2Proof.Acting Sys2Proof.MemoryAccess
open Sys2Proof.Serving Sys2Proof.AtIssue Sys2Proof.Reading Sys2Proof.TileStart

/-- The operation `o` withholds the entry that the claim names, if it is enabled, after `pre`. -/
def Withholds (s : State) (k : Slot) (y : Bool × (State → State) × (State → Act) × List (Nat × Nat × Nat)) (o : Op) : Prop :=
  Modest o ∧ o.act (land s s.cur .s []) =
    (if y.1 then fun u => withhold (y.2.1 u) s.cur k (y.2.2.1 u) y.2.2.2 else id) (land s s.cur .s [])

section
variable {s : State} {y : Bool × (State → State) × (State → Act) × List (Nat × Nat × Nat)}

/-! ### Tile stores (R242) -/

theorem withholds_opTst {a : STArgs} (h : tileEntry s (.tst a) = some y) : Withholds s .st y (opTst a s.cur s) := by
  cases h
  cases hon : enabledS (s.ctx s.cur).arch a.pred false
  · simp only [Withholds, opTst, hon]
    exact ⟨modest_of_eq rfl rfl rfl rfl rfl rfl rfl, rfl⟩
  · simp only [Withholds, opTst, hon, Bool.not_true, Bool.false_eq_true, if_false,
      newTransfer_congr (sameBead_land s s.cur .s s.cur), counterPa_land, pinsOf_land]
    exact ⟨modest_of_eq rfl rfl rfl rfl rfl rfl rfl, rfl⟩

theorem withholds_opTsth {a : STArgs} (ht : (opTsth a s.cur s).traps = []) (h : tileEntry s (.tsth a) = some y) :
    Withholds s .st y (opTsth a s.cur s) := by
  cases h
  cases hon : enabledS (s.ctx s.cur).arch a.pred false
  · simp only [Withholds, opTsth, hon]
    exact ⟨modest_of_eq rfl rfl rfl rfl rfl rfl rfl, rfl⟩
  · simp only [Withholds, opTsth, hon, Bool.not_true, Bool.false_eq_true, if_false, List.append_eq_nil_iff,
      newTransfer_congr (sameBead_land s s.cur .s s.cur), counterPa_land, pinsOf_land] at ht ⊢
    obtain ⟨⟨_, hacc⟩, _⟩ := ht
    have hall := failsOf_of_accessTraps hacc
    refine ⟨modest_of_eq rfl rfl rfl rfl rfl rfl rfl, ?_⟩
    unfold keepRecord
    cases hc : (readRecord s s.cur (readScalar (s.ctx s.cur).arch 0 a.base).toNat).check with
    | inr f => rfl
    | inl e =>
      rw [hc] at hall
      cases hall

/-! ### `append` (R244) -/

theorem checkTransfer_of_headerCheck {c va : Nat} {f : Frames} (h : headerCheck s c va = .inr f) :
    checkTransfer s c .atomic 128 va 16 = .inr f := by
  unfold headerCheck at h
  split at h
  · cases h
  · exact h

theorem withholds_opAppend {a : STArgs} (ht : (opAppend a s.cur s).traps = []) (h : tileEntry s (.append a) = some y) :
    Withholds s .st y (opAppend a s.cur s) := by
  cases h
  cases hon : enabledS (s.ctx s.cur).arch a.pred false
  · simp only [Withholds, opAppend, hon]
    exact ⟨modest_of_eq rfl rfl rfl rfl rfl rfl rfl, rfl⟩
  · cases hc : headerCheck s s.cur (readScalar (s.ctx s.cur).arch 0 a.base).toNat with
    | inl e =>
      simp only [opAppend, hon, hc, Bool.not_true, Bool.false_eq_true, if_false, List.append_eq_nil_iff] at ht
      cases failsOf_of_accessTraps ht.2
    | inr f =>
      have hf : transferFrames s .atomic 128 [((readScalar (s.ctx s.cur).arch 0 a.base).toNat, 16)] = f := by
        simp only [transferFrames, List.map_cons, List.map_nil, checkTransfer_of_headerCheck hc]
        exact List.append_nil f
      have hfl : (framesOf [(.inr f : Sum (TrapCode × Nat) Frames)]).flatten = f := List.append_nil f
      have hb := (sameBead_land s s.cur .s s.cur).trans (sameBead_served (served_issueRead (Served.refl true _) s.cur
        (segsOf f (readScalar (s.ctx s.cur).arch 0 a.base).toNat 16 0)) s.cur)
      simp only [Withholds, opAppend, hon, hc, hf, hfl, Bool.not_true, Bool.false_eq_true, if_false, newTransfer_congr hb,
        counterPa_land, pinsOf_land]
      exact ⟨modest_of_eq rfl rfl rfl rfl rfl rfl rfl, rfl⟩

/-! ### `tcmp` and `tsrf` (R247, R249) -/

theorem withholds_opTcmp {a : TArgs} (ht : (opTcmp a s.cur s).traps = []) (h : tileEntry s (.tcmp a) = some y) :
    Withholds s .tm y (opTcmp a s.cur s) := by
  cases h
  cases hon : enabledS (s.ctx s.cur).arch a.pred false
  · simp only [Withholds, opTcmp, onT, hon]
    exact ⟨modest_ite (modest_of_eq rfl rfl rfl rfl rfl rfl rfl) (modest_of_eq rfl rfl rfl rfl rfl rfl rfl), by split <;> rfl⟩
  · have hn : (nameTile s s.cur .tm true a.b .use).traps = [] := by
      by_contra hn
      simp only [opTcmp, onT, hon, Bool.not_true, Bool.false_and, Bool.or_false] at ht
      rw [if_pos (by simpa using hn)] at ht
      exact hn (List.append_eq_nil_iff.mp ht).2
    simp only [Withholds, opTcmp, onT, hon, hn, List.isEmpty_nil, Bool.not_true, Bool.false_and, Bool.or_false, Bool.false_eq_true,
      if_false, newTransfer_congr (sameBead_land s s.cur .s s.cur), counterPa_land, pinsOf_land]
    exact ⟨modest_of_eq rfl rfl rfl rfl rfl rfl rfl, rfl⟩

theorem flatten_framesOf_checkUse (u : Use) (align va n : Nat) :
    (framesOf [checkUse s s.cur u align va n]).flatten = framesFor s u align va n := by
  unfold framesFor
  cases checkUse s s.cur u align va n
  · rfl
  · exact List.append_nil _

theorem withholds_opTsrf {a : TArgs} (h : tileEntry s (.tsrf a) = some y) : Withholds s .tm y (opTsrf a s.cur s) := by
  cases h
  cases hon : enabledS (s.ctx s.cur).arch a.pred false
  · simp only [Withholds, opTsrf, onT, hon]
    exact ⟨modest_of_eq rfl rfl rfl rfl rfl rfl rfl, rfl⟩
  · simp only [Withholds, opTsrf, onT, hon, Bool.not_true, Bool.false_eq_true, if_false, flatten_framesOf_checkUse, pinsOf_land]
    exact ⟨modest_of_eq rfl rfl rfl rfl rfl rfl rfl, rfl⟩

/-! ### `chsend` and `post` (R353, R355) -/

theorem withholds_opChsend {a : YArgs} (h : tileEntry s (.chsend a) = some y) : Withholds s .sy y (opChsend a s.cur s) := by
  cases h
  cases hon : enabledS (s.ctx s.cur).arch a.pred false
  · simp only [Withholds, opChsend, onY, hon]
    exact ⟨modest_of_eq rfl rfl rfl rfl rfl rfl rfl, rfl⟩
  · simp only [Withholds, opChsend, onY, hon, Bool.not_true, Bool.false_eq_true, if_false, jobOf_land,
      newTransfer_congr (sameBead_land s s.cur .s s.cur), counterPa_land, pinsOf_land]
    exact ⟨modest_of_eq rfl rfl rfl rfl rfl rfl rfl, rfl⟩

theorem withholds_opPost {a : YArgs} (ht : (opPost a s.cur s).traps = []) (h : tileEntry s (.post a) = some y) :
    Withholds s .sy y (opPost a s.cur s) := by
  cases h
  cases hon : enabledS (s.ctx s.cur).arch a.pred false
  · simp only [Withholds, opPost, onY, hon]
    exact ⟨modest_of_eq rfl rfl rfl rfl rfl rfl rfl, rfl⟩
  · have hn : (nameTile s s.cur .sy true a.b .use).traps = [] := by
      by_contra hn
      simp only [opPost, onY, hon, Bool.not_true, Bool.false_or] at ht
      rw [if_pos (by simpa using hn)] at ht
      exact hn (List.append_eq_nil_iff.mp ht).2
    simp only [Withholds, opPost, onY, hon, hn, List.isEmpty_nil, Bool.not_true, Bool.or_self, Bool.false_eq_true, if_false]
    exact ⟨modest_of_eq rfl rfl rfl rfl rfl rfl rfl, rfl⟩

end

/-- An operation that the claim names withholds its entry (R204, R334). -/
theorem withholds_of_tileEntry {s : State} {i : Instr} {f : OpFn} {y : Bool × (State → State) × (State → Act) × List (Nat × Nat × Nat)}
    (h : tileEntry s i = some y) (hf : slotOp i = some f) (ht : (f s.cur s).traps = []) :
    slotOf i = some (entrySlot i) ∧ loneHeader i = {} ∧ Withholds s (entrySlot i) y (f s.cur s) := by
  cases i with
  | tst a => cases hf; exact ⟨rfl, rfl, withholds_opTst h⟩
  | tsth a => cases hf; exact ⟨rfl, rfl, withholds_opTsth ht h⟩
  | append a => cases hf; exact ⟨rfl, rfl, withholds_opAppend ht h⟩
  | tcmp a => cases hf; exact ⟨rfl, rfl, withholds_opTcmp ht h⟩
  | tsrf a => cases hf; exact ⟨rfl, rfl, withholds_opTsrf h⟩
  | chsend a => cases hf; exact ⟨rfl, rfl, withholds_opChsend h⟩
  | post a => cases hf; exact ⟨rfl, rfl, withholds_opPost ht h⟩
  | _ => cases h

/-- Settles O32. -/
theorem tileEntries : Obligations.TileEntries := by
  intro i f on pre x pins s b h hf hw hs ha
  obtain ⟨hk, hh, hm, he⟩ := withholds_of_tileEntry h hf ha.checks
  exact acts_of_allowed hf hk hh hw hs ha hm he

/-! ### `tdef` (R239) -/

theorem modest_opTdef (a : TArgs) (s : State) : Modest (opTdef a s.cur s) := by
  unfold opTdef
  dsimp only
  split
  · exact modest_of_eq rfl rfl rfl rfl rfl rfl rfl
  · exact modest_ite (modest_of_eq rfl rfl rfl rfl rfl rfl rfl) (modest_of_eq rfl rfl rfl rfl rfl rfl rfl)

theorem framesFor_of_checkUse {s : State} {u : Use} {align va n : Nat} {f : Frames} (h : checkUse s s.cur u align va n = .inr f) :
    framesFor s u align va n = f := by
  rw [framesFor, h]

/-- Settles O33.  Where its image cannot be read, an enabled `tdef` traps. -/
theorem defineTile : Obligations.DefineTile := by
  intro a s b hw hs ha
  refine acts_of_allowed rfl rfl rfl hw hs ha (modest_opTdef a s) ?_
  have ht := ha.checks
  cases hc : checkUse s s.cur .load 16 (readScalar (s.ctx s.cur).arch 0 a.a).toNat 16 with
  | inl e =>
    cases hon : enabledS (s.ctx s.cur).arch a.pred false
    · simp only [opTdef, hc]
      rfl
    · simp only [opTdef, onT, hc, hon, if_true, List.append_eq_nil_iff] at ht
      cases failsOf_of_accessTraps ht.2
  | inr f =>
    cases hon : enabledS (s.ctx s.cur).arch a.pred false
    · simp only [opTdef, onT, hc, hon]
      rfl
    · simp only [opTdef, onT, hc, hon, Bool.not_true, Bool.false_eq_true, if_false, framesFor_of_checkUse hc]
      rfl

end Sys2Proof.TileEntry
end

section
/-! SUPPORT. The operations of the hallmark directory and of the system slot that are withheld, or read as a load (R199, R203, R277 to R282,
R298 to R300, R345). -/
namespace Sys2Proof.SystemEntry
open Sys2Proof Sys2Proof.Machine Sys2Proof.Claims Sys2Proof.Lone Sys2Proof.Effects Sys2Proof.Acting Sys2Proof.MemoryAccess
open Sys2Proof.AtIssue Sys2Proof.TileStart Sys2Proof.TileEntry

/-- The operation `o` withholds the entry `x`, with the places `l` of its result, if it is enabled. -/
def WithholdsResult (s : State) (k : Slot) (on : Bool) (l : List Dest) (d : Nat) (x : List Nat → Act) (pins : List (Nat × Nat × Nat))
    (o : Op) : Prop :=
  Modest o ∧ o.act (land s s.cur .s []) = (if on then withholdResult s k l d x pins else id) (land s s.cur .s [])

/-- The landing-part entries of a list of places are for distinct places. -/
theorem pairwise_map_dest {l : List Dest} (h : l.Pairwise (· ≠ ·)) (d : Nat) :
    (l.map fun x => (x, d)).Pairwise fun u v => u.1 ≠ v.1 := by
  rw [List.pairwise_map]
  exact h

section
variable {s : State} {on : Bool} {l : List Dest} {d : Nat} {x : List Nat → Act} {pins : List (Nat × Nat × Nat)}

/-! ### Hallmark mutations (R277 to R282, R298, R299) -/

theorem withholds_hmMutation {a : TArgs} {reads : List Nat} {t : List (Port × Role × Nat × Nat × Nat)} {f : State → Act}
    (hf : f (land s s.cur .s []) = f s) :
    WithholdsResult s .tm (enabledS (s.ctx s.cur).arch a.pred false) [] 0 (fun _ => f s) [] (hmMutation a reads t f s.cur s) := by
  cases hon : enabledS (s.ctx s.cur).arch a.pred false
  · simp only [WithholdsResult, hmMutation, onT, hon]
    exact ⟨modest_of_eq rfl rfl rfl rfl rfl rfl rfl, rfl⟩
  · simp only [WithholdsResult, hmMutation, onT, hon, Bool.not_true, Bool.false_eq_true, if_false, hf]
    exact ⟨modest_of_eq rfl rfl rfl rfl rfl rfl rfl, rfl⟩

theorem checkUse_of_checkAtomic_store {c n va : Nat} {op : AtomicOp} {f : Frames} (h : checkAtomic s c n va op = .inr f) :
    checkUse s c .store n va n = .inr f := checkUse_of_checkAtomic h

theorem withholds_opHmswap {a : TArgs} (ht : (opHmswap a s.cur s).traps = [])
    (h : hallmarkEntry s (.hmswap a) = some (on, l, d, x, pins)) : WithholdsResult s .tm on l d x pins (opHmswap a s.cur s) := by
  cases h
  cases hon : enabledS (s.ctx s.cur).arch a.pred false
  · simp only [WithholdsResult, opHmswap, onT, hon]
    exact ⟨modest_of_eq rfl rfl rfl rfl rfl rfl rfl, rfl⟩
  · simp only [opHmswap, onT, hon, Bool.not_true, Bool.false_eq_true, if_false, List.append_eq_nil_iff] at ht
    obtain ⟨f, hf⟩ := exists_frames_of_failsOf (failsOf_of_accessTraps ht.2)
    have hfl : (framesOf [(.inr f : Sum (TrapCode × Nat) Frames)]).flatten = f := List.append_nil f
    simp only [WithholdsResult, opHmswap, onT, hon, Bool.not_true, Bool.false_eq_true, if_false, hf, hfl,
      framesFor_of_checkUse (checkUse_of_checkAtomic_store hf), pinsOf_land, tileRef_land]
    exact ⟨⟨rfl, rfl, rfl, rfl, rfl, rfl, pairwise_map_dest (pairwise_toList _) _⟩, rfl⟩

theorem withholds_opHmcopy {a : TArgs} (h : hallmarkEntry s (.hmcopy a) = some (on, l, d, x, pins)) :
    WithholdsResult s .tm on l d x pins (opHmcopy a s.cur s) := by
  cases h
  cases hon : enabledS (s.ctx s.cur).arch a.pred false
  · simp only [WithholdsResult, opHmcopy, onT, hon]
    exact ⟨modest_of_eq rfl rfl rfl rfl rfl rfl rfl, rfl⟩
  · simp only [WithholdsResult, opHmcopy, onT, hon, Bool.not_true, Bool.false_eq_true, if_false,
      newTransfer_congr (sameBead_land s s.cur .s s.cur), counterPa_land, pinsOf_land]
    exact ⟨modest_of_eq rfl rfl rfl rfl rfl rfl rfl, rfl⟩

theorem withholds_of_hallmarkEntry {i : Instr} {f : OpFn} (h : hallmarkEntry s i = some (on, l, d, x, pins)) (hf : slotOp i = some f)
    (ht : (f s.cur s).traps = []) :
    slotOf i = some .tm ∧ loneHeader i = {} ∧ WithholdsResult s .tm on l d x pins (f s.cur s) := by
  cases i with
  | hmput a | hmnode a | hmhold a | hmdrop a =>
    cases hf
    cases h
    exact ⟨rfl, rfl, withholds_hmMutation (by simp only [tileRef_land])⟩
  | hmswap a => cases hf; exact ⟨rfl, rfl, withholds_opHmswap ht h⟩
  | hmcopy a => cases hf; exact ⟨rfl, rfl, withholds_opHmcopy h⟩
  | _ => cases h

end

/-- Settles O35. -/
theorem hallmarkMutations : Obligations.HallmarkMutations := by
  intro i f on l d x pins s b h hf hw hs ha
  obtain ⟨hk, hh, hm, he⟩ := withholds_of_hallmarkEntry h hf ha.checks
  exact acts_of_allowed hf hk hh hw hs ha hm he

/-! ### `hmstat` (R203, R300) -/

section
variable {s : State} {a : TArgs} {pre : State → State} {x : State → ReadWhat}

/-- The operation `o` starts the read `x` after `pre`, if it is enabled (R207). -/
def StartsRead (s : State) (a : TArgs) (pre : State → State) (x : State → ReadWhat) (o : Op) : Prop :=
  Modest o ∧ o.act (land s s.cur .s []) = (if enabledS (s.ctx s.cur).arch a.pred false then
    fun u => startRead s.cur .tm (arrivalD (a.imm.extractLsb' 0 8)) ((destOf a.dst).toList.map fun d => (d, BitVec.allOnes 1024))
      (x u) (pre u) else id) (land s s.cur .s [])

theorem startsRead_hmstatOp {reads : List Nat} {traps : List Cause} {waits : Option FreezeCause} {what : State → ReadWhat}
    (hx : what (land s s.cur .s []) = x (land s s.cur .s [])) :
    StartsRead s a pre x (hmstatOp a reads traps waits what pre s.cur s) := by
  cases hon : enabledS (s.ctx s.cur).arch a.pred false
  · simp only [StartsRead, hmstatOp, onT, hon]
    exact ⟨modest_of_eq rfl rfl rfl rfl rfl rfl rfl, rfl⟩
  · simp only [StartsRead, hmstatOp, onT, hon, Bool.not_true, Bool.false_eq_true, if_false, hx]
    refine ⟨⟨rfl, rfl, rfl, rfl, rfl, rfl, ?_⟩, rfl⟩
    rw [List.map_map]
    exact pairwise_map_dest (pairwise_toList _) _

theorem startsRead_of_statusRead {i : Instr} {f : OpFn} (h : statusRead s i = some (a, pre, x)) (hf : slotOp i = some f) :
    slotOf i = some .tm ∧ loneHeader i = {} ∧ StartsRead s a pre x (f s.cur s) := by
  cases i with
  | hmstatDirectory b =>
    cases hf
    cases h
    exact ⟨rfl, rfl, startsRead_hmstatOp (by rw [hidOf_land, jobOf_land]; rfl)⟩
  | hmstatLineTag b =>
    cases hf
    cases h
    exact ⟨rfl, rfl, startsRead_hmstatOp (by rw [flatten_framesOf_checkUse])⟩
  | hmstatFree b =>
    cases hf
    cases h
    exact ⟨rfl, rfl, startsRead_hmstatOp rfl⟩
  | _ => cases h

end

/-- Settles O36. -/
theorem hallmarkStatus : Obligations.HallmarkStatus := by
  intro i f a pre x s b h hf hw hs ha
  obtain ⟨hk, hh, hm, he⟩ := startsRead_of_statusRead h hf
  exact acts_of_allowed hf hk hh hw hs ha hm he

/-! ### The withheld operations of the system slot (R345) -/

section
variable {s : State} {a : YArgs} {l : List Dest} {d : Nat} {x : List Nat → Act} {pins : List (Nat × Nat × Nat)}

theorem withholds_withheldY {srcs : List Port} {always enabled : State → Nat → List Cause} {what : State → Nat → Act}
    {p : State → Nat → List (Nat × Nat × Nat)} (hx : what (land s s.cur .s []) s.cur = what s s.cur)
    (hp : p (land s s.cur .s []) s.cur = p s s.cur) :
    WithholdsResult s .sy (enabledS (s.ctx s.cur).arch a.pred false) [] 0 (fun _ => what s s.cur) (p s s.cur)
      (withheldY a srcs always enabled what p s.cur s) := by
  cases hon : enabledS (s.ctx s.cur).arch a.pred false
  · simp only [WithholdsResult, withheldY, onY, hon]
    exact ⟨modest_of_eq rfl rfl rfl rfl rfl rfl rfl, rfl⟩
  · simp only [WithholdsResult, withheldY, onY, hon, Bool.not_true, Bool.false_eq_true, if_false, hx, hp]
    exact ⟨modest_of_eq rfl rfl rfl rfl rfl rfl rfl, rfl⟩

theorem claspVa_land (c : Nat) (k : Slot) (q : Nat) : claspVa (land s c k []) q a = claspVa s q a := by
  simp only [claspVa, land_nil_ctx]
theorem claspPa_land (c : Nat) (k : Slot) (q : Nat) : claspPa (land s c k []) q a = claspPa s q a := by
  simp only [claspPa, claspCheck, claspVa_land, checkPlace_land]
theorem claspPte_land (c : Nat) (k : Slot) (q : Nat) : claspPte (land s c k []) q a = claspPte s q a := by
  simp only [claspPte, claspCheck, claspVa_land, checkPlace_land]

/-- An operation on a clasp withholds it with the clasp's place as it reads at issue (R199, R251). -/
theorem withholds_claspOp {srcs : List Port} {more : State → Nat → List Cause} {what : State → Nat → Act}
    (hx : what (land s s.cur .s []) s.cur = what s s.cur) :
    WithholdsResult s .sy (enabledS (s.ctx s.cur).arch a.pred false) [] 0 (fun _ => what s s.cur)
      (pinsOf s s.cur [(claspVa s s.cur a, 32)]) (claspOp a srcs more what s.cur s) :=
  withholds_withheldY hx (by simp only [pinsOf_land, claspVa_land])

theorem withholds_opCtry (h : systemEntry s (.ctry a) = some (a, l, d, x, pins)) :
    WithholdsResult s .sy (enabledS (s.ctx s.cur).arch a.pred false) l d x pins (opCtry a s.cur s) := by
  cases h
  cases hon : enabledS (s.ctx s.cur).arch a.pred false
  · simp only [WithholdsResult, opCtry, onY, hon]
    exact ⟨modest_of_eq rfl rfl rfl rfl rfl rfl rfl, rfl⟩
  · simp only [WithholdsResult, opCtry, onY, hon, Bool.not_true, Bool.false_eq_true, if_false, claspVa_land, claspPa_land,
      claspPte_land, pinsOf_land]
    exact ⟨⟨rfl, rfl, rfl, rfl, rfl, rfl, pairwise_map_dest (pairwise_toList _) _⟩, rfl⟩

theorem toNat_extractLsb' {w : Nat} (v : BitVec w) (i n : Nat) : (v.extractLsb' i n).toNat = bitsOf v.toNat i n := by
  rw [BitVec.extractLsb'_toNat, Nat.shiftRight_eq_div_pow, bitsOf]

theorem withholds_of_systemEntry {i : Instr} {f : OpFn} (h : systemEntry s i = some (a, l, d, x, pins)) (hf : slotOp i = some f) :
    slotOf i = some .sy ∧ loneHeader i = {} ∧
      WithholdsResult s .sy (enabledS (s.ctx s.cur).arch a.pred false) l d x pins (f s.cur s) := by
  cases i with
  | cbind b | cacq b | crel b =>
    cases hf
    cases h
    refine ⟨rfl, rfl, withholds_claspOp ?_⟩
    simp only [claspPa_land, claspPte_land, land_nil_ctx]
  | ctry b =>
    cases hf
    have ha : b = a := by cases h; rfl
    subst ha
    exact ⟨rfl, rfl, withholds_opCtry h⟩
  | fence b | cancelInstr b | tlbinv b | qset b =>
    cases hf
    cases h
    refine ⟨rfl, rfl, withholds_withheldY ?_ rfl⟩
    simp only [land_nil_ctx]
  | spawn b =>
    cases hf
    cases h
    unfold opSpawn
    refine ⟨rfl, rfl, withholds_withheldY (s := s) (a := a) (what := fun u c => .spawn (readScalar (u.ctx c).arch 0 a.a).toNat) ?_
      (p := fun _ _ => []) rfl⟩
    simp only [land_nil_ctx]
  | eret b =>
    cases hf
    cases h
    unfold opEret
    refine ⟨rfl, rfl, withholds_withheldY (s := s) (a := a) (what := fun u c => .eret (readScalar (u.ctx c).arch 0 a.a).toNat) ?_
      (p := fun _ _ => []) rfl⟩
    simp only [land_nil_ctx]
  | sig b =>
    cases hf
    cases h
    unfold opSig
    refine ⟨rfl, rfl, withholds_withheldY (s := s) (a := a) (what := fun u c =>
      let va := (readScalar (u.ctx c).arch 0 a.a).toNat
      let fs := (framesOf [checkPlace u c .store 8 va 8 false]).flatten
      .sig (framePa fs va) (a.imm.toNat % 4) (readScalar (u.ctx c).arch 0 a.b) (frameLeaf fs va)) ?_
      (p := fun u c => pinsOf u c [((readScalar (u.ctx c).arch 0 a.a).toNat, 8)]) ?_⟩
    · simp only [land_nil_ctx, checkPlace_land]
    · simp only [land_nil_ctx, pinsOf_land]
  | epupd b =>
    cases hf
    simp only [systemEntry, toNat_extractLsb'] at h
    cases h
    unfold opEpupd
    refine ⟨rfl, rfl, withholds_withheldY (s := s) (a := a) (what := fun u c => .epupd (a.imm.toNat % 64) ((readScalar (u.ctx c).arch 0 a.a).toNat % 4096)
      (actualExperts (readScalar (u.ctx c).arch 0 a.b).toNat (bitsOf a.imm.toNat 8 2 + 1))) ?_ (p := fun _ _ => []) rfl⟩
    simp only [land_nil_ctx]
  | epcfg b =>
    cases hf
    simp only [systemEntry, toNat_extractLsb'] at h
    cases h
    unfold opEpcfg
    refine ⟨rfl, rfl, withholds_withheldY (s := s) (a := a) (what := fun u c => .epcfg (a.imm.toNat % 64) (bitsOf a.imm.toNat 6 2)
      (readScalar (u.ctx c).arch 0 a.a) ((readScalar (u.ctx c).arch 0 a.b).extractLsb' 0 16)) ?_ (p := fun _ _ => []) rfl⟩
    simp only [land_nil_ctx]
  | _ => cases h

end

/-- Settles O37. -/
theorem systemEntries : Obligations.SystemEntries := by
  intro i f a l d x pins s b h hf hw hs ha
  obtain ⟨hk, hh, hm, he⟩ := withholds_of_systemEntry h hf
  exact acts_of_allowed hf hk hh hw hs ha hm he

end Sys2Proof.SystemEntry
end

section
/-! SUPPORT. The operations of the system slot that act at issue, those that only a supervisor may issue, and the operations that stand in
a checkpoint bundle (R186, R250, R317, R332, R345 to R349, R351, R354, R358, R359). -/
namespace Sys2Proof.Checkpointed
open Sys2Proof Sys2Proof.Machine Sys2Proof.Claims Sys2Proof.Lone Sys2Proof.Effects Sys2Proof.ScalarControl Sys2Proof.TrapOperation
open Sys2Proof.ScalarInteger Sys2Proof.Acting

theorem inDrain_sy (x : Ctx) {o : Op} (h : o.slot = .sy) : inDrain x o = false := by
  rw [inDrain, h]
  rfl

/-! ### `eplook` and `mark` (R186, R351) -/

theorem apart_landPort (q : Port) (lat : Nat) (v m : BitVec 1024) : Apart (landPort q lat v m) := by
  unfold landPort
  split
  · exact apart_singleton _
  · exact apart_nil

/-- Settles O38. -/
theorem predictorLookup : Obligations.PredictorLookup := by
  intro a s b hw hs hb
  refine completes_of_lands hs hw rfl rfl rfl (by decide) ?_ ?_
  · split
    · exact apart_landPort _ _ _ _
    · exact apart_nil
  · simp only [opEplook, onY, hb, Bool.not_true, Bool.and_false, trapIf_false]
    rfl

/-- A lone operation that lands `l` and may have an effect of its own (R43, R58). -/
theorem issueTrap_of_lands {s : State} {b : Bead} {o : Op} (hs : CanIssue s b) (hk : o.slot = .sy) (ht : o.traps = [])
    (hd : o.loads = []) (he : o.entries = 0) (hg : o.groups = 0) (hj : o.jump = none) (hv : o.leaves = false)
    (hp : o.needsCkpt = false) (hfit : Fits s o.reads o.lands) (ha : Apart o.lands) : issueTrap s.cur {} [o] s = none := by
  refine issueTrap_none ht (by simp [hp]) (inDrain_sy _ hk) (badBundle_single rfl (fun _ => hj) (by simp [hv]) ?_ ?_ ?_
    (by simp [hg]) hfit.early)
  · simpa [he, Config.withholdMax] using hs.entries
  · simpa [hd, Config.landingMax] using hs.loads
  · have hw : writesOf (s.ctx s.cur).arch.cc [o] = writesAt (s.ctx s.cur).arch.cc o.lands := by simp [writesOf, hd, writesAt]
    rw [hw]
    exact noCollision_false hfit.apart (ha.writes _)

/-- Settles O39. -/
theorem mark : Obligations.Mark := by
  intro a s b hw hs r v on l hfit
  have hj : jobOf s s.cur = b.job := by simp [jobOf, hs.runs]
  have hl : (opMark a s.cur s).lands = l := by
    simp only [opMark, hj, Bool.and_eq_true, decide_eq_true_eq]
    rfl
  have ha : Apart (opMark a s.cur s).lands := by
    rw [hl]
    unfold l
    split
    · exact apart_singleton _
    · exact apart_nil
  obtain ⟨t, ht, hE⟩ := exec_ends (i := .mark a) hs hw rfl rfl rfl rfl
    (issueTrap_of_lands hs rfl rfl rfl rfl rfl rfl rfl rfl (by rw [hl]; exact hfit) ha) rfl
  refine ⟨t, ht, ?_⟩
  have hact : applyOp s.cur s (opMark a s.cur s) =
      let u := land s s.cur .sy l
      if on then driftRecord u s.cur b (s.ctx s.cur).pc r.cc (sat32 v) 1 0 else u := by
    have hu : applyOp s.cur s (opMark a s.cur s) = (opMark a s.cur s).act (land s s.cur .sy l) := by
      rw [← hl]
      rfl
    rw [hu]
    simp only [opMark, land, State.modArch, State.modCtx, State.setCtx_ctx_self, hs.runs, onY]
    cases hon : enabledS (s.ctx s.cur).arch a.pred false <;> simp only [on, r, v, hon, driftOf] <;> rfl
  rwa [hact] at hE

/-! ### Operations of a supervisor alone (R354, R358, R359) -/

section
variable {a : YArgs} {srcs : List Port} {always : State → Nat → List Cause} {what : State → Nat → Act}
  {p : State → Nat → List (Nat × Nat × Nat)} {s : State}

/-- A withheld operation whose checks raise PRIV whatever its enable, and nothing else. -/
theorem issueTrap_withheldY {b : Bead} {x : Cause} (hs : CanIssue s b) (hx : always s s.cur = [x])
    (hfit : Fits s (reading a.pred srcs) []) (hroom : (s.ctx s.cur).withheld.length < Config.withholdMax) :
    issueTrap s.cur {} [withheldY a srcs always (fun _ _ => []) what p s.cur s] s = some x := by
  cases hon : onY (s.ctx s.cur).arch a <;>
    simp only [withheldY, hon, hx, Bool.not_true, Bool.not_false, Bool.false_eq_true, if_false, if_true, List.append_nil]
  · exact issueTrap_of_traps rfl rfl (inDrain_sy _ rfl) (badBundle_of_fits hs hfit rfl rfl rfl (Nat.zero_le _) rfl rfl)
  · refine issueTrap_of_traps rfl rfl (inDrain_sy _ rfl) (badBundle_single rfl (fun _ => rfl) (by simp) ?_ ?_ ?_ (Nat.zero_le _)
      hfit.early)
    · simpa [Config.withholdMax] using hroom
    · simpa [Config.landingMax] using hs.loads
    · exact noCollision_false hfit.apart List.Pairwise.nil

theorem waits_withheldY {enabled : State → Nat → List Cause} {c : Nat} : (withheldY a srcs always enabled what p c s).waits = none := by
  unfold withheldY
  split <;> rfl

theorem reads_withheldY {enabled : State → Nat → List Cause} {c : Nat} :
    (withheldY a srcs always enabled what p c s).reads = reading a.pred srcs := by
  unfold withheldY
  split <;> rfl

end

/-- What the operations of a supervisor have in common: PRIV is the one check that they make. -/
theorem withheld_of_supervisorOnly {i : Instr} {f : OpFn} (h : supervisorOnly i = true) (hf : slotOp i = some f) :
    slotOf i = some .sy ∧ loneHeader i = {} ∧ ∃ a srcs always what p, f = withheldY a srcs always (fun _ _ => []) what p ∧
      ∀ s c, supOf s c = false → always s c = [causeAt s c .sy .priv 0] := by
  cases i with
  | tlbinv a =>
    cases hf
    refine ⟨rfl, rfl, _, _, _, _, _, rfl, fun s c hp => ?_⟩
    simp only [hp]
    rfl
  | qset a | cancelInstr a =>
    cases hf
    refine ⟨rfl, rfl, _, _, _, _, _, rfl, fun s c hp => ?_⟩
    simp only [supervisorOnly] at h
    simp only [h, hp]
    rfl
  | _ => cases h

/-- Settles O42. -/
theorem supervisorOperations : Obligations.SupervisorOperations := by
  intro i f s b hi hf hw hs hb hfit hroom
  obtain ⟨hk, hh, a, srcs, always, what, p, rfl, hp⟩ := withheld_of_supervisorOnly hi hf
  rw [reads_withheldY] at hfit
  rw [exec_traps hs hw hf hk hh waits_withheldY (issueTrap_withheldY hs (hp s s.cur (by rw [supOf_cur hs, hb])) hfit hroom)]
  rw [bundleTrap_unwalked hs.thawed (show TrapCode.priv ∉ walkedCodes by decide) rfl]

/-! ### The checkpoint (R332) -/

theorem modArray_ctx (s : State) (c : Nat) (f : MxArray → MxArray) (d : Nat) : (modArray s c f).ctx d = s.ctx d := rfl
theorem modArray_mem (s : State) (c : Nat) (f : MxArray → MxArray) : (modArray s c f).mem = s.mem := rfl
theorem invalidated_ctx (s : State) (c d : Nat) : (invalidated s c).ctx d = s.ctx d := rfl
theorem arrayOf_modArray (s : State) (c : Nat) (f : MxArray → MxArray) : arrayOf (modArray s c f) c = f (arrayOf s c) := by
  simp [arrayOf, modArray]

/-- What a checkpoint leaves of its context: its registers but for the marks of deadlines in the write-timing buffer. -/
theorem checkpoint_ctx (s : State) (c pc : Nat) : (checkpoint s c pc).ctx c = { s.ctx c with
    ckpt := pc, ckptUid := s.uid, withheld := [],
    storeQ := (s.ctx c).storeQ ++ number (s.ctx c).released (releasable (s.ctx c).withheld),
    released := (s.ctx c).released + (releasable (s.ctx c).withheld).length,
    arch := { (s.ctx c).arch with wtb := (s.ctx c).arch.wtb.map fun l => { l with deadline := false } },
    shadow := ((checkpoint s c pc).ctx c).shadow } := by
  simp only [checkpoint, State.modCtx_ctx_self, modArray_ctx, invalidated_ctx]

theorem checkpoint_ctx_ne (s : State) {c d : Nat} (pc : Nat) (h : d ≠ c) : (checkpoint s c pc).ctx d = s.ctx d := by
  simp only [checkpoint, State.modCtx_ctx_ne _ _ h, modArray_ctx, invalidated_ctx]

theorem checkpoint_mem (s : State) (c pc : Nat) : (checkpoint s c pc).mem = s.mem := rfl

theorem arrayOf_checkpoint (s : State) (c pc : Nat) :
    arrayOf (checkpoint s c pc) c = snapArray (applyMbinv (arrayOf s c) (slotNo c) (s.ctx c).withheld) (slotNo c) := by
  have h : arrayOf (checkpoint s c pc) c = arrayOf (modArray (invalidated s c) c fun a => snapArray a (slotNo c)) c := rfl
  rw [h, arrayOf_modArray, invalidated, arrayOf_modArray]

/-- The shadow set is the registers as they stand, where lazy restore has fetched all of them (R50, R332). -/
theorem checkpoint_shadow (s : State) (c pc : Nat) (h : (s.ctx c).unfetched = []) : ((checkpoint s c pc).ctx c).shadow =
    { (s.ctx c).arch with wtb := (s.ctx c).arch.wtb.map fun l => { l with deadline := false } } := by
  simp only [checkpoint, fetchAll, State.modCtx_ctx_self, modArray_ctx, invalidated_ctx, h, List.foldl_nil]

/-- A checkpoint keeps every register that an operand names. -/
theorem enabledS_checkpoint (s : State) (c pc : Nat) (p : BitVec 4) (n : Bool) :
    enabledS ((checkpoint s c pc).ctx c).arch p n = enabledS (s.ctx c).arch p n := by
  rw [checkpoint_ctx]
  rfl

theorem readScalar_wtb (a : Arch) (w : List Landing) (imm : W64) (q : Port) : readScalar { a with wtb := w } imm q = readScalar a imm q := by
  cases q <;> rfl

theorem readScalar_checkpoint (s : State) (c pc : Nat) (imm : W64) (q : Port) :
    readScalar ((checkpoint s c pc).ctx c).arch imm q = readScalar (s.ctx c).arch imm q := by
  rw [checkpoint_ctx]
  exact readScalar_wtb _ _ _ _

/-- A lone operation in its checkpoint bundle that raises no trap and waits for nothing: the checkpoint is taken, the operation acts, the
bundle ends and the bead may leave (R332, R346). -/
theorem exec_checkpoint {i : Instr} {k : Slot} {f : OpFn} {s : State} {b : Bead} (hs : CanIssue s b) (hw : wellFormed i = true)
    (hf : slotOp i = some f) (hk : slotOf i = some k) (hh : loneHeader i = { ckpt := true })
    (hq : (f s.cur (metState s.cur { ckpt := true } s)).waits = none)
    (ht : issueTrap s.cur { ckpt := true } [f s.cur (metState s.cur { ckpt := true } s)] (metState s.cur { ckpt := true } s) = none) :
    let s1 := checkpoint s s.cur (s.ctx s.cur).pc
    ∃ u, Ends (f s.cur s1).jump s.cur (applyOp s.cur s1 (f s.cur s1)) u ∧ exec i s = .next ((f s.cur s1).leave u) := by
  intro s1
  refine ⟨finishBundle s.cur { ckpt := true } [f s.cur s1] (applyOp s.cur s1 (f s.cur s1)), ?_, ?_⟩
  · have := finishBundle_ends s.cur { ckpt := true } [f s.cur s1] (applyOp s.cur s1 (f s.cur s1)) rfl
    cases hj : (f s.cur s1).jump <;> simpa [firstSome, hj] using this
  · rw [exec_eq_issueAlone hf hk, issueAlone, hs.runs]
    simp only [issueBundle, hh, hw, if_true, List.map_cons, List.map_nil, hq, firstSome, ht, endFreeze_thawed hs.thawed,
      List.foldl_cons, List.foldl_nil, s1]

/-- An operation that has no effect at issue leaves the state as it is. -/
theorem applyOp_idle {c : Nat} {s : State} {o : Op} (hl : o.lands = []) (ha : o.act = id) : applyOp c s o = land s c .s [] := by
  rw [applyOp, hl, ha]
  rfl

/-- A bundle that lands nothing ends as one of no operation. -/
theorem Ends.of_land_nil {j : Option Nat} {c : Nat} {s t : State} {k : Slot} (h : Ends j c (land s c k []) t) : Ends j c s t := by
  have he : (land s c k []).modCtx c (nextBundle j) = s.modCtx c (nextBundle j) := by
    simp [land, State.modArch, State.modCtx, setCtx_setCtx]
  rwa [Ends, he] at h

/-- What the operations that leave the context have in common. -/
theorem leaves_of_leaving {s : State} {i : Instr} {f : OpFn} {a : YArgs} {e : State → State} (h : leaving s i = some (a, e))
    (hf : slotOp i = some f) : slotOf i = some .sy ∧ loneHeader i = { ckpt := true } ∧
      (∀ u, (f s.cur u).waits = none ∧ (f s.cur u).lands = [] ∧ (f s.cur u).act = id ∧ (f s.cur u).jump = none) ∧
      (f s.cur (checkpoint s s.cur (s.ctx s.cur).pc)).leave = if enabledS (s.ctx s.cur).arch a.pred false then e else id := by
  cases i with
  | yield b | wait b | done b =>
    cases hf
    cases h
    refine ⟨rfl, rfl, fun u => ⟨rfl, rfl, rfl, rfl⟩, ?_⟩
    simp only [opYield, opWait, opDone, onY, srcY, enabledS_checkpoint, readScalar_checkpoint]
  | _ => cases h

/-- Settles O40. -/
theorem leavingTheContext : Obligations.LeavingTheContext := by
  intro i f a e s b h hf hw hs m ht
  obtain ⟨hk, hh, hp, hl⟩ := leaves_of_leaving h hf
  obtain ⟨u, hE, hx⟩ := exec_checkpoint hs hw hf hk hh (hp m).1 ht
  obtain ⟨-, hlands, hact, hj⟩ := hp (checkpoint s s.cur (s.ctx s.cur).pc)
  rw [hj, applyOp_idle hlands hact] at hE
  refine ⟨u, Ends.of_land_nil hE, ?_⟩
  rw [hx, hl]
  split <;> rfl

/-- Settles O34. -/
theorem moveSplit : Obligations.MoveSplit := by
  intro a s b hw hs k cc d m hq ht
  obtain ⟨u, hE, hx⟩ := exec_checkpoint (i := .phase a) hs hw rfl rfl rfl hq ht
  refine ⟨u, hx, ?_⟩
  have hcc : ((checkpoint s s.cur (s.ctx s.cur).pc).ctx s.cur).arch.cc = cc := by
    rw [checkpoint_ctx]
  simp only [applyOp, opPhase, hcc] at hE
  exact hE

/-! ### A bundle that is only a checkpoint -/

/-- A bundle of no operation raises no trap in a context whose landing part has room (R58). -/
theorem issueTrap_empty {c : Nat} {s : State} (h : ((s.ctx c).arch.wtb.filter (·.load)).length ≤ Config.landingMax) :
    issueTrap c { ckpt := true } [] s = none := by
  have hn : decide (64 < ((s.ctx c).arch.wtb.filter (·.load)).length) = false := by simpa [Config.landingMax] using h
  simp [issueTrap, badBundle, writesOf, collision, hn, chooseIssue]

/-- Settles O52. -/
theorem checkpoint : Obligations.Checkpoint := by
  intro s c b hr hf hl x t
  have ht : t = finishBundle c { ckpt := true } [] (Machine.checkpoint s c x.pc) := by
    have hi : issueTrap c { ckpt := true } [] (metState c { ckpt := true } s) = none := issueTrap_empty hl
    simp only [t, issueBundle, List.map_nil, firstSome, hi, endFreeze_thawed hf, if_true, List.foldl_nil, x]
  obtain ⟨⟨p, q, hc⟩, hd, mail, defer, hrest⟩ := finishBundle_ends c { ckpt := true } [] (Machine.checkpoint s c x.pc) rfl
  rw [← ht] at hc hd hrest
  rw [State.modCtx_ctx_self, checkpoint_ctx] at hc
  refine ⟨by rw [hc]; rfl, by rw [hc]; rfl, by rw [hc]; rfl, fun hu => ?_, ?_, by rw [hrest]; rfl, fun d hdc => ?_⟩
  · rw [hc]
    exact checkpoint_shadow s c x.pc hu
  · have ha : arrayOf t c = arrayOf (Machine.checkpoint s c x.pc) c := by
      rw [hrest]
      rfl
    rw [ha, arrayOf_checkpoint]
  · rw [hd d hdc, State.modCtx_ctx_ne _ _ hdc, checkpoint_ctx_ne s _ hdc]

end Sys2Proof.Checkpointed
end

section
/-! SUPPORT. The operations of the matrix slot: what each does to the array, and ILLENC outside the owned halves (R135, R137, R138, R162,
R168 to R174, R189 to R191). -/
namespace Sys2Proof.Matrix
open Sys2Proof Sys2Proof.Machine Sys2Proof.Claims Sys2Proof.Lone Sys2Proof.Effects Sys2Proof.Acting Sys2Proof.AtIssue
open Sys2Proof.ScalarInteger Sys2Proof.ScalarControl

theorem trapIf_eq_nil {p : Bool} {s : State} {c : Nat} {k : Slot} {code : TrapCode} {a : Nat} (h : trapIf p s c k code a = []) :
    p = false := by
  cases p
  · rfl
  · cases h

/-- A step that keeps a part of the state keeps it over a list. -/
theorem foldl_keeps {α β : Type} (g : State → β) {f : State → α → State} (h : ∀ s x, g (f s x) = g s) :
    (l : List α) → (s : State) → g (l.foldl f s) = g s
  | [], _ => rfl
  | x :: r, s => (foldl_keeps g h r (f s x)).trans (h s x)

theorem seeLines_keeps {β : Type} (g : State → β) (h : ∀ s line, g (findErrors s line) = g s) (s : State) (l : List Nat) :
    g (seeLines s l) = g s := by
  unfold seeLines
  split
  · rfl
  · exact foldl_keeps g h l s

theorem findErrors_keeps {β : Type} (g : State → β) (hl : ∀ s line k n, g (logCorrected s line k n) = g s)
    (hh : ∀ s f, g (s.modHomes f) = g s) (s : State) (line : Nat) : g (findErrors s line) = g s := by
  unfold findErrors
  dsimp only
  split
  · rfl
  · exact (foldl_keeps g (fun _ _ => hl _ _ _ _) _ _).trans (hh _ _)

theorem mem_seeLines (s : State) (l : List Nat) : (seeLines s l).mem = s.mem :=
  seeLines_keeps State.mem (findErrors_keeps State.mem (fun _ _ _ _ => rfl) fun _ _ => rfl) s l
theorem arrayOf_seeLines (s : State) (l : List Nat) (c : Nat) : arrayOf (seeLines s l) c = arrayOf s c :=
  seeLines_keeps (arrayOf · c) (findErrors_keeps (arrayOf · c) (fun _ _ _ _ => rfl) fun _ _ => rfl) s l

theorem elem_of_mem {s t : State} (h : t.mem = s.mem) (x : TileRef) (r j : Nat) : x.elem t r j = x.elem s r j := by
  simp only [TileRef.elem, h]
theorem tileBytes_of_mem {s t : State} (h : t.mem = s.mem) (x : TileRef) (rows : List (Nat × List Nat)) :
    tileBytes t x rows = tileBytes s x rows := by
  simp only [tileBytes, TileRef.rowBytes, h]

theorem arrayOf_land (s : State) (c : Nat) (k : Slot) (d : Nat) : arrayOf (land s c k []) d = arrayOf s d := rfl

/-! ### Banks -/

/-- A push into each bank of a list without repetition is a push into every bank that it names. -/
theorem pushAllBanks_eq (isInt : Bool) (row : BankRow) (load : Option AbandonRec) : (l : List Nat) → (a : MxArray) → l.Nodup →
    (∀ b ∈ l, b < 8) → pushAllBanks isInt row load l a = { a with
      banks := Vector.ofFn fun i => if i.val ∈ l then pushBank a.banks[i] isInt row load else a.banks[i] }
  | [], a, _, _ => by
    simp [pushAllBanks]
  | b :: l, a, hn, hl => by
    rw [List.nodup_cons] at hn
    have hb : b < 8 := hl b (by simp)
    have hs : setBank a b (pushBank (bankAt a b) isInt row load) =
        { a with banks := a.banks.set b (pushBank a.banks[b] isInt row load) } := by
      simp only [setBank, bankAt, hb, dif_pos]
    rw [pushAllBanks, pushAllBanks_eq isInt row load l _ hn.2 fun x hx => hl x (by simp [hx]), hs]
    congr 1
    ext1 i hi
    simp only [Vector.getElem_ofFn, Fin.getElem_fin, Vector.getElem_set, List.mem_cons]
    by_cases hib : b = i
    · subst hib
      simp [hn.1]
    · simp [hib, Ne.symm hib]

/-- The banks of an `mpush` are the one that it names and those of its map (R169). -/
theorem pushAllBanks_pushBanks (m : MArgs) (isInt : Bool) (row : BankRow) (load : Option AbandonRec) (a : MxArray) :
    pushAllBanks isInt row load (pushBanks m) a = { a with
      banks := Vector.ofFn fun i =>
        if i.val = m.mode.toNat ∨ m.map.getLsbD i.val = true then pushBank a.banks[i] isInt row load
        else a.banks[i] } := by
  rw [pushBanks, pushAllBanks_eq isInt row load _ a (List.nodup_range.filter _) fun b hb => List.mem_range.mp (List.mem_filter.mp hb).1]
  simp

/-! ### Rows -/

theorem clearRows_zero (a : MxArray) (r : Nat) : clearRows a r 0 = a := by
  unfold clearRows
  rfl

theorem clearRows_succ (a : MxArray) (r n : Nat) : clearRows a r (n + 1) = clearRows (setAcc a r AccRow.clear) (r + 1) n := by
  conv_lhs => unfold clearRows

theorem clearRows_eq (n : Nat) (a : MxArray) (r : Nat) :
    clearRows a r n = (List.range n).foldl (fun x i => setAcc x (r + i) AccRow.clear) a := by
  induction n generalizing a r with
  | zero => rw [clearRows_zero, List.range_zero, List.foldl_nil]
  | succ n ih =>
    rw [clearRows_succ, ih, List.range_succ_eq_map, List.foldl_cons, List.foldl_map]
    simp only [Nat.add_zero, Nat.add_assoc, Nat.add_comm 1, Nat.succ_eq_add_one]

theorem clearList_eq : (l : List Nat) → (a : MxArray) → clearList l a = l.foldl (fun x r => setAcc x r AccRow.clear) a
  | [], a => by rw [clearList, List.foldl_nil]
  | r :: l, a => by rw [clearList, clearList_eq l, List.foldl_cons]

theorem bitsOf_threes (x j : Nat) : bitsOf x (3 * j) 3 = x / 8 ^ j % 8 := by
  rw [bitsOf, Nat.pow_mul]
  rfl

theorem beatLanes_eq (n a0 map d : Nat) (sat : Bool) : (l : List Nat) → (a : MxArray) →
    beatLanes n a0 map d sat l a = l.foldl (fun x j => beatLane n (a0 + j) (map / 8 ^ j % 8) d j sat x) a
  | [], _ => rfl
  | j :: l, a => by rw [beatLanes, beatLanes_eq n a0 map d sat l, bitsOf_threes, List.foldl_cons]

/-! ### Each operation's effect -/

theorem defined_of_traps {s : State} {c : Nat} {k : Slot} {q : Port} {role : Role} (hr : role ≠ .define)
    (h : (nameTile s c k true q role).traps = []) : (nameTile s c k true q role).ref.reg.defined = true := by
  simp only [nameTile] at h ⊢
  by_contra hd
  rw [Bool.not_eq_true] at hd
  simp [hd, hr] at h

section
variable {s : State} {a : MArgs} {e : State → State}

theorem act_opMmode (h : matrixEffect s (.mmode a) = some e) : (opMmode a s.cur s).act (land s s.cur .s []) = e (land s s.cur .s []) := by
  simp only [matrixEffect, Option.map_eq_some_iff] at h
  obtain ⟨x, hx, rfl⟩ := h
  simp only [opMmode, arrayOf_land, hx]

theorem act_opMpush (h : matrixEffect s (.mpush a) = some e) : (opMpush a s.cur s).act (land s s.cur .s []) = e (land s s.cur .s []) := by
  cases h
  dsimp only [opMpush]
  congr 1
  funext x
  rw [pushAllBanks_pushBanks, pushedRow]
  cases (nameTile s s.cur .mx true a.tile .push).ref.reg.abandoned with
  | none => rfl
  | some r => simp only [Option.isSome_some, if_true, List.map_const', List.length_range]

theorem act_opMrow (h : matrixEffect s (.mrow a) = some e) : (opMrow a s.cur s).act (land s s.cur .s []) = e (land s s.cur .s []) := by
  cases h
  rfl

theorem act_opMbeat (h : matrixEffect s (.mbeat a) = some e) : (opMbeat a s.cur s).act (land s s.cur .s []) = e (land s s.cur .s []) := by
  cases h
  dsimp only [opMbeat]
  congr 1
  exact funext fun x => beatLanes_eq _ _ _ _ _ _ x

theorem act_opMdrain (h : matrixEffect s (.mdrain a) = some e) :
    (opMdrain a s.cur s).act (land s s.cur .s []) = e (land s s.cur .s []) := by
  cases h
  rfl

theorem act_opMclear (h : matrixEffect s (.mclear a) = some e) :
    (opMclear a s.cur s).act (land s s.cur .s []) = e (land s s.cur .s []) := by
  cases h
  simp only [opMclear, clearRows_eq]

theorem act_opMcombine (h : matrixEffect s (.mcombine a) = some e) (ht : (opMcombine a s.cur s).traps = []) :
    (opMcombine a s.cur s).act (land s s.cur .s []) = e (land s s.cur .s []) := by
  cases h
  simp only [opMcombine, List.append_eq_nil_iff] at ht
  obtain ⟨⟨⟨hbad, -⟩, hn⟩, -⟩ := ht
  have hd := defined_of_traps (by decide) hn
  have hb := trapIf_eq_nil hbad
  rw [hd, Bool.true_and] at hb
  dsimp only [opMcombine]
  simp only [hb, hd]
  congr 1
  exact funext fun x => clearList_eq _ x

theorem act_opMresolve (h : matrixEffect s (.mresolve a) = some e) :
    (opMresolve a s.cur s).act (land s s.cur .s []) = e (land s s.cur .s []) := by
  cases h
  simp only [opMresolve, arrayOf_seeLines, arrayOf_land, elem_of_mem (mem_seeLines _ _), tileBytes_of_mem (mem_seeLines _ _)]
  rfl

theorem modest_of_matrixEffect {i : Instr} {f : OpFn} (h : matrixEffect s i = some e) (hf : slotOp i = some f)
    (ht : (f s.cur s).traps = []) : slotOf i = some .mx ∧ loneHeader i = {} ∧ Modest (f s.cur s) ∧
      (f s.cur s).act (land s s.cur .s []) = e (land s s.cur .s []) := by
  cases i with
  | mmode a => cases hf; exact ⟨rfl, rfl, modest_of_eq rfl rfl rfl rfl rfl rfl rfl, act_opMmode h⟩
  | mpush a => cases hf; exact ⟨rfl, rfl, modest_of_eq rfl rfl rfl rfl rfl rfl rfl, act_opMpush h⟩
  | mrow a => cases hf; exact ⟨rfl, rfl, modest_of_eq rfl rfl rfl rfl rfl rfl rfl, act_opMrow h⟩
  | mbeat a => cases hf; exact ⟨rfl, rfl, modest_of_eq rfl rfl rfl rfl rfl rfl rfl, act_opMbeat h⟩
  | mdrain a => cases hf; exact ⟨rfl, rfl, modest_of_eq rfl rfl rfl rfl rfl rfl rfl, act_opMdrain h⟩
  | mclear a => cases hf; exact ⟨rfl, rfl, modest_of_eq rfl rfl rfl rfl rfl rfl rfl, act_opMclear h⟩
  | mbinv a => cases hf; cases h; exact ⟨rfl, rfl, modest_of_eq rfl rfl rfl rfl rfl rfl rfl, rfl⟩
  | mtag a => cases hf; cases h; exact ⟨rfl, rfl, modest_of_eq rfl rfl rfl rfl rfl rfl rfl, rfl⟩
  | mcombine a => cases hf; exact ⟨rfl, rfl, modest_of_eq rfl rfl rfl rfl rfl rfl rfl, act_opMcombine h ht⟩
  | mresolve a => cases hf; exact ⟨rfl, rfl, modest_of_eq rfl rfl rfl rfl rfl rfl rfl, act_opMresolve h⟩
  | _ => cases h

end

/-- Settles O23. -/
theorem matrixOperations : Obligations.MatrixOperations := by
  intro i f e s b h hf hw hs ha
  obtain ⟨hk, hh, hm, he⟩ := modest_of_matrixEffect h hf ha.checks
  exact acts_of_allowed hf hk hh hw hs ha hm he

/-! ### Outside the owned halves (R162) -/

theorem code_of_mem_trapIf {p : Bool} {s : State} {c : Nat} {k : Slot} {code : TrapCode} {a : Nat} {y : Cause}
    (h : y ∈ trapIf p s c k code a) : y.code = code := by
  cases p
  · cases h
  · rw [List.mem_singleton.mp h]
    rfl

/-- ILLENC comes before every ILLSCHED of its own slot and of the bundle (R58). -/
theorem issueTrap_illenc {c : Nat} {h : Header} {o : Op} {s : State} {x : Cause} {r : List Cause} (hx : x.code = .illenc)
    (ht : o.traps = x :: r) (hr : ∀ y ∈ r, y.code = .illsched) : issueTrap c h [o] s = some x := by
  simp only [issueTrap, List.flatMap_cons, List.flatMap_nil, ht, List.append_nil, List.cons_append]
  refine chooseIssue_illenc x hx _ fun y hy => ?_
  have hc : y.code = .illsched := by
    rcases List.mem_append.mp hy with hy | hy
    · rcases List.mem_append.mp hy with hy | hy
      · exact hr y hy
      · exact code_of_mem_trapIf hy
    · split at hy
      · rw [List.mem_singleton.mp hy]
        rfl
      · cases hy
  rw [hc]
  decide

theorem ownTraps_outside {s : State} {c : Nat} {banks rows : List Nat}
    (h : (banks.any (fun b => !ownsBank (arrayOf s c) (slotNo c) b) || rows.any fun r => !ownsRow (arrayOf s c) (slotNo c) r) = true) :
    ownTraps s c banks rows = causeAt s c .mx .illenc 0 :: trapIf (!ownsArray s c) s c .mx .illsched := by
  simp only [ownTraps, h, trapIf_true, List.singleton_append]

theorem exec_illenc {i : Instr} {f : OpFn} {s : State} {b : Bead} {r : List Cause} (hs : CanIssue s b) (hw : wellFormed i = true)
    (hf : slotOp i = some f) (hk : slotOf i = some .mx) (hh : loneHeader i = {}) (hq : (f s.cur s).waits = none)
    (ht : (f s.cur s).traps = causeAt s s.cur .mx .illenc 0 :: r) (hr : ∀ y ∈ r, y.code = .illsched) :
    exec i s = .next (takeTrap s s.cur (causeAt s s.cur .mx .illenc 0)) := by
  rw [exec_traps hs hw hf hk hh hq (issueTrap_illenc rfl ht hr),
    bundleTrap_unwalked hs.thawed (show TrapCode.illenc ∉ walkedCodes by decide) rfl]

/-- Settles O24. -/
theorem outsideOwnedHalves : Obligations.OutsideOwnedHalves := by
  intro s b hs a
  refine ⟨fun hw ⟨r, hlo, hhi, hr⟩ => ?_, fun hw hb => ?_⟩
  · have hany : ((rowSpan a.row.toNat (a.imm.toNat + 1)).any fun r => !ownsRow (arrayOf s s.cur) (slotNo s.cur) r) = true := by
      rw [List.any_eq_true]
      refine ⟨r, ?_, by simp [hr]⟩
      rw [rowSpan, List.mem_map]
      exact ⟨r - a.row.toNat, List.mem_range.mpr (by omega), by omega⟩
    refine exec_illenc (i := .mclear a) (f := opMclear a) hs hw rfl rfl rfl rfl (r := trapIf (!ownsArray s s.cur) s s.cur .mx .illsched ++
      trapIf ((rowSpan a.row.toNat (a.imm.toNat + 1)).any (rowOpen (arrayOf s s.cur) (slotNo s.cur))) s s.cur .mx .illsched) ?_ ?_
    · simp only [opMclear, ownTraps_outside (banks := []) (by simpa using hany), List.cons_append]
    · intro y hy
      rcases List.mem_append.mp hy with hy | hy <;> exact code_of_mem_trapIf hy
  · refine exec_illenc (i := .mbinv a) (f := opMbinv a) hs hw rfl rfl rfl rfl (r := trapIf (!ownsArray s s.cur) s s.cur .mx .illsched) ?_
      fun y hy => code_of_mem_trapIf hy
    exact ownTraps_outside (by simp [hb])

end Sys2Proof.Matrix
end

section
/-! SUPPORT. Which steps there are: every event leads to a next state, and a lone operation faults in an idle context alone (R23). -/
namespace Sys2Proof.Progress
open Sys2Proof Sys2Proof.Machine Sys2Proof.Claims Sys2Proof.Encoding Sys2Proof.Lone

/-- A step that leads to a next state from every state. -/
def Forward (f : State → Host.Outcome State Fault Refusal) : Prop := ∀ s, ∃ t, f s = .next t

/-! ### Instructions -/

theorem unitSlot_eq : (u : VUnit) → unitSlot u = some (slotV u)
  | .a => rfl
  | .b => rfl

/-- An operation with a meaning has a slot (R61). -/
theorem exists_slotOf {i : Instr} {f : OpFn} (hf : slotOp i = some f) : ∃ k, slotOf i = some k := by
  cases i with
  | vadd a | vsub a | vmul a | vfma a | vfnma a | vmin a | vmax a | vabs a | vneg a | vcmpEq a | vcmpNe a
  | vcmpLt a | vcmpLe a | vcmpUn a | vsel a | vclass a | viadd a | visub a | vimul a | vimulh a | vand a | vor a
  | vxor a | vshl a | vshr a | vsar a | vimin a | vimax a | viminn a | vimaxn a | vicmpEq a | vicmpNe a
  | vicmpLt a | vicmpLe a | vicmpLtn a | vicmpLen a | vcvt a | vscale a | vdiv a | vsqrt a | vrsqrt a | vrcp a
  | vexp2 a | vlog2 a | vtanh a | vsigm a | vsum a | vrmax a | vrmin a | vbcast a | vmov a | vlane a | vins a
  | viota a | vsig a | vsigFin a => exact ⟨slotV a.unit, unitSlot_eq a.unit⟩
  | _ => cases hf <;> exact ⟨_, rfl⟩

/-- Every event leads to a next state. -/
theorem forward_exec {i : Instr} (h : slotOp i = none) : Forward (exec i) := by
  cases i <;> cases h <;> exact fun s => ⟨_, rfl⟩

/-- A lone operation leads to a next state where its context runs a bead. -/
theorem exec_slot {i : Instr} {f : OpFn} (hf : slotOp i = some f) (s : State) :
    (∃ t, exec i s = .next t) ∨ exec i s = .fault .idleContext ∧ (s.ctx s.cur).run = none := by
  obtain ⟨k, hk⟩ := exists_slotOf hf
  rw [exec_eq_issueAlone hf hk, issueAlone]
  cases hr : (s.ctx s.cur).run with
  | none => exact .inr ⟨rfl, rfl⟩
  | some b => exact .inl ⟨_, rfl⟩

/-! ### What moves on its own -/

theorem forward_of_mem_events {who : Actor} {l : List (State → Host.Outcome State Fault Refusal)} (h : ∀ f ∈ l, Forward f) :
    ∀ e ∈ events who l, Forward e.run := by
  intro e he
  obtain ⟨f, hf, rfl⟩ := List.mem_map.mp he
  exact h f hf

theorem forward_append {α : Type} {p : α → Prop} {l m : List α} (hl : ∀ f ∈ l, p f) (hm : ∀ f ∈ m, p f) : ∀ f ∈ l ++ m, p f := by
  intro f hf
  exact (List.mem_append.mp hf).elim (hl f) (hm f)

theorem forward_map {α : Type} {l : List α} {f : α → State → Host.Outcome State Fault Refusal} (h : ∀ x, Forward (f x)) :
    ∀ g ∈ l.map f, Forward g := by
  intro g hg
  obtain ⟨x, -, rfl⟩ := List.mem_map.mp hg
  exact h x

theorem forward_flatMap {α : Type} {l : List α} {f : α → List (State → Host.Outcome State Fault Refusal)}
    (h : ∀ x, ∀ g ∈ f x, Forward g) : ∀ g ∈ l.flatMap f, Forward g := by
  intro g hg
  obtain ⟨x, -, hg⟩ := List.mem_flatMap.mp hg
  exact h x g hg

theorem mem_of_mem_rotateLeft {α : Type} {x : α} {l : List α} {n : Nat} (h : x ∈ l.rotateLeft n) : x ∈ l := by
  simp only [List.rotateLeft] at h
  split at h
  · exact h
  · exact (List.mem_append.mp h).elim List.mem_of_mem_drop List.mem_of_mem_take

theorem forward_contextEvents (s : State) (c : Nat) : ∀ e ∈ contextEvents s c, Forward e.run := by
  refine forward_append (forward_of_mem_events (forward_append ?_ (forward_map fun _ _ => ⟨_, rfl⟩))) (forward_of_mem_events ?_)
  · intro f hf
    fin_cases hf <;> exact fun s => ⟨_, rfl⟩
  · intro f hf
    fin_cases hf
    exact fun s => ⟨_, rfl⟩

theorem forward_queueEvents (s : State) (c : Nat) : ∀ e ∈ queueEvents s c, Forward e.run := by
  refine forward_of_mem_events ?_
  intro f hf
  fin_cases hf <;> exact fun s => ⟨_, rfl⟩

theorem forward_transferEvents (s : State) : ∀ e ∈ transferEvents s, Forward e.run := by
  intro e he
  obtain ⟨t, -, he⟩ := List.mem_flatMap.mp he
  refine forward_of_mem_events (forward_append (forward_append (forward_map fun _ _ => ⟨_, rfl⟩) ?_) ?_) e he
  · intro f hf
    fin_cases hf <;> exact fun s => ⟨_, rfl⟩
  · intro f hf
    split at hf
    · fin_cases hf
      exact fun s => ⟨_, rfl⟩
    · cases hf

theorem forward_hubEvents (s : State) : ∀ e ∈ hubEvents s, Forward e.run := by
  refine forward_of_mem_events ?_
  repeat' refine forward_append ?_ ?_
  · intro f hf
    fin_cases hf <;> exact fun s => ⟨_, rfl⟩
  · exact forward_map fun _ _ => ⟨_, rfl⟩
  · exact forward_map fun _ _ => ⟨_, rfl⟩
  · exact forward_map fun _ _ => ⟨_, rfl⟩
  · exact forward_map fun _ _ => ⟨_, rfl⟩
  · exact forward_flatMap fun ⟨_, _⟩ => forward_map fun ⟨_, _⟩ _ => ⟨_, rfl⟩
  · exact forward_map fun ⟨_, _, _⟩ _ => ⟨_, rfl⟩
  · exact forward_map fun ⟨_, _, _⟩ _ => ⟨_, rfl⟩
  · exact forward_map fun _ _ => ⟨_, rfl⟩
  · refine forward_flatMap fun ⟨_, _⟩ f hf => ?_
    fin_cases hf <;> exact fun s => ⟨_, rfl⟩
  · exact forward_map fun ⟨_, _⟩ _ => ⟨_, rfl⟩
  · exact forward_map fun _ _ => ⟨_, rfl⟩
  · exact forward_map fun _ _ => ⟨_, rfl⟩
  · exact forward_map fun _ _ => ⟨_, rfl⟩

theorem forward_choiceEvents : ∀ e ∈ choiceEvents, Forward e.run := forward_of_mem_events (forward_map fun _ _ => ⟨_, rfl⟩)

theorem forward_issueEvents (s : State) : ∀ e ∈ issueEvents s, Forward e.run := by
  intro e he
  obtain ⟨⟨k, x⟩, -, he⟩ := List.mem_flatMap.mp he
  refine forward_append (forward_append (forward_of_mem_events ?_) (forward_of_mem_events ?_)) (forward_of_mem_events ?_) e he <;>
  · intro f hf
    fin_cases hf <;> exact fun s => ⟨_, rfl⟩

theorem forward_agenda (s : State) : ∀ e ∈ agenda s, Forward e.run := by
  refine forward_append (forward_append (forward_append (forward_append ?_ (forward_transferEvents s)) (forward_hubEvents s))
    forward_choiceEvents) ?_
  · intro e he
    obtain ⟨⟨c, x⟩, -, he⟩ := List.mem_flatMap.mp he
    exact forward_append (forward_contextEvents s c) (forward_queueEvents s c) e he
  · intro e he
    exact forward_issueEvents s e (mem_of_mem_rotateLeft he)

theorem take_of_next {e : Event} {s t : State} (h : e.run s = .next t) : e.take s = .next (credit s e.who t) := by
  rw [Event.take, h]
theorem take_of_fault {e : Event} {s : State} {f : Fault} (h : e.run s = .fault f) : e.take s = .fault f := by
  rw [Event.take, h]

theorem forward_take {e : Event} (h : Forward e.run) : Forward e.take := by
  intro s
  obtain ⟨t, ht⟩ := h s
  exact ⟨_, take_of_next ht⟩

theorem forward_moveAlone : Forward moveAlone := by
  intro s
  unfold moveAlone
  split
  · exact ⟨_, rfl⟩
  · split
    · exact forward_take (forward_agenda s _ (List.mem_of_find?_eq_some ‹_›)) s
    · exact ⟨_, rfl⟩

/-- What moves next leads to a next state, or is a lone operation in an idle context. -/
theorem moveNext_spec (s : State) (l : List Instr) : (∃ t, moveNext s l = .next t) ∨
    ∃ i r f, l = i :: r ∧ slotOf i ≠ none ∧ (s.ctx s.cur).run = none ∧ moveNext s l = .fault f := by
  cases l with
  | nil => exact .inl (forward_moveAlone s)
  | cons i r =>
    cases hf : slotOp i with
    | none => exact .inl (forward_take (e := ⟨actorOf s i, exec i⟩) (forward_exec hf) _)
    | some f =>
      rcases exec_slot hf { s with script := r } with ⟨t, ht⟩ | ⟨ht, hr⟩
      · exact .inl ⟨_, take_of_next ht⟩
      · obtain ⟨k, hk⟩ := exists_slotOf hf
        exact .inr ⟨i, r, .idleContext, rfl, by simp [hk], hr, take_of_fault ht⟩

/-- Settles O59. -/
theorem stepsGoOn : Obligations.StepsGoOn := by
  intro s
  rcases moveNext_spec (expire (tick s)) s.script with ⟨t, ht⟩ | ⟨i, r, f, hl, hi, hr, ht⟩
  · have h : step s = .next (settleDue t) := by rw [step, ht]
    rw [h]
    exact ⟨nofun, nofun⟩
  · have h : step s = .fault f := by rw [step, ht]
    rw [h]
    exact ⟨nofun, fun _ _ => ⟨i, r, hl, hi, hr⟩⟩

end Sys2Proof.Progress
end

section
/-! SUPPORT. When the steps of a context happen, and what they leave (R23, R41, R46, R50, R51, R59, R91, R207, R208, R250, R266, R310,
R317, R337, R338, R372). -/
namespace Sys2Proof.ContextStep
open Sys2Proof Sys2Proof.Machine Sys2Proof.Claims Sys2Proof.Serving Sys2Proof.Reading

-- Many of this section's proofs are replayed at once otherwise, each on a stack of its own.
set_option Elab.async false

/-- What a read of the memory leaves of the debug comparators (R372). -/
theorem breaksAt_of_served {w : Bool} {s t : State} (h : Served w s t) (c : Nat) : breaksAt t c = breaksAt s c := by
  obtain ⟨_, _, hc⟩ := h.ctx c
  obtain ⟨_, _, hm⟩ := h.mgmt
  have hk (i : Nat) : comparator t (coreOf c) i = comparator s (coreOf c) i := by rw [comparator, comparator, hm]
  have hj : jobOf t c = jobOf s c := by simp only [jobOf, hc]
  simp only [breaksAt, hk, hj, hc]

theorem breaksAt_fetchLine (s : State) (c d : Nat) : breaksAt { fetchLine s c with cur := d } c = breaksAt s c :=
  breaksAt_of_served (w := false) (served_fetchLine (Served.refl false s) c) c

/-- The two contexts of a core are the first and the other one. -/
theorem other_context (s : State) (k : Nat) : (if firstOf s (2 * k) (2 * k + 1) = 2 * k then 2 * k + 1 else 2 * k) =
    4 * k + 1 - firstOf s (2 * k) (2 * k + 1) := by
  have h : firstOf s (2 * k) (2 * k + 1) = 2 * k ∨ firstOf s (2 * k) (2 * k + 1) = 2 * k + 1 := by
    unfold firstOf
    split_ifs <;> simp
  rcases h with h | h <;> rw [h]
  · rw [if_pos rfl]
    omega
  · rw [if_neg (by omega)]
    omega

theorem deliverNext_of_due {s : State} {c : Nat} {b : Bead} {x : Cause} {d : Bool} (hr : (s.ctx c).run = some b)
    (hn : nextTrap (s.ctx c) = some x) (hl : landsFirst (s.ctx c) = false) (hw : shadowWaits s c = false) (hd : x.deferred = d)
    (hc : ((s.ctx c).preempt != some .cancelled) = true) : deliverNext s c d =
      deliverTrap (s.modCtx c fun k => { k with pendTraps := k.pendTraps.filter (· != x) }) c b (stampTrap (s.ctx c).arch.cc x) := by
  have hc' : ((s.ctx c).preempt == some .cancelled) = false := by simpa [bne] using hc
  simp [deliverNext, hr, hn, hl, hw, hd, hc']

section
variable {s u : State} {p : Bool} {c : Nat}

theorem next_stallCycle (h : contextStep s (.stallCycle c) = some (p, u)) (hp : p = true) : exec (.stallCycle c) s = .next u := by
  cases h
  simp only [Bool.and_eq_true, bne_iff_ne, ne_eq, Bool.not_eq_true'] at hp
  obtain ⟨⟨hm, hn⟩, hd⟩ := hp
  simp [exec, execStallCycle, hm, hn, hd]

theorem next_bundleIssue (h : contextStep s (.bundleIssue c) = some (p, u)) (hp : p = true) : exec (.bundleIssue c) s = .next u := by
  simp only [contextStep] at h
  split at h
  · rename_i pa e hf
    cases h
    simp only [Bool.and_eq_true, beq_iff_eq, Bool.not_eq_true', Option.isNone_iff_eq_none] at hp
    obtain ⟨⟨⟨⟨⟨⟨hm, hd⟩, hn⟩, hz⟩, hg⟩, hb⟩, hr⟩ := hp
    simp [exec, execBundleIssue, hm, hd, hn, hz, hg, hf, issueDecoded, breaksAt_fetchLine, hb, hr, Bundle.header, Bundle.fns]
  · cases h

theorem next_issueMerge {k : Nat} (h : contextStep s (.issueMerge k) = some (p, u)) (hp : p = true) : exec (.issueMerge k) s = .next u := by
  cases h
  simp only [Bool.and_eq_true, Bool.not_eq_true'] at hp
  obtain ⟨⟨h1, h2⟩, h3⟩ := hp
  simp only [exec, execIssueMerge, h1, h2, Bool.or_false, Bool.false_eq_true, if_false, other_context]
  cases ha : ready s (2 * k) <;> cases hb : ready s (2 * k + 1) <;> simp_all

theorem next_resultLand (h : contextStep s (.resultLand c) = some (p, u)) (hp : p = true) : exec (.resultLand c) s = .next u := by
  cases h
  simp only [Bool.and_eq_true, Bool.not_eq_true', Option.isNone_iff_eq_none, List.all_eq_true] at hp
  obtain ⟨⟨⟨hr, he⟩, ha⟩, hb⟩ := hp
  have hrun : (s.ctx c).run.isNone = false := by simpa [Option.isSome_iff_ne_none] using hr
  have hlate : lateDue (s.ctx c).arch = false := by
    simp only [lateDue, List.any_eq_false, Bool.and_eq_true, Bool.not_eq_true', decide_eq_true_eq, not_and]
    rintro e hm ⟨hdue, hw⟩
    have := (ha e (List.mem_filter.mpr ⟨hm, by simpa using hdue⟩)).2
    rw [hw] at this
    cases this
  have hplain : plainDue (dueNow (s.ctx c).arch) = true := List.all_eq_true.mpr fun e hm => by simpa using (ha e hm).1.1
  have hdead : ((dueNow (s.ctx c).arch).any (·.deadline)) = false := List.any_eq_false.mpr fun e hm => by simpa using (ha e hm).1.2
  have hd : (dueNow (s.ctx c).arch) = (s.ctx c).arch.wtb.filter fun l => decide (l.due ≤ (s.ctx c).arch.cc) := rfl
  rw [hd] at hplain hdead
  simp only [exec, execResultLand, hd, hrun, he, hlate, hplain, hdead, hb, Bool.or_self, Bool.not_true, Bool.false_eq_true, if_false]

theorem next_controlRegisterWrite (h : contextStep s (.controlRegisterWrite c) = some (p, u)) (hp : p = true) :
    exec (.controlRegisterWrite c) s = .next u := by
  cases h
  simp only [Bool.and_eq_true, Bool.not_eq_true'] at hp
  simp [exec, execControlRegisterWrite, hp]

theorem next_xpdataWrite (h : contextStep s (.xpdataWrite c) = some (p, u)) : exec (.xpdataWrite c) s = .next u := by
  cases h
  rfl

theorem next_rqRegisterWrite (h : contextStep s (.rqRegisterWrite c) = some (p, u)) : exec (.rqRegisterWrite c) s = .next u := by
  cases h
  rfl

theorem next_atomicReleaseDeadline (h : contextStep s (.atomicReleaseDeadline c) = some (p, u)) (hp : p = true) :
    exec (.atomicReleaseDeadline c) s = .next u := by
  cases h
  simp only [Bool.and_eq_true, Bool.not_eq_true', Option.isNone_iff_eq_none] at hp
  obtain ⟨⟨⟨⟨hr, hl⟩, hq⟩, hd⟩, hb⟩ := hp
  have hrun : (s.ctx c).run.isNone = false := by simpa [Option.isSome_iff_ne_none] using hr
  simp only [exec, execAtomicReleaseDeadline, hrun, hl, hq, hd, hb, Bool.not_true, Bool.or_self, Bool.false_eq_true, if_false]

theorem next_loadDataArrive {e : MemErr} (h : contextStep s (.loadDataArrive c e) = some (p, u)) (hp : p = true) :
    exec (.loadDataArrive c e) s = .next u := by
  simp only [contextStep] at h
  split at h
  · rename_i r rest hr
    cases h
    simp only [Bool.not_eq_true'] at hp
    simp [exec, execLoadDataArrive, hr, hp]
  · cases h

theorem next_registerMissMicroTrap {port : Nat} (h : contextStep s (.registerMissMicroTrap c port) = some (p, u)) (hp : p = true) :
    exec (.registerMissMicroTrap c port) s = .next u := by
  simp only [contextStep] at h
  split at h
  · rename_i b _ hr hf
    cases h
    simp only [Bool.and_eq_true] at hp
    obtain ⟨hm, hc⟩ := hp
    simp only [exec, execRegisterMissMicroTrap, hr, hf, hm, hc, Bool.not_true, Bool.false_eq_true, if_false]
  · cases h

theorem next_trapDelivery (h : contextStep s (.trapDelivery c) = some (p, u)) (hp : p = true) :
    exec (.trapDelivery c) s = .next u := by
  simp only [contextStep] at h
  split at h
  · rename_i b x hr hn
    cases h
    simp only [Bool.and_eq_true, Bool.not_eq_true'] at hp
    obtain ⟨⟨⟨hl, hw⟩, hd⟩, hc⟩ := hp
    exact congrArg Host.Outcome.next (deliverNext_of_due hr hn hl hw hd hc)
  · cases h

theorem next_hmFaultTrap (h : contextStep s (.hmFaultTrap c) = some (p, u)) (hp : p = true) : exec (.hmFaultTrap c) s = .next u := by
  simp only [contextStep] at h
  split at h
  · rename_i b x hr hn
    cases h
    simp only [Bool.and_eq_true, Bool.not_eq_true'] at hp
    obtain ⟨⟨⟨⟨hl, hw⟩, hd⟩, hc⟩, hb⟩ := hp
    exact congrArg Host.Outcome.next ((if_pos hb).trans (deliverNext_of_due hr hn hl hw hd hc))
  · cases h

theorem next_budgetOverrun (h : contextStep s (.budgetOverrun c) = some (p, u)) (hp : p = true) :
    exec (.budgetOverrun c) s = .next u := by
  simp only [contextStep] at h
  split at h
  · rename_i b hr
    cases h
    simp only [Bool.and_eq_true, decide_eq_true_eq] at hp
    simp [exec, execBudgetOverrun, hr, hp]
  · cases h

theorem next_debugStop (h : contextStep s (.debugStop c) = some (p, u)) (hp : p = true) : exec (.debugStop c) s = .next u := by
  cases h
  exact congrArg Host.Outcome.next (if_pos hp)

theorem next_worldSwitch {k vf : Nat} (h : contextStep s (.worldSwitch k vf) = some (p, u)) (hp : p = true) :
    exec (.worldSwitch k vf) s = .next u := by
  cases h
  exact congrArg Host.Outcome.next (if_neg (by simpa [Config.coresPerDie, Config.dies] using hp))

theorem next_forcedPreemption (h : contextStep s (.forcedPreemption c) = some (p, u)) (hp : p = true) :
    exec (.forcedPreemption c) s = .next u := by
  simp only [contextStep] at h
  split at h
  · rename_i b why hr hw
    cases h
    simp only [Bool.and_eq_true] at hp
    obtain ⟨hs, hc⟩ := hp
    have hwait : (why != .cancelled && !settled (s.ctx c)) = false := by
      cases hq : settled (s.ctx c) <;> simp_all
    cases why <;> simp only [exec, execForcedPreemption, hr, hw, hs, hwait, Bool.not_true, Bool.false_eq_true, if_false]
  · cases h

theorem next_pageWalk {va : Nat} (h : contextStep s (.pageWalk c va) = some (p, u)) (hp : p = true) :
    exec (.pageWalk c va) s = .next u := by
  simp only [contextStep] at h
  split at h
  · rename_i b hr
    split at h
    · rename_i e hw
      cases h
      simp only [Bool.and_eq_true, Option.isNone_iff_eq_none] at hp
      obtain ⟨hc, hd⟩ := hp
      simp only [exec, execPageWalk, pageWalk, hr, hc, hd, hw, Option.isSome_none, Bool.false_eq_true, if_false]
      rfl
    · cases h
  · cases h

theorem next_phaseSplitTakesEffect {k : Nat} (h : contextStep s (.phaseSplitTakesEffect k) = some (p, u)) (hp : p = true) :
    exec (.phaseSplitTakesEffect k) s = .next u := by
  simp only [contextStep] at h
  split at h
  · rename_i x d due hf
    cases h
    simp only [Bool.not_eq_true'] at hp
    simp [exec, execPhaseSplitTakesEffect, hf, hp]
  · cases h

end

/-- Settles O43. -/
theorem contextSteps : Obligations.ContextSteps := by
  intro i p u s h hp
  cases i with
  | stallCycle c => exact next_stallCycle h hp
  | bundleIssue c => exact next_bundleIssue h hp
  | issueMerge k => exact next_issueMerge h hp
  | resultLand c => exact next_resultLand h hp
  | controlRegisterWrite c => exact next_controlRegisterWrite h hp
  | xpdataWrite c => exact next_xpdataWrite h
  | rqRegisterWrite c => exact next_rqRegisterWrite h
  | atomicReleaseDeadline c => exact next_atomicReleaseDeadline h hp
  | loadDataArrive c e => exact next_loadDataArrive h hp
  | registerMissMicroTrap c port => exact next_registerMissMicroTrap h hp
  | trapDelivery c => exact next_trapDelivery h hp
  | hmFaultTrap c => exact next_hmFaultTrap h hp
  | budgetOverrun c => exact next_budgetOverrun h hp
  | debugStop c => exact next_debugStop h hp
  | worldSwitch k vf => exact next_worldSwitch h hp
  | forcedPreemption c => exact next_forcedPreemption h hp
  | pageWalk c va => exact next_pageWalk h hp
  | phaseSplitTakesEffect k => exact next_phaseSplitTakesEffect h hp
  | _ => cases h

end Sys2Proof.ContextStep
end

section
/-! SUPPORT. When the head of a store queue is performed, and what it leaves (R196, R200 to R202, R206, R209, R214, R235, R242, R244, R249,
R252, R350 to R354, R357 to R359, R383). -/
namespace Sys2Proof.QueueStep
open Sys2Proof Sys2Proof.Machine Sys2Proof.Claims

/-! ### What guards a step at the head -/

theorem exists_head {s : State} {c : Nat} {f : Entry → Act → Option (Bool × State)} {x : Bool × State} (h : atHead s c f = some x) :
    ∃ e, headEntry s c = some e ∧ f e e.act = some x := by
  unfold atHead at h
  split at h
  · exact ⟨_, ‹_›, h⟩
  · cases h

section
variable {s : State} {c : Nat} {e : Entry} {f : State → State}

theorem onLine_of_served {pa : Nat} {pte : W64} (hh : phaseHolds s c = false) (ha : (atomFault s (agentOf s c) pa pte).isNone = true) :
    onLine s c pa pte e f = f s := by
  rw [Option.isNone_iff_eq_none] at ha
  simp only [onLine, hh, ha, Bool.false_eq_true, if_false]

theorem publish_of_canPush (h : canPush s (coreOf c) = true) : publish s c e f = f (pushed s c e) := by
  rw [canPush, Option.isNone_iff_eq_none] at h
  simp only [publish, h, pushed]

theorem handReads_of_readable {l : List Nat} (h : readable s l = true) : handReads s c e l f = f (popHead (l.foldl findErrors s) c) := by
  rw [readable, Option.isNone_iff_eq_none] at h
  simp only [handReads, h]

end

/-! ### The steps -/

section
variable {s u : State} {p : Bool} {c : Nat}

theorem next_drain (h : queueStep s (.drain c) = some (p, u)) (hp : p = true) : exec (.drain c) s = .next u := by
  dsimp only [queueStep] at h
  obtain ⟨e, he, h⟩ := exists_head h
  cases hx : e.act with
  | store l ptes =>
    rw [hx] at h
    cases h
    simp only [Bool.and_eq_true, Bool.not_eq_true', Option.isNone_iff_eq_none] at hp
    obtain ⟨⟨hs, hh⟩, hf⟩ := hp
    simp only [exec, execDrain, he, hx, hs, hh, drainStore, hf, Bool.or_self, Bool.false_eq_true, if_false]
  | mxWrite t b l =>
    rw [hx] at h
    cases b with
    | false => cases h
    | true =>
      cases h
      simp only [Bool.not_eq_true'] at hp
      simp only [exec, execDrain, he, hx, hp, Bool.false_eq_true, if_false]
  | _ =>
    rw [hx] at h
    cases h

theorem next_host (h : queueStep s (.host c) = some (p, u)) (hp : p = true) : exec (.host c) s = .next u := by
  dsimp only [queueStep] at h
  obtain ⟨e, he, h⟩ := exists_head h
  cases hx : e.act with
  | store l ptes =>
    rw [hx] at h
    cases h
    simp only [Bool.and_eq_true, Bool.not_eq_true'] at hp
    simp only [exec, execHost, he, hx, hp, Bool.not_true, Bool.or_self, Bool.false_eq_true, if_false]
  | atomic op pa n v x ids due pte =>
    rw [hx] at h
    cases h
    simp only [Bool.and_eq_true, Bool.not_eq_true'] at hp
    simp only [exec, execHost, he, hx, hp, Bool.not_true, Bool.or_self, Bool.false_eq_true, if_false]
  | _ =>
    rw [hx] at h
    cases h

theorem next_atom (h : queueStep s (.atom c) = some (p, u)) (hp : p = true) : exec (.atom c) s = .next u := by
  dsimp only [queueStep] at h
  obtain ⟨e, he, h⟩ := exists_head h
  cases hx : e.act with
  | atomic op pa n v x ids due pte =>
    rw [hx] at h
    cases h
    simp only [Bool.and_eq_true, Bool.not_eq_true'] at hp
    obtain ⟨⟨⟨⟨hh, hq⟩, hb⟩, hr⟩, hd⟩ := hp
    simp only [exec, execAtom, he, hx, hh, hq, hb, hr, hd, Bool.or_self, Bool.false_eq_true, if_false]
    cases hm : ownMgmt s pa <;> simp
  | _ =>
    rw [hx] at h
    cases h

theorem next_hand (h : queueStep s (.hand c) = some (p, u)) (hp : p = true) : exec (.hand c) s = .next u := by
  dsimp only [queueStep] at h
  obtain ⟨e, he, h⟩ := exists_head h
  cases hx : e.act with
  | tileStore t n =>
    rw [hx] at h
    cases h
    simp only [Bool.and_eq_true, Bool.not_eq_true'] at hp
    simp only [exec, execHand, he, hx, hp.1, handReads_of_readable hp.2, Bool.false_eq_true, if_false]
  | append t src hdr pitch limit frames va =>
    rw [hx] at h
    cases h
    simp only [Bool.and_eq_true, Bool.not_eq_true', Option.isNone_iff_eq_none] at hp
    obtain ⟨⟨hh, ha⟩, hr⟩ := hp
    simp only [exec, execHand, he, hx, hh, ha, handReads_of_readable hr, Bool.false_eq_true, if_false]
  | _ =>
    rw [hx] at h
    cases h

theorem next_mxTileWriteFormed (h : queueStep s (.mxTileWriteFormed c) = some (p, u)) : exec (.mxTileWriteFormed c) s = .next u := by
  simp only [queueStep] at h
  split at h
  · rename_i q _ hq
    cases h
    simp only [exec, execMxTileWriteFormed, hq]
  · rename_i w hq hw
    cases h
    simp only [exec, execMxTileWriteFormed, hq, hw]
  · cases h

theorem next_cbindPerform (h : queueStep s (.cbindPerform c) = some (p, u)) (hp : p = true) : exec (.cbindPerform c) s = .next u := by
  dsimp only [queueStep] at h
  obtain ⟨e, he, h⟩ := exists_head h
  cases hx : e.act with
  | cbind pa base len pte =>
    rw [hx] at h
    cases h
    simp only [Bool.and_eq_true, Bool.not_eq_true'] at hp
    simp only [exec, execCbindPerform, he, hx, onLine_of_served hp.1 hp.2]
  | _ =>
    rw [hx] at h
    cases h

theorem next_cacqLock (h : queueStep s (.cacqLock c) = some (p, u)) (hp : p = true) : exec (.cacqLock c) s = .next u := by
  dsimp only [queueStep] at h
  obtain ⟨e, he, h⟩ := exists_head h
  cases hx : e.act with
  | cacq pa pte =>
    rw [hx] at h
    cases h
    simp only [Bool.and_eq_true, Bool.not_eq_true', Bool.or_eq_true] at hp
    obtain ⟨⟨⟨hh, hr⟩, ha⟩, hc⟩ := hp
    simp only [exec, execCacqLock, he, hx, hr, onLine_of_served hh ha, Bool.false_eq_true, if_false]
    cases hl : isHeld (lockWord s pa) with
    | false => rfl
    | true => simp [hc.resolve_left (by simp [hl])]
  | _ =>
    rw [hx] at h
    cases h

theorem next_ctryPerform (h : queueStep s (.ctryPerform c) = some (p, u)) (hp : p = true) : exec (.ctryPerform c) s = .next u := by
  dsimp only [queueStep] at h
  obtain ⟨e, he, h⟩ := exists_head h
  cases hx : e.act with
  | ctry pa uid pte =>
    rw [hx] at h
    cases h
    simp only [Bool.and_eq_true, Bool.not_eq_true', Option.isNone_iff_eq_none] at hp
    obtain ⟨⟨hh, hr⟩, ha⟩ := hp
    cases uid <;> simp only [exec, execCtryPerform, he, hx, hr, hh, ha, Bool.or_self, Bool.false_eq_true, if_false]
  | _ =>
    rw [hx] at h
    cases h

theorem next_crelPerform (h : queueStep s (.crelPerform c) = some (p, u)) (hp : p = true) : exec (.crelPerform c) s = .next u := by
  dsimp only [queueStep] at h
  obtain ⟨e, he, h⟩ := exists_head h
  cases hx : e.act with
  | crel pa keep pte =>
    rw [hx] at h
    cases h
    simp only [Bool.and_eq_true, Bool.not_eq_true'] at hp
    obtain ⟨⟨hh, ha⟩, hb⟩ := hp
    rw [Option.isNone_iff_eq_none] at hb
    simp only [exec, execCrelPerform, he, hx, onLine_of_served hh ha, hb]
  | _ =>
    rw [hx] at h
    cases h

theorem next_fencePerform (h : queueStep s (.fencePerform c) = some (p, u)) (hp : p = true) : exec (.fencePerform c) s = .next u := by
  dsimp only [queueStep] at h
  obtain ⟨e, he, h⟩ := exists_head h
  cases hx : e.act with
  | fence n =>
    rw [hx] at h
    dsimp only at h
    split_ifs at h with h0 h2 <;> cases h
    · subst h0
      simp only [exec, execFencePerform, he, hx]
    · obtain ⟨rfl, ha⟩ := h2
      simp only [Bool.and_eq_true, Bool.not_eq_true', canPush, Option.isNone_iff_eq_none] at hp
      simp only [exec, execFencePerform, he, hx, hp.1, hp.2, ha, if_true, Bool.false_eq_true, if_false]
    · simp only [Bool.and_eq_true, Bool.not_eq_true'] at hp
      have hq : n = 2 → (s.ctx c).hostAddr.isSome = false := fun h => by simpa [h] using h2
      by_cases hn : n = 2
      · subst hn
        simp only [exec, execFencePerform, he, hx, hp.1, hq rfl, publish_of_canPush hp.2, Bool.false_eq_true, if_false]
      · simp only [exec, execFencePerform, he, hx, publish_of_canPush hp.2]
  | _ =>
    rw [hx] at h
    cases h

theorem next_hostFlushComplete (h : queueStep s (.hostFlushComplete c) = some (p, u)) (hp : p = true) :
    exec (.hostFlushComplete c) s = .next u := by
  dsimp only [queueStep] at h
  obtain ⟨e, he, h⟩ := exists_head h
  cases hx : e.act with
  | fence n =>
    rw [hx] at h
    split at h
    · rename_i h2
      cases h2
      cases h
      simp only [exec, execHostFlushComplete, he, hp, hx]
    · cases h
  | _ =>
    rw [hx] at h
    cases h

theorem next_sigPerform (h : queueStep s (.sigPerform c) = some (p, u)) (hp : p = true) : exec (.sigPerform c) s = .next u := by
  dsimp only [queueStep] at h
  obtain ⟨e, he, h⟩ := exists_head h
  cases hx : e.act with
  | sig pa op b pte =>
    rw [hx] at h
    cases h
    simp only [Bool.and_eq_true, Bool.not_eq_true'] at hp
    obtain ⟨⟨hh, ha⟩, hb⟩ := hp
    simp only [exec, execSigPerform, he, hx, onLine_of_served hh ha, publish_of_canPush hb]
  | _ =>
    rw [hx] at h
    cases h

theorem next_spawnPerform (h : queueStep s (.spawnPerform c) = some (p, u)) (hp : p = true) : exec (.spawnPerform c) s = .next u := by
  dsimp only [queueStep] at h
  obtain ⟨e, he, h⟩ := exists_head h
  cases hx : e.act with
  | spawn desc =>
    rw [hx] at h
    cases h
    simp only [Bool.and_eq_true, Bool.not_eq_true'] at hp
    simp only [exec, execSpawnPerform, he, hx, publish_of_canPush hp.1, hp.2, Bool.false_eq_true, if_false]
  | _ =>
    rw [hx] at h
    cases h

theorem next_postPerform (h : queueStep s (.postPerform c) = some (p, u)) (hp : p = true) : exec (.postPerform c) s = .next u := by
  dsimp only [queueStep] at h
  obtain ⟨e, he, h⟩ := exists_head h
  cases hx : e.act with
  | post locket m msg =>
    rw [hx] at h
    cases h
    simp only [exec, execPostPerform, he, hx, publish_of_canPush hp]
  | _ =>
    rw [hx] at h
    cases h

theorem next_cancelPerform (h : queueStep s (.cancelPerform c) = some (p, u)) (hp : p = true) : exec (.cancelPerform c) s = .next u := by
  dsimp only [queueStep] at h
  obtain ⟨e, he, h⟩ := exists_head h
  cases hx : e.act with
  | cancel lvl sa =>
    rw [hx] at h
    cases h
    simp only [Bool.or_eq_true, beq_iff_eq] at hp
    have hn : ¬(targetJob s e lvl sa.toNat ≠ e.job ∧ (!e.sup) = true) := by
      rintro ⟨h1, h2⟩
      rcases hp with h | h
      · exact h1 h
      · simp [h] at h2
    simp only [exec, execCancelPerform, he, hx, if_neg hn]
  | _ =>
    rw [hx] at h
    cases h

theorem next_eretPerform (h : queueStep s (.eretPerform c) = some (p, u)) (hp : p = true) : exec (.eretPerform c) s = .next u := by
  dsimp only [queueStep] at h
  obtain ⟨e, he, h⟩ := exists_head h
  cases hx : e.act with
  | eret va =>
    rw [hx] at h
    cases h
    simp only [Bool.and_eq_true] at hp
    simp only [exec, execEretPerform, he, hx, publish_of_canPush hp.1, returnFromTrap, hp.2, if_true]
  | _ =>
    rw [hx] at h
    cases h

theorem next_tlbinvPerform (h : queueStep s (.tlbinvPerform c) = some (p, u)) (hp : p = true) : exec (.tlbinvPerform c) s = .next u := by
  dsimp only [queueStep] at h
  obtain ⟨e, he, h⟩ := exists_head h
  cases hx : e.act with
  | tlbinv scope job va =>
    rw [hx] at h
    cases h
    simp only [Bool.and_eq_true, Bool.not_eq_true'] at hp
    simp only [exec, execTlbinvPerform, he, hx, publish_of_canPush hp.1, hp.2, Bool.false_eq_true, if_false]
  | _ =>
    rw [hx] at h
    cases h

theorem next_qsetPerform (h : queueStep s (.qsetPerform c) = some (p, u)) (hp : p = true) : exec (.qsetPerform c) s = .next u := by
  dsimp only [queueStep] at h
  obtain ⟨e, he, h⟩ := exists_head h
  cases hx : e.act with
  | qset q f v =>
    rw [hx] at h
    cases h
    have hn : (!e.sup && (queue s q).job != e.job) = false := by
      simp only [Bool.or_eq_true, beq_iff_eq] at hp
      rcases hp with h | h <;> simp [h]
    simp only [exec, execQsetPerform, he, hx, hn, Bool.false_eq_true, if_false]
  | _ =>
    rw [hx] at h
    cases h

theorem next_tsrfPerform (h : queueStep s (.tsrfPerform c) = some (p, u)) (hp : p = true) : exec (.tsrfPerform c) s = .next u := by
  dsimp only [queueStep] at h
  obtain ⟨e, he, h⟩ := exists_head h
  cases hx : e.act with
  | tsrf pa =>
    rw [hx] at h
    cases h
    rw [Option.isNone_iff_eq_none] at hp
    simp only [exec, execTsrfPerform, he, hx, hp]
  | _ =>
    rw [hx] at h
    cases h

theorem next_predictorUpdateRelease (h : queueStep s (.predictorUpdateRelease c) = some (p, u)) (hp : p = true) :
    exec (.predictorUpdateRelease c) s = .next u := by
  dsimp only [queueStep] at h
  obtain ⟨e, he, h⟩ := exists_head h
  cases hx : e.act with
  | epupd t i actual =>
    rw [hx] at h
    cases h
    simp only [exec, execPredictorUpdateRelease, he, hx, hp, if_true]
  | _ =>
    rw [hx] at h
    cases h

theorem next_predictorBindRelease (h : queueStep s (.predictorBindRelease c) = some (p, u)) :
    exec (.predictorBindRelease c) s = .next u := by
  dsimp only [queueStep] at h
  obtain ⟨e, he, h⟩ := exists_head h
  cases hx : e.act with
  | epcfg t op seed layer =>
    rw [hx] at h
    cases h
    simp only [exec, execPredictorBindRelease, he, hx]
  | _ =>
    rw [hx] at h
    cases h

theorem next_hm (h : queueStep s (.hm c) = some (p, u)) (hp : p = true) : exec (.hm c) s = .next u := by
  dsimp only [queueStep] at h
  obtain ⟨e, he, h⟩ := exists_head h
  cases hx : e.act with
  | hmput names lines row n =>
    rw [hx] at h
    dsimp only at h
    split at h
    · rename_i t ht
      cases h
      simp only [Bool.and_eq_true, Bool.not_eq_true', Option.isNone_iff_eq_none] at hp
      simp only [exec, execHm, he, hx, hp.1, hp.2, ht, Bool.false_eq_true, if_false, Sum.elim_inr, id]
    · cases h
  | hmnode names lines row =>
    rw [hx] at h
    dsimp only at h
    split at h
    · rename_i t ht
      cases h
      simp only [Bool.and_eq_true, Bool.not_eq_true', Option.isNone_iff_eq_none] at hp
      simp only [exec, execHm, he, hx, hp.1, hp.2, ht, Bool.false_eq_true, if_false, Sum.elim_inr, id]
    · cases h
  | hmhold names row n | hmdrop names row n =>
    rw [hx] at h
    cases h
    simp only [Bool.and_eq_true, Bool.not_eq_true', Option.isNone_iff_eq_none] at hp
    simp only [exec, execHm, he, hx, hp.1, hp.2, Bool.false_eq_true, if_false]
  | hmswap values pa ids pte =>
    rw [hx] at h
    cases h
    simp only [Bool.and_eq_true, Bool.not_eq_true', Option.isNone_iff_eq_none] at hp
    simp only [exec, execHm, he, hx, hp.1, hp.2, Bool.false_eq_true, if_false]
  | _ =>
    rw [hx] at h
    cases h

theorem next_hmcopyHmStep (h : queueStep s (.hmcopyHmStep c) = some (p, u)) (hp : p = true) : exec (.hmcopyHmStep c) s = .next u := by
  dsimp only [queueStep] at h
  obtain ⟨e, he, h⟩ := exists_head h
  cases hx : e.act with
  | hmcopy names row depth frames va t =>
    rw [hx] at h
    cases h
    simp only [Bool.and_eq_true, Bool.not_eq_true', Option.isNone_iff_eq_none, Bool.or_eq_true, beq_iff_eq] at hp
    obtain ⟨⟨hw, hf⟩, hr⟩ := hp
    have hn : (nameRow s names row != 0 && (findName s (hidOf s e.job) (nameRow s names row)).isNone) = false := by
      rcases hr with hr | hr
      · simp [hr]
      · simp [hr]
    simp only [exec, execHmcopyHmStep, he, hx, hw, hf, hn, Bool.false_eq_true, if_false]
  | _ =>
    rw [hx] at h
    cases h

theorem next_chsendHand (h : queueStep s (.chsendHand c) = some (p, u)) (hp : p = true) : exec (.chsendHand c) s = .next u := by
  dsimp only [queueStep] at h
  obtain ⟨e, he, h⟩ := exists_head h
  cases hx : e.act with
  | chsend ch src entry t =>
    rw [hx] at h
    dsimp only at h
    split at h
    · rename_i pa pte ht
      cases h
      simp only [Bool.and_eq_true, Bool.not_eq_true'] at hp
      obtain ⟨⟨hh, ha⟩, hr⟩ := hp
      simp only [exec, execChsendHand, he, hx, ht, hh, onLine_of_served hh ha, handReads_of_readable hr, Bool.false_eq_true, if_false]
    · cases h
  | _ =>
    rw [hx] at h
    cases h

end

/-- Settles O44. -/
theorem queueSteps : Obligations.QueueSteps := by
  intro i p u s h hp
  cases i with
  | drain c => exact next_drain h hp
  | host c => exact next_host h hp
  | atom c => exact next_atom h hp
  | hand c => exact next_hand h hp
  | mxTileWriteFormed c => exact next_mxTileWriteFormed h
  | cbindPerform c => exact next_cbindPerform h hp
  | cacqLock c => exact next_cacqLock h hp
  | ctryPerform c => exact next_ctryPerform h hp
  | crelPerform c => exact next_crelPerform h hp
  | fencePerform c => exact next_fencePerform h hp
  | hostFlushComplete c => exact next_hostFlushComplete h hp
  | sigPerform c => exact next_sigPerform h hp
  | spawnPerform c => exact next_spawnPerform h hp
  | postPerform c => exact next_postPerform h hp
  | cancelPerform c => exact next_cancelPerform h hp
  | eretPerform c => exact next_eretPerform h hp
  | tlbinvPerform c => exact next_tlbinvPerform h hp
  | qsetPerform c => exact next_qsetPerform h hp
  | tsrfPerform c => exact next_tsrfPerform h hp
  | predictorUpdateRelease c => exact next_predictorUpdateRelease h hp
  | predictorBindRelease c => exact next_predictorBindRelease h
  | hm c => exact next_hm h hp
  | hmcopyHmStep c => exact next_hmcopyHmStep h hp
  | chsendHand c => exact next_chsendHand h hp
  | _ => cases h

end Sys2Proof.QueueStep
end

section
/-! SUPPORT. When a transfer, a cache, a home or the hallmark walker takes a step, and what it leaves (R196, R206, R211, R219 to R225, R245,
R248, R273, R281, R287, R294, R295, R299, R378, R383, R384, R389). -/
namespace Sys2Proof.MemoryStep
open Sys2Proof Sys2Proof.Machine Sys2Proof.Claims

-- Many of this section's proofs are replayed at once otherwise, each on a stack of its own.
set_option Elab.async false

/-! ### Steps of the home -/

/-- A request for an idle line that its home can serve completes in one access (R221). -/
theorem request_of_oneAccess {s : State} {req : Request} {q line : Nat} {serve : State → Nat → Nat → State}
    (hs : ∀ t, serve t q line = if req = .rds then serveRdS t q line else serveRdX t q line)
    (h : (oneAccess s req q line serve).1 = true) : request s req q line = (oneAccess s req q line serve).2 := by
  simp only [oneAccess, Bool.and_eq_true, Bool.not_eq_true'] at h
  obtain ⟨⟨⟨⟨⟨ht, hp⟩, hl⟩, hb⟩, hf⟩, hn⟩ := h
  simp only [request, ht, hp, hl, hb, beginRequest, hf, oneAccess, Bool.not_true, Bool.or_self, Bool.false_eq_true, if_false]
  cases hi : inHeap (carry s req.message line q (paAgent (line * 128))) (line * 128) with
  | true =>
    rw [hi, if_pos rfl, beq_iff_eq] at hn
    subst hn
    rw [if_pos rfl, if_pos rfl, hs, if_pos rfl]
    rfl
  | false =>
    rw [hi, if_neg (by simp), beq_iff_eq] at hn
    rw [if_neg (by simp), hn, hs]

/-- The home takes a WB or CE of the owner of an idle line (R222). -/
theorem writeback_of_takenBack {s : State} {kind : CohKind} {a line : Nat} {data : Option (BitVec 1024)} {x : L2Copy}
    (h : (takenBack s kind a line data x).1 = true) :
    mayWriteBack s a line x = true ∧ writeback s kind a line data = (takenBack s kind a line data x).2 := by
  simp only [takenBack, Bool.and_eq_true, Bool.not_eq_true'] at h
  obtain ⟨⟨⟨⟨⟨hw, hb⟩, hl⟩, hf⟩, ho⟩, hi⟩ := h
  refine ⟨by simp only [mayWriteBack, hw, hb, hl, Bool.not_false, Bool.and_self], ?_⟩
  cases data <;> simp only [writeback, takenBack, hf, ho, hi, Bool.not_false, Bool.and_self, Bool.false_eq_true, if_false, if_true]

theorem dropShared_eq (s : State) (a line : Nat) :
    dropShared s a line = if (l2Copy s a line).any (fun y => y.st == .s) then dropL2 s a line else s := by
  unfold dropShared
  cases l2Copy s a line <;> simp

section
variable {s u : State} {p : Bool}

/-! ### Transfers -/

theorem next_piece {t k : Nat} (h : memoryStep s (.piece t k) = some (p, u)) (hp : p = true) : exec (.piece t k) s = .next u := by
  simp only [memoryStep] at h
  split at h
  · rename_i x hx
    split at h
    · rename_i q hq
      cases h
      simp only [Bool.and_eq_true, Option.isNone_iff_eq_none] at hp
      obtain ⟨⟨hh, hr⟩, hf⟩ := hp
      simp only [exec, execPiece, hx, hq, hh, hr, hf, Bool.not_true, Bool.or_self, Bool.false_eq_true, if_false]
    · cases h
  · cases h

theorem next_count {t : Nat} (h : memoryStep s (.count t) = some (p, u)) (hp : p = true) : exec (.count t) s = .next u := by
  simp only [memoryStep] at h
  split at h
  · rename_i x hx
    cases hk : x.kind with
    | load | hmget _ | store | graphCopy _ _ =>
      rw [hk] at h
      cases h
      simp only [exec, execCount, hx, hk, hp, Bool.not_true, Bool.false_eq_true, if_false]
    | append hdr rows =>
      rw [hk] at h
      cases h
      simp only [Bool.and_eq_true, Option.isNone_iff_eq_none] at hp
      simp only [exec, execCount, hx, hk, hp.1, hp.2, Bool.not_true, Bool.false_eq_true, if_false]
    | hmcopy root group =>
      rw [hk] at h
      dsimp only at h
      split at h
      · rename_i c hc
        cases h
        simp only [Bool.and_eq_true, Option.isNone_iff_eq_none] at hp
        obtain ⟨⟨⟨⟨he, hf⟩, hn⟩, hd⟩, hz⟩ := hp
        simp only [exec, execCount, hx, hk, he, dropRoot, hf, hn, hd, hz, hc, Bool.not_true, Bool.or_self, Bool.false_eq_true, if_false]
      · cases h
    | _ =>
      rw [hk] at h
      cases h
  · cases h

theorem transformWith_of_readable {x : Transfer} {f : State → State} (h : readable s (linesUnder x.toRead) = true) :
    transformWith s x f = finishTransfer (f ((linesUnder x.toRead).foldl findErrors s)) x := by
  rw [readable, Option.isNone_iff_eq_none] at h
  simp only [transformWith, h]

theorem next_transformComplete {t : Nat} (h : memoryStep s (.transformComplete t) = some (p, u)) (hp : p = true) :
    exec (.transformComplete t) s = .next u := by
  simp only [memoryStep] at h
  split at h
  · rename_i x hx
    cases hk : x.kind with
    | transform | convert dst src rounding =>
      rw [hk] at h
      cases h
      simp only [Bool.and_eq_true] at hp
      simp only [exec, execTransformComplete, hx, hk, hp.1, transformWith_of_readable hp.2, Bool.not_true, Bool.false_eq_true, if_false]
    | _ =>
      rw [hk] at h
      cases h
  · cases h

theorem next_channelSlotWrite {src : SlotSource} (h : memoryStep s (.channelSlotWrite src) = some (p, u)) (hp : p = true) :
    exec (.channelSlotWrite src) s = .next u := by
  cases src with
  | peer agent j ch k n data =>
    cases h
    simp only [Bool.and_eq_true, Bool.not_eq_true'] at hp
    simp only [exec, execChannelSlotWrite, hp, Bool.or_self, Bool.false_eq_true, if_false]
  | transfer t deliv =>
    simp only [memoryStep] at h
    split at h
    · rename_i x hx
      split at h
      · rename_i j ch agent core k n depth data hk
        cases h
        by_cases ha : agent / 4 = s.pos
        · rw [if_pos ha, Bool.not_eq_true'] at hp
          simp only [exec, execChannelSlotWrite, hx, hk, if_pos ha, hp, Bool.false_eq_true, if_false]
        · rw [if_neg ha, Bool.not_eq_true'] at hp
          simp only [exec, execChannelSlotWrite, hx, hk, if_neg ha, hp, Bool.false_eq_true, if_false]
      · cases h
    · cases h

theorem next_channelFlush {job ch : Nat} (h : memoryStep s (.channelFlush job ch) = some (p, u)) (hp : p = true) :
    exec (.channelFlush job ch) s = .next u := by
  simp only [memoryStep] at h
  split at h
  · rename_i v issued l hl
    split at h
    · rename_i t ht
      split at h
      · rename_i tile hk
        cases h
        simp only [exec, execChannelFlush, flushWhen, hl, ht, hk, hp, if_true]
      · cases h
    · cases h
  · cases h

/-! ### The L1, the L2 and the homes -/

theorem next_l1Push {k : Nat} {l : FoundLine} (h : memoryStep s (.l1Push k l) = some (p, u)) (hp : p = true) :
    exec (.l1Push k l) s = .next u := by
  obtain ⟨line, err⟩ := l
  simp only [memoryStep] at h
  split at h
  · rename_i x hx
    cases h
    have hd : ¬x.dirty = 0 := by simpa using hp
    simp only [exec, execL1Push, hx, if_neg hd]
    split <;> rfl
  · cases h

theorem next_l1Drop {k line : Nat} (h : memoryStep s (.l1Drop k line) = some (p, u)) (hp : p = true) : exec (.l1Drop k line) s = .next u := by
  simp only [memoryStep] at h
  split at h
  · rename_i x hx
    cases h
    rw [Bool.not_eq_true'] at hp
    simp only [exec, execL1Drop, hx, hp, Bool.false_eq_true, if_false]
  · cases h

theorem next_rds {q line : Nat} (h : memoryStep s (.rds q line) = some (p, u)) (hp : p = true) : exec (.rds q line) s = .next u := by
  cases h
  exact congrArg Host.Outcome.next (request_of_oneAccess (serve := serveRdS) (fun _ => (if_pos rfl).symm) hp)

theorem next_rdx {q line : Nat} (h : memoryStep s (.rdx q line) = some (p, u)) (hp : p = true) : exec (.rdx q line) s = .next u := by
  cases h
  exact congrArg Host.Outcome.next (request_of_oneAccess (serve := serveRdX) (fun _ => (if_neg (by decide)).symm) hp)

theorem next_upg {q line : Nat} (h : memoryStep s (.upg q line) = some (p, u)) (hp : p = true) : exec (.upg q line) s = .next u := by
  cases h
  exact congrArg Host.Outcome.next (request_of_oneAccess (serve := serveRdX) (fun _ => (if_neg (by decide)).symm) hp)

theorem next_fwds {m : OwnerAnswer} (h : memoryStep s (.fwds m) = some (p, u)) (hp : p = true) : exec (.fwds m) s = .next u := by
  obtain ⟨line, dirty, data⟩ := m
  simp only [memoryStep] at h
  split at h
  · rename_i x hx
    split at h
    · rename_i o hr ho
      cases h
      rw [Bool.not_eq_true'] at hp
      simp only [exec, execFwds, hx, hr, ho, hp]
    · cases h
  · cases h

theorem next_fwdx {m : OwnerAnswer} (h : memoryStep s (.fwdx m) = some (p, u)) (hp : p = true) : exec (.fwdx m) s = .next u := by
  obtain ⟨line, dirty, data⟩ := m
  simp only [memoryStep] at h
  split at h
  · rename_i x hx
    split at h
    · cases h
    · rename_i o ho hn
      cases h
      rw [Bool.not_eq_true'] at hp
      simp only [exec, execFwdx, hx, ho, hp]
    · cases h
  · cases h

theorem next_inv {a line : Nat} (h : memoryStep s (.inv a line) = some (p, u)) (hp : p = true) : exec (.inv a line) s = .next u := by
  simp only [memoryStep] at h
  split at h
  · rename_i x hx
    cases h
    simp only [exec, execInv, hx, hp, if_true, dropShared_eq]
  · rename_i hx
    cases h
    simp only [exec, execInv, hx, hp, if_true]

theorem next_transactionComplete {line : Nat} (h : memoryStep s (.transactionComplete line) = some (p, u)) (hp : p = true) :
    exec (.transactionComplete line) s = .next u := by
  simp only [memoryStep] at h
  split at h
  · rename_i x hx
    cases h
    have ho : x.over = true := hp
    simp only [exec, execTransactionComplete, hx, ho, if_true]
  · cases h

theorem next_wb {a : Nat} {l : LineData} (h : memoryStep s (.wb a l) = some (p, u)) (hp : p = true) : exec (.wb a l) s = .next u := by
  obtain ⟨line, data⟩ := l
  simp only [memoryStep] at h
  split at h
  · rename_i x hx
    cases h
    rw [Bool.and_eq_true] at hp
    obtain ⟨hm, hw⟩ := writeback_of_takenBack hp.2
    simp only [exec, execWb, hx, hm, hp.1, hw, Bool.and_self, if_true]
  · cases h

theorem next_ce {a line : Nat} (h : memoryStep s (.ce a line) = some (p, u)) (hp : p = true) : exec (.ce a line) s = .next u := by
  simp only [memoryStep] at h
  split at h
  · rename_i x hx
    cases h
    rw [Bool.and_eq_true] at hp
    obtain ⟨hm, hw⟩ := writeback_of_takenBack hp.2
    simp only [exec, execCe, hx, hm, hp.1, hw, Bool.and_self, if_true]
  · cases h

theorem next_l2Eviction {a line : Nat} {err : MemErr} (h : memoryStep s (.l2Eviction a line err) = some (p, u)) (hp : p = true) :
    exec (.l2Eviction a line err) s = .next u := by
  simp only [memoryStep] at h
  split at h
  · rename_i x hx
    cases h
    simp only [Bool.and_eq_true, Bool.not_eq_true'] at hp
    simp only [exec, execL2Eviction, hx, hp, Bool.or_self, Bool.false_eq_true, if_false]
  · cases h

theorem next_agentLost {a : Nat} (h : memoryStep s (.agentLost a) = some (p, u)) (hp : p = true) : exec (.agentLost a) s = .next u := by
  cases h
  simp only [Bool.and_eq_true, Bool.not_eq_true', bne_iff_ne, ne_eq] at hp
  obtain ⟨⟨hq, hl⟩, ha⟩ := hp
  have hb : (a / 4 == s.pos) = false := by simpa using ha
  simp only [exec, execAgentLost, hq, hl, hb, Bool.not_true, Bool.or_self, Bool.false_eq_true, if_false]
  rfl

theorem next_flitResend {port : Nat} (h : memoryStep s (.flitResend port) = some (p, u)) (hp : p = true) :
    exec (.flitResend port) s = .next u := by
  cases h
  exact congrArg Host.Outcome.next (if_pos (of_decide_eq_true hp))

theorem next_scrub {line : Nat} {err : MemErr} (h : memoryStep s (.scrub line err) = some (p, u)) (hp : p = true) :
    exec (.scrub line err) s = .next u := by
  cases h
  exact congrArg Host.Outcome.next (if_pos hp)

/-! ### The hallmark walker -/

theorem next_heapLineFree (h : memoryStep s .heapLineFree = some (p, u)) : exec .heapLineFree s = .next u := by
  simp only [memoryStep] at h
  split at h
  · rename_i x group j r hl
    split at h
    · rename_i f hf
      cases h
      simp only [exec, execHeapLineFree, hl, hf]
      cases hr : r.isEmpty with
      | false => rfl
      | true =>
        simp only [Bool.not_true, Bool.false_eq_true, if_false, if_true, afterAcks]
        cases waitingDrop s group with
        | some d => rfl
        | none => cases waitingCopy s group <;> rfl
    · cases h
  · cases h

theorem next_releaseWalkerDrop {job : Nat} (h : memoryStep s (.releaseWalkerDrop job) = some (p, u)) (hp : p = true) :
    exec (.releaseWalkerDrop job) s = .next u := by
  simp only [memoryStep] at h
  split at h
  · rename_i g x rest hx
    cases h
    simp only [Bool.and_eq_true, Option.isNone_iff_eq_none] at hp
    obtain ⟨⟨hf, hn⟩, hd⟩ := hp
    simp only [exec, execReleaseWalkerDrop, hx, hf, hn, hd, Bool.not_true, Bool.or_self, Bool.false_eq_true, if_false]
  · cases h

theorem next_walkerCounterAdd {job : Nat} (h : memoryStep s (.walkerCounterAdd job) = some (p, u)) (hp : p = true) :
    exec (.walkerCounterAdd job) s = .next u := by
  simp only [memoryStep] at h
  split at h
  · rename_i g hg
    split at h
    · rename_i pa e ht
      cases h
      simp only [Bool.and_eq_true, bne_iff_ne, ne_eq] at hp
      simp only [exec, execWalkerCounterAdd, hg, if_neg hp.1, hp.2, vAtomStep, ht, if_true]
    · cases h
  · cases h

end

/-- Settles O45. -/
theorem memorySteps : Obligations.MemorySteps := by
  intro i p u s h hp
  cases i with
  | piece t k => exact next_piece h hp
  | count t => exact next_count h hp
  | transformComplete t => exact next_transformComplete h hp
  | channelSlotWrite src => exact next_channelSlotWrite h hp
  | channelFlush job ch => exact next_channelFlush h hp
  | recordCacheEviction die line => cases h; rfl
  | l1Push k l => exact next_l1Push h hp
  | l1Drop k line => exact next_l1Drop h hp
  | rds q line => exact next_rds h hp
  | rdx q line => exact next_rdx h hp
  | upg q line => exact next_upg h hp
  | fwds m => exact next_fwds h hp
  | fwdx m => exact next_fwdx h hp
  | inv a line => exact next_inv h hp
  | transactionComplete line => exact next_transactionComplete h hp
  | wb a l => exact next_wb h hp
  | ce a line => exact next_ce h hp
  | l2Eviction a line err => exact next_l2Eviction h hp
  | agentLost a => exact next_agentLost h hp
  | flitResend port => exact next_flitResend h hp
  | scrub line err => exact next_scrub h hp
  | heapLineFree => exact next_heapLineFree h
  | releaseWalkerDrop job => exact next_releaseWalkerDrop h hp
  | walkerCounterAdd job => exact next_walkerCounterAdd h hp
  | _ => cases h

end Sys2Proof.MemoryStep
end

section
/-! SUPPORT. When an arbiter, the hub, a walker or a communication processor takes a step, and what it leaves (R316, R317, R319 to R329,
R343, R348, R354, R372, R387, R388, R391, R402). -/
namespace Sys2Proof.HubStep
open Sys2Proof Sys2Proof.Machine Sys2Proof.Claims Sys2Proof.Serving Sys2Proof.Reading

-- Many of this section's proofs are replayed at once otherwise, each on a stack of its own.
set_option Elab.async false

theorem startRound_of_due {s : State} (h : s.hub.roundAt ≤ s.hub.timebase.toNat) : startRound s = s.modHub fun h => { h with
    roundAt := (h.timebase.toNat / 100000 + 1) * 100000
    queues := List.map (fun (p : Nat × Queue) => (p.1, { p.2 with left := p.2.allot })) h.queues } :=
  if_neg (Nat.not_lt.mpr h)

theorem served_seeInstances {w : Bool} {s t : State} (h : Served w s t) (j va : Nat) : Served w s (seeInstances t j va) :=
  Served.foldl (fun _ _ hx => served_vSee hx _ _ _) _ (served_vSee h _ _ _)

theorem served_seeHandlers {w : Bool} {s : State} : Served w s (seeHandlers s) := by
  refine Served.foldl (fun t x hx => ?_) _ (Served.refl w s)
  cases x with
  | handler j t k i sup lid => exact served_seeInstances hx _ _
  | launch j desc k => exact hx

theorem handlerWait_seeHandlers (s : State) : (seeHandlers s).hub.handlerWait = s.hub.handlerWait := by
  obtain ⟨_, _, hh⟩ := (served_seeHandlers (w := false) (s := s)).hub
  rw [hh]

theorem hasQueued_eq_false {s : State} {life : Nat} (h : (s.ctxs.all fun (_, y) => y.storeQ.all fun e => e.life != life) = true) :
    hasQueued s life = false := by
  simpa [hasQueued, List.all_eq_true] using h

section
variable {s u : State} {p : Bool}

/-! ### Arbiters and dispatch -/

theorem next_arbiterChoice {c : Nat} (h : hubStep s (.arbiterChoice c) = some (p, u)) (hp : p = true) :
    exec (.arbiterChoice c) s = .next u := by
  simp only [hubStep] at h
  split at h
  · rename_i q hq
    cases h
    simp only [Bool.and_eq_true, Bool.not_eq_true'] at hp
    obtain ⟨⟨⟨⟨⟨hr, hh⟩, hc⟩, hi⟩, he⟩, hn⟩ := hp
    have ha : arbitersOn s = true := by simp only [arbitersOn, hr, hh, Bool.not_false, Bool.and_self]
    simp only [exec, execArbiterChoice, ha, hc, hi, he, Bool.not_true, Bool.or_self, Bool.false_eq_true, if_false]
    rw [if_neg, hq]
    rintro ⟨h1, h2, h3⟩
    simp only [h1, h2, h3, beq_self_eq_true, Bool.and_self] at hn
    cases hn
  · cases h

theorem next_beadDispatch {c : Nat} (h : hubStep s (.beadDispatch c) = some (p, u)) (hp : p = true) :
    exec (.beadDispatch c) s = .next u := by
  simp only [hubStep] at h
  split at h
  · rename_i q hq
    cases h
    simp only [Bool.and_eq_true, Bool.not_eq_true', bne_iff_ne, ne_eq, Option.isNone_iff_eq_none] at hp
    obtain ⟨⟨⟨⟨⟨hr, hh⟩, hn⟩, hq0⟩, hk⟩, hf⟩ := hp
    have ha : arbitersOn s = true := by simp only [arbitersOn, hr, hh, Bool.not_false, Bool.and_self]
    have hz : ((queue (s.modHub fun h => { h with chosen := h.chosen.erase c }) q).head == 0) = false := beq_eq_false_iff_ne.mpr hq0
    have hrun : ((s.modHub fun h => { h with chosen := h.chosen.erase c }).ctx c).run.isSome = false := by
      rw [State.modHub_ctx, hn]
      rfl
    simp only [exec, execBeadDispatch, hq, ha, hz, hrun, hk, hf, Bool.not_true, Bool.or_self, Bool.false_eq_true, if_false]
  · cases h

theorem next_roundStart (h : hubStep s .roundStart = some (p, u)) (hp : p = true) : exec .roundStart s = .next u := by
  cases h
  exact congrArg Host.Outcome.next (startRound_of_due (of_decide_eq_true hp))

/-! ### Launches and completion -/

theorem next_launchStart (h : hubStep s .launchStart = some (p, u)) : exec .launchStart s = .next u := by
  simp only [hubStep] at h
  split at h
  · rename_i j desc kind r hl
    cases h
    simp only [exec, execLaunchStart, hl]
  · rename_i j t kind k sup lid r hl
    cases h
    simp only [exec, execLaunchStart, hl]
  · rename_i j t kind sup lid r hl
    cases h
    simp only [exec, execLaunchStart, hl]
    rfl
  · cases h

theorem next_handlerInstanceStart (h : hubStep s .handlerInstanceStart = some (p, u)) : exec .handlerInstanceStart s = .next u := by
  simp only [hubStep] at h
  split at h
  · rename_i j t kind i sup lid k r hl
    cases h
    simp only [exec, execHandlerInstanceStart, handlerWait_seeHandlers, hl]
  · cases h

theorem next_beadComplete {k : Nat} (h : hubStep s (.beadComplete k) = some (p, u)) (hp : p = true) :
    exec (.beadComplete k) s = .next u := by
  simp only [hubStep] at h
  split at h
  · rename_i x hx
    cases h
    simp only [exec, execBeadComplete, hx, hasQueued_eq_false hp, Bool.false_eq_true, if_false]
  · cases h

theorem next_locketHandlerComplete {k : Nat} (h : hubStep s (.locketHandlerComplete k) = some (p, u)) :
    exec (.locketHandlerComplete k) s = .next u := by
  simp only [hubStep] at h
  split at h
  · rename_i n d hx
    cases h
    simp only [exec, execLocketHandlerComplete, hx]
  · cases h

theorem next_waitWake {k : Nat} (h : hubStep s (.waitWake k) = some (p, u)) (hp : p = true) : exec (.waitWake k) s = .next u := by
  simp only [hubStep] at h
  split at h
  · rename_i j va held hx
    cases h
    subst hp
    simp only [exec, execWaitWake, hx]
  · cases h

/-! ### Graphs -/

theorem next_graphStart {die job desc : Nat} (h : hubStep s (.graphStart die job desc) = some (p, u)) (hp : p = true) :
    exec (.graphStart die job desc) s = .next u := by
  cases h
  exact congrArg Host.Outcome.next (if_neg (Nat.not_le.mpr (of_decide_eq_true hp)))

theorem next_graphNodeComplete {g j : Nat} (h : hubStep s (.graphNodeComplete g j) = some (p, u)) :
    exec (.graphNodeComplete g j) s = .next u := by
  simp only [hubStep] at h
  split at h
  · rename_i x hx
    split at h
    · rename_i canc rest hr
      cases h
      simp only [exec, execGraphNodeComplete, hx, hr]
    · cases h
  · cases h

/-! ### Messages, cancels and debug -/

theorem mailTo_eq (s : State) (n : Nat) (msg : BitVec 256) (src : MailSource) : mailTo s n msg src =
    if n ≠ 0xFFFF then arrive s n msg src
    else if src = .physicalFunction then s.modHub fun h => { h with resync := h.resync ++ [msg] }
    else logFault s { kind := 0x09, first := 32 * n, detail := n } := by
  unfold mailTo
  by_cases hn : n = 0xFFFF
  · rw [if_pos hn, if_neg (by simp [hn])]
    cases src <;> simp
  · rw [if_neg hn, if_pos hn]

theorem next_locketMessage {n : Nat} {msg : BitVec 256} {src : MailSource} (h : hubStep s (.locketMessage n msg src) = some (p, u))
    (hp : p = true) : exec (.locketMessage n msg src) s = .next u := by
  cases src with
  | host k =>
    cases h
    have hn : ¬65536 ≤ n := Nat.not_le.mpr (of_decide_eq_true hp)
    simp only [exec, execLocketMessage, if_neg hn, mailTo_eq]
  | physicalFunction =>
    cases h
    have hn : ¬65536 ≤ n := Nat.not_le.mpr (of_decide_eq_true hp)
    simp only [exec, execLocketMessage, if_neg hn, mailTo_eq]
  | peer k =>
    cases h
    have hn : ¬65536 ≤ n := Nat.not_le.mpr (of_decide_eq_true hp)
    simp only [exec, execLocketMessage, if_neg hn, mailTo_eq]
  | bead k | unit k =>
    simp only [hubStep] at h
    split at h
    · rename_i m r hm
      cases h
      simp only [Bool.and_eq_true, decide_eq_true_eq, beq_iff_eq] at hp
      obtain ⟨⟨hn, hg⟩, hs⟩ := hp
      simp only [exec, execLocketMessage, if_neg (Nat.not_le.mpr hn), hm, if_pos (And.intro hg hs), mailTo_eq]
    · cases h

theorem next_cancel (h : hubStep s .cancel = some (p, u)) : exec .cancel s = .next u := by
  simp only [hubStep] at h
  split at h
  · rename_i t r hl
    cases h
    simp only [exec, execCancel, hl]
  · cases h

theorem next_dbgresWrite {addr : Nat} (h : hubStep s (.dbgresWrite addr) = some (p, u)) : exec (.dbgresWrite addr) s = .next u := by
  simp only [hubStep] at h
  split at h
  · rename_i j hj
    cases h
    simp only [exec, execDbgresWrite, resumeStopped, hj]
  · cases h

/-! ### Communication processors -/

theorem next_workEntryRun {port k : Nat} (h : hubStep s (.workEntryRun port k) = some (p, u)) (hp : p = true) :
    exec (.workEntryRun port k) s = .next u := by
  cases h
  simp only [Bool.and_eq_true, decide_eq_true_eq, beq_iff_eq] at hp
  obtain ⟨⟨⟨h1, h2⟩, h3⟩, h4⟩ := hp
  refine congrArg Host.Outcome.next (if_neg ?_)
  rintro (h | h | h | h)
  · omega
  · omega
  · exact h h3
  · simp [h4] at h

theorem next_workRunComplete {port k : Nat} (h : hubStep s (.workRunComplete port k) = some (p, u)) (hp : p = true) :
    exec (.workRunComplete port k) s = .next u := by
  cases h
  simp only [Bool.and_eq_true, decide_eq_true_eq, beq_iff_eq] at hp
  obtain ⟨⟨h1, h2⟩, h3⟩ := hp
  refine congrArg Host.Outcome.next (if_neg ?_)
  rintro (h | h | h)
  · omega
  · omega
  · exact h h3

theorem next_collectiveAbort {job : Nat} (h : hubStep s (.collectiveAbort job) = some (p, u)) (hp : p = true) :
    exec (.collectiveAbort job) s = .next u := by
  cases h
  refine congrArg Host.Outcome.next (if_neg ?_)
  rw [hp]
  exact Bool.false_ne_true

theorem next_abortMessage {job agent : Nat} (h : hubStep s (.abortMessage job agent) = some (p, u)) (hp : p = true) :
    exec (.abortMessage job agent) s = .next u := by
  cases h
  rw [Bool.not_eq_true'] at hp
  refine congrArg Host.Outcome.next (if_neg ?_)
  rw [hp]
  exact Bool.false_ne_true

end

/-- Settles O46. -/
theorem hubSteps : Obligations.HubSteps := by
  intro i p u s h hp
  cases i with
  | arbiterChoice c => exact next_arbiterChoice h hp
  | beadDispatch c => exact next_beadDispatch h hp
  | roundStart => exact next_roundStart h hp
  | launchStart => exact next_launchStart h
  | handlerInstanceStart => exact next_handlerInstanceStart h
  | beadComplete k => exact next_beadComplete h hp
  | locketHandlerComplete k => exact next_locketHandlerComplete h
  | waitWake k => exact next_waitWake h hp
  | graphStart die job desc => exact next_graphStart h hp
  | graphNodeComplete g j => exact next_graphNodeComplete h
  | locketMessage n msg src => exact next_locketMessage h hp
  | cancel => exact next_cancel h
  | dbgresWrite addr => exact next_dbgresWrite h
  | functionLevelReset vf => cases h; rfl
  | workEntryRun port k => exact next_workEntryRun h hp
  | workRunComplete port k => exact next_workRunComplete h hp
  | collectiveAbort job => exact next_collectiveAbort h hp
  | abortMessage job agent => exact next_abortMessage h hp
  | _ => cases h

end Sys2Proof.HubStep
end

section
/-! SUPPORT. When a base die, reset, bring-up, management or power takes a step, and what it leaves (R259, R260, R262, R263, R271, R272,
R287, R392, R394 to R401). -/
namespace Sys2Proof.DeviceStep
open Sys2Proof Sys2Proof.Machine Sys2Proof.Claims Sys2Proof.Effects

theorem dcctl_setDcctl (s : State) (k : Nat) (d : Dcctl) : dcctl (setDcctl s k d) k = d := by
  simp [dcctl, setDcctl]

theorem setDcctl_setDcctl (s : State) (k : Nat) (d e : Dcctl) : setDcctl (setDcctl s k d) k e = setDcctl s k e := by
  simp [setDcctl, State.modTiers, Table.set_set]

section
variable {s u : State} {p : Bool}

/-! ### Base dies -/

theorem next_migratorEpoch {a : Nat} (h : deviceStep s (.migratorEpoch a) = some (p, u)) (hp : p = true) :
    exec (.migratorEpoch a) s = .next u := by
  cases h
  simp only [Bool.and_eq_true, bne_iff_ne, ne_eq] at hp
  refine congrArg Host.Outcome.next (if_neg ?_)
  simp [hp]

theorem next_pageMigrate {a : Nat} {err : MemErr} (h : deviceStep s (.pageMigrate a err) = some (p, u)) (hp : p = true) :
    exec (.pageMigrate a err) s = .next u := by
  simp only [deviceStep] at h
  split at h
  · rename_i m hm
    cases hb : m.busy with
    | true =>
      rw [hb, if_pos rfl] at h
      cases h
      simp only [exec, execPageMigrate, hm, hb, if_true]
      rfl
    | false =>
      rw [hb, if_neg Bool.false_ne_true] at h
      cases h
      simp only [Bool.and_eq_true, Option.isNone_iff_eq_none] at hp
      simp only [exec, execPageMigrate, hm, hb, startLine, hp.1, hp.2, Option.isSome_none, Bool.or_self, Bool.false_eq_true, if_false]
      rfl
  · rename_i x y hm hx hy
    cases h
    simp only [Bool.and_eq_true, decide_eq_true_eq] at hp
    obtain ⟨⟨hg, hn⟩, hl⟩ := hp
    have hq : (!s.mgmt.migen || decide (2048 < s.tiers.moves.get a 0 + 2) || (localDie s a).isNone) = false := by
      have : ¬2048 < s.tiers.moves.get a 0 + 2 := Nat.not_lt.mpr hn
      have hl' : (localDie s a).isNone = false := by simpa [Option.isSome_iff_ne_none] using hl
      simp [hg, this, hl']
    simp only [exec, execPageMigrate, hm, nextExchange, hq, hx, hy, Bool.false_eq_true, if_false]
    rfl
  · cases h

theorem next_dcctlWrite {stack : Nat} {val : BitVec 64} (h : deviceStep s (.dcctlWrite stack val) = some (p, u)) (hp : p = true) :
    exec (.dcctlWrite stack val) s = .next u := by
  cases h
  simp only [Bool.and_eq_true, Bool.not_eq_true', decide_eq_true_eq] at hp
  obtain ⟨⟨hs, hb⟩, hw⟩ := hp
  have hw' : decide (12 < (val.extractLsb' 0 4).toNat) = false := decide_eq_false (Nat.not_lt.mpr hw)
  simp only [exec, execDcctlWrite, if_neg (Nat.not_le.mpr hs), writeNearWays, hw', Bool.or_false]
  cases hv : val.getLsbD 30 with
  | true =>
    simp only [hv, if_true] at hb
    simp only [if_true, clearDcctlErr, dcctl_setDcctl, setDcctl_setDcctl, hb, Bool.false_eq_true, if_false]
  | false =>
    simp only [hv, Bool.false_eq_true, if_false] at hb
    simp only [hb, Bool.false_eq_true, if_false]

theorem next_nearConversionDone {stack : Nat} (h : deviceStep s (.nearConversionDone stack) = some (p, u)) (hp : p = true) :
    exec (.nearConversionDone stack) s = .next u := by
  cases h
  simp only [Bool.and_eq_true, Bool.not_eq_true'] at hp
  simp only [exec, execNearConversionDone, hp.1, hp.2, Bool.not_true, Bool.or_self, Bool.false_eq_true, if_false]

theorem next_refresh {stack bank : Nat} (h : deviceStep s (.refresh stack bank) = some (p, u)) (hp : p = true) :
    exec (.refresh stack bank) s = .next u := by
  cases h
  exact congrArg Host.Outcome.next (if_neg (Nat.not_le.mpr (of_decide_eq_true hp)))

theorem next_hotRowCapture {stack row : Nat} (h : deviceStep s (.hotRowCapture stack row) = some (p, u)) (hp : p = true) :
    exec (.hotRowCapture stack row) s = .next u := by
  cases h
  simp only [exec, execHotRowCapture, hp, if_true, captureRow]
  by_cases hn : (s.tiers.hotRows.filter (·.1 == stack)).length < 4096
  · rw [if_neg (Nat.not_le.mpr hn), if_pos hn]
  · rw [if_pos (Nat.not_lt.mp hn), if_neg hn]

theorem next_refreshWindowEnd {stack : Nat} (h : deviceStep s (.refreshWindowEnd stack) = some (p, u)) (hp : p = true) :
    exec (.refreshWindowEnd stack) s = .next u := by
  cases h
  exact congrArg Host.Outcome.next (if_neg (Nat.not_lt.mpr (of_decide_eq_true hp)))

theorem next_heapInit {a : Nat} (h : deviceStep s (.heapInit a) = some (p, u)) (hp : p = true) : exec (.heapInit a) s = .next u := by
  cases h
  exact congrArg Host.Outcome.next (if_pos hp)

/-! ### Power, reset and bring-up -/

theorem next_powerGrantSend {port watts : Nat} (h : deviceStep s (.powerGrantSend port watts) = some (p, u)) (hp : p = true) :
    exec (.powerGrantSend port watts) s = .next u := by
  cases h
  simp only [Bool.and_eq_true, decide_eq_true_eq] at hp
  exact congrArg Host.Outcome.next (if_neg (by omega))

theorem next_powerGrantReceive {port watts : Nat} (h : deviceStep s (.powerGrantReceive port watts) = some (p, u)) (hp : p = true) :
    exec (.powerGrantReceive port watts) s = .next u := by
  cases h
  exact congrArg Host.Outcome.next (if_neg (Nat.not_le.mpr (of_decide_eq_true hp)))

theorem next_operatingPointChange {need : Nat} (h : deviceStep s (.operatingPointChange need) = some (p, u)) (hp : p = true) :
    exec (.operatingPointChange need) s = .next u := by
  cases h
  rw [Bool.not_eq_true'] at hp
  simp only [exec, execOperatingPointChange, hp, Bool.false_eq_true, if_false]
  rfl

theorem next_bringUpStep {f : BootImages} {m : Domain} (h : deviceStep s (.bringUpStep f m) = some (p, u)) (hp : p = true) :
    exec (.bringUpStep f m) s = .next u := by
  obtain ⟨pos, answer⟩ := m
  cases h
  simp only [Bool.and_eq_true, Bool.not_eq_true'] at hp
  simp only [exec, execBringUpStep, hp.1, hp.2, Bool.or_self, Bool.false_eq_true, if_false]
  rcases bringUp s f pos answer (s.mgmt.step + 1) with ⟨t, b⟩
  cases b <;> rfl

/-! ### Resynchronisation and attestation -/

theorem next_resync (h : deviceStep s .resync = some (p, u)) : exec .resync s = .next u := by
  simp only [deviceStep] at h
  split at h
  · rename_i x rest hx
    cases h
    simp only [exec, execResync, hx]
  · cases h

theorem next_attestation (h : deviceStep s .attestation = some (p, u)) : exec .attestation s = .next u := by
  simp only [deviceStep] at h
  split at h
  · rename_i x rest hx
    cases h
    simp only [exec, execAttestation, hx]
  · cases h

end

/-- Settles O47. -/
theorem deviceSteps : Obligations.DeviceSteps := by
  intro i p u s h hp
  cases i with
  | migratorEpoch a => exact next_migratorEpoch h hp
  | pageMigrate a err => exact next_pageMigrate h hp
  | dcctlWrite stack val => exact next_dcctlWrite h hp
  | nearConversionDone stack => exact next_nearConversionDone h hp
  | refresh stack bank => exact next_refresh h hp
  | hotRowCapture stack row => exact next_hotRowCapture h hp
  | refreshWindowEnd stack => exact next_refreshWindowEnd h hp
  | heapInit a => exact next_heapInit h hp
  | powerGrantSend port watts => exact next_powerGrantSend h hp
  | powerGrantReceive port watts => exact next_powerGrantReceive h hp
  | operatingPointChange need => exact next_operatingPointChange h hp
  | bringUpStep f m => exact next_bringUpStep h hp
  | resync => exact next_resync h
  | attestation => exact next_attestation h
  | mctlHalt _ | mctlMigen _ | pwrAllowWrite _ | thermalLimit _ | moduleReset =>
    cases h
    rfl
  | _ => cases h

end Sys2Proof.DeviceStep
end

section
/-! SUPPORT. A scheduled issue of a bundle of one operation is that operation (R20, R23, R51, R59, R384, R393). -/
namespace Sys2Proof.StepIssue
open Sys2Proof Sys2Proof.Machine Sys2Proof.Claims Sys2Proof.Serving Sys2Proof.Reading Sys2Proof.ContextStep Sys2Proof.Lone Sys2Proof.Progress

/-- A step whose script issues a bundle is that issue, by the bead of its context. -/
theorem moveNext_bundleIssue {s t : State} {c : Nat} {r : List Instr} (h : exec (.bundleIssue c) { s with script := r } = .next t) :
    moveNext s (.bundleIssue c :: r) = .next (credit { s with script := r } (ctxActor { s with script := r } c) t) :=
  take_of_next (e := ⟨actorOf s (.bundleIssue c), exec (.bundleIssue c)⟩) h

/-- The scheduled issue of a granted bundle that nothing holds back. -/
theorem exec_bundleIssue {s : State} {c pa : Nat} {e : W64} (hm : moves s c = true) (hd : debugStops s c = false) (hst : stallLeft s c = 0)
    (hz : freezeAt s c (opsAt s c) = none) (hg : (s.ctx c).granted = true) (hf : fetchPlace s c = .inr (pa, e)) :
    exec (.bundleIssue c) s = .next (issueDecoded { fetchLine s c with cur := c } c (decodeBundle (bundleBits s (coreOf c) pa))) := by
  show execBundleIssue c s = _
  simp [execBundleIssue, hm, hd, hst, hz, hg, hf]

/-- The operation that the slot of a bundle holds is the one that `exec` issues alone. -/
theorem issued_of_slotOp {i : Instr} {k : Slot} {f : OpFn} (hf : slotOp i = some f) (hk : slotOf i = some k) :
    issued i = if wellFormed i then f else illegalOp k := by
  have : slotOrS i = k := by rw [slotOrS, hk, Option.getD_some]
  rw [issued, hf, this]

/-- A decoded bundle of one operation, in the header that this operation needs, issues the operation. -/
theorem exec_of_decoded {s : State} {c : Nat} {d : Bundle} {i : Instr} {k : Slot} (hr : (s.ctx c).run.isSome = true) (hc : s.cur = c)
    (hb : breaksAt s c = false) (hd : d.reservedBits = false) (hs : d.slots = [(k, .op i)]) (hk : slotOf i = some k)
    (hh : Bundle.header d = loneHeader i) : exec i s = .next (issueDecoded s c d) := by
  obtain ⟨f, hf⟩ := exists_slotOp hk
  obtain ⟨b, hb'⟩ := Option.isSome_iff_exists.mp hr
  subst hc
  rw [exec_eq_issueAlone hf hk, issueAlone, hb', issueDecoded, hb, hd, hh, Bundle.fns, hs, ← issued_of_slotOp hf hk]
  rfl

theorem run_fetchLine (s : State) (c : Nat) : ((fetchLine s c).ctx c).run = (s.ctx c).run := by
  obtain ⟨_, _, hc⟩ := (served_fetchLine (w := false) (Served.refl false s) c).ctx c
  rw [hc]

theorem run_of_moves {s : State} {c : Nat} (h : moves s c = true) : (s.ctx c).run.isSome = true := by
  simp only [moves, Bool.and_eq_true] at h
  exact h.1.1.1.1

/-- Of a moving context's bundle with its line fetched, the one operation is what issues. -/
theorem exec_of_fetched {s : State} {c : Nat} {d : Bundle} {i : Instr} {k : Slot} (hm : moves s c = true) (hb : breaksAt s c = false)
    (hd : d.reservedBits = false) (hs : d.slots = [(k, .op i)]) (hk : slotOf i = some k) (hh : Bundle.header d = loneHeader i) :
    exec i { fetchLine s c with cur := c } = .next (issueDecoded { fetchLine s c with cur := c } c d) :=
  exec_of_decoded ((congrArg Option.isSome (run_fetchLine s c)).trans (run_of_moves hm)) rfl ((breaksAt_fetchLine s c c).trans hb) hd hs
    hk hh

/-- Settles O56: the scheduled issue fetches the line and issues the decoded bundle, which is the operation. -/
theorem stepRunsDecoded : Obligations.StepRunsDecoded := by
  unfold Obligations.StepRunsDecoded
  intro s c i k r pa e hs s0 d hm hd hst hz hg hf hb hres hslots hk hh
  refine ⟨_, exec_of_fetched hm hb hres hslots hk hh, ?_⟩
  rw [step, hs, moveNext_bundleIssue (exec_bundleIssue hm hd hst hz hg hf)]

end Sys2Proof.StepIssue
end

section
/-! SUPPORT. What a bead that leaves its context writes: its save area, its records and its drift (R310, R338, R342, R390). -/
namespace Sys2Proof.Leaving
open Sys2Proof Sys2Proof.Machine Sys2Proof.Serving Sys2Proof.Reading

/-! ### Writes of the save area -/

section
variable {s t : State} (h : Served true s t)
include h

theorem served_vPut (j va n x : Nat) : Served true s (vPut t j va n x) := by
  unfold vPut
  split
  · exact h
  · exact served_vWrite h _ _ _ _

theorem served_putFree (j va n : Nat) : Served true s (putFree t j va n) := served_vWrite (served_free h) _ _ _ _
theorem served_putFreeBlocks (j va n : Nat) : Served true s (putFreeBlocks t j va n) :=
  Served.foldl (fun _ _ hu => served_putFree hu _ _ _) _ h

theorem served_writeImage (j va : Nat) (pending : Nat → Bool) (a : Arch) : Served true s (writeImage t j va pending a) :=
  Served.foldl (fun _ _ hu => served_vPut hu _ _ _ _) _ (served_vClear h _ _ _)

theorem served_writeCounters (j va : Nat) (x : Ctx) : Served true s (writeCounters t j va x) :=
  Served.foldl (fun _ _ hu => served_vPut hu _ _ _ _) _ (served_vClear h _ _ _)

theorem served_writeWithheld (j va : Nat) (l : List Entry) : Served true s (writeWithheld t j va l) :=
  Served.foldl (fun _ _ hu => served_putFree hu _ _ _) _ (served_vClear h _ _ _)

theorem served_writeStaging (j va : Nat) (b : Bank) : Served true s (writeStaging t j va b) :=
  Served.foldl (fun _ _ hu => served_vPut (served_vPut hu _ _ _ _) _ _ _ _) _ (served_vClear h _ _ _)

theorem served_writeFormed (j va : Nat) (b : Bank) : Served true s (writeFormed t j va b) := by
  have hf := served_putFreeBlocks h j va 37888
  unfold writeFormed
  dsimp only
  split
  · exact hf
  · split
    · exact served_vWrite hf _ _ _ _
    · exact served_vWrite (served_vWrite hf _ _ _ _) _ _ _ _

theorem served_writeRows (j va n : Nat) (a : MxArray) (l : Table AccRow) : Served true s (writeRows t j va n a l) := by
  refine Served.foldl (fun u _ hu => ?_) _ h
  split
  · exact served_vWrite hu _ _ _ _
  · exact hu

theorem served_writeArray (j va n : Nat) (a : MxArray) : Served true s (writeArray t j va n a) := by
  refine served_putFreeBlocks (served_writeRows (served_writeRows (Served.foldl (fun u _ hu => ?_) _ (served_putFreeBlocks h _ _ _))
    _ _ _ _ _) _ _ _ _ _) _ _ _
  split
  · exact served_writeStaging (served_writeFormed hu _ _ _) _ _ _
  · exact hu

/-! ### Records -/

theorem served_setBeadWord (j va i x : Nat) : Served true s (setBeadWord t j va i x) := served_vWrite h _ _ _ _
theorem served_setBeadState (j va st : Nat) : Served true s (setBeadState t j va st) := served_setBeadWord h _ _ _ _
theorem served_setBeadWop (j va op : Nat) : Served true s (setBeadWop t j va op) := served_setBeadWord h _ _ _ _
theorem served_writeBack (b : Bead) (pc st : Nat) : Served true s (writeBack t b pc st) :=
  served_setBeadState (served_setBeadWord h _ _ _ _) _ _ _

theorem served_addEnergy (b : Bead) : Served true s (addEnergy t b) := by
  unfold addEnergy
  dsimp only
  split
  · exact served_free h
  · split
    · exact served_free h
    · exact served_vAtomStep (served_free h) _ _ _ _

theorem served_driftRecord (c : Nat) (b : Bead) (pc cc value kind cause : Nat) :
    Served true s (driftRecord t c b pc cc value kind cause) := by
  unfold driftRecord
  dsimp only
  split
  · exact h
  · split
    · exact served_logFault h _
    · split
      · exact served_logFault h _
      · exact served_cpAtom (served_cpAtom h _ _ _ _ _) _ _ _ _ _

end

/-! ### The context of the bead -/

/-- A change of the leaving bead's context, of the arrays of cores, of queues, saved states and the model's own counters. -/
structure Leaves (c : Nat) (s t : State) : Prop where
  ctx : ∀ d, d ≠ c → ∃ pmcnt pmctl, t.ctx d = { s.ctx d with pmcnt := pmcnt, pmctl := pmctl }
  starts : t.hub.starts = s.hub.starts
  cancels : t.hub.cancels = s.hub.cancels
  launches : t.hub.launches = s.hub.launches
  completing : t.hub.completing = s.hub.completing
  suph : t.mgmt.suph = s.mgmt.suph
  jobs : t.jobs = s.jobs

section
variable {c : Nat} {s t u : State}

theorem Leaves.trans (h : Leaves c s t) (g : Leaves c t u) : Leaves c s u := by
  refine ⟨fun d hd => ?_, g.starts.trans h.starts, g.cancels.trans h.cancels, g.launches.trans h.launches,
    g.completing.trans h.completing, g.suph.trans h.suph, g.jobs.trans h.jobs⟩
  obtain ⟨p, q, hp⟩ := h.ctx d hd
  obtain ⟨p', q', gp⟩ := g.ctx d hd
  exact ⟨p', q', by rw [gp, hp]⟩

theorem leaves_of_served {w : Bool} (h : Served w s t) : Leaves c s t := by
  obtain ⟨m, f, hh⟩ := h.hub
  obtain ⟨l, n, hm⟩ := h.mgmt
  exact ⟨fun d _ => h.ctx d, by rw [hh], by rw [hh], by rw [hh], by rw [hh], by rw [hm], h.jobs⟩

/-- A change outside the other contexts, the hub, the management window and the jobs. -/
theorem leaves_of_eq (hc : ∀ d, d ≠ c → t.ctx d = s.ctx d) (hh : t.hub = s.hub) (hm : t.mgmt = s.mgmt) (hj : t.jobs = s.jobs) :
    Leaves c s t :=
  ⟨fun d hd => ⟨_, _, hc d hd⟩, by rw [hh], by rw [hh], by rw [hh], by rw [hh], by rw [hm], hj⟩

theorem leaves_modCtx (s : State) (f : Ctx → Ctx) : Leaves c s (s.modCtx c f) :=
  leaves_of_eq (fun _ hd => State.modCtx_ctx_ne s f hd) rfl rfl rfl

theorem leaves_modArray (s : State) (d : Nat) (f : MxArray → MxArray) : Leaves c s (modArray s d f) :=
  leaves_of_eq (fun _ _ => rfl) rfl rfl rfl

theorem leaves_charge (s : State) (q n : Nat) : Leaves c s (charge s q n) := by
  unfold charge startRound
  split <;> exact ⟨fun _ _ => ⟨_, _, rfl⟩, rfl, rfl, rfl, rfl, rfl, rfl⟩

end

theorem ctx_charge (s : State) (q n d : Nat) : (charge s q n).ctx d = s.ctx d := by
  unfold charge startRound
  split <;> rfl

theorem saved_charge (s : State) (q n : Nat) : (charge s q n).hub.saved = s.hub.saved := by
  unfold charge startRound
  split <;> rfl

/-! ### The events of the cycle, and the end of a freeze -/

theorem served_countLanded {w : Bool} {s t : State} (h : Served w s t) (c : Nat) : Served w s (countLanded t c) := by
  unfold countLanded
  split
  · exact h
  · exact Served.foldl (fun _ _ hu => served_count hu _ _ _) _
      (h.trans ⟨fun _ => ⟨_, _, rfl⟩, ⟨_, _, rfl⟩, ⟨_, _, rfl⟩, memKept_refl w _, rfl⟩)

section
variable {s : State} {c : Nat}

/-- The end of a freeze counts its cycles and may record them. -/
theorem served_thaw {tally : State → Nat → Nat → State} (ht : ∀ u l n, Served true u (tally u l n)) (record : Bool) {b : Bead}
    (hb : (s.ctx c).run = some b) :
    thaw tally record s c = s ∧ (s.ctx c).freeze = none ∨
    Served true (s.modCtx c fun x => { x with freeze := none }) (thaw tally record s c) := by
  cases hf : (s.ctx c).freeze with
  | none => exact .inl ⟨thaw_thawed hf, rfl⟩
  | some f =>
    obtain ⟨why, start, armed⟩ := f
    refine .inr ?_
    simp only [thaw, hf, hb]
    split
    · exact served_driftRecord (ht _ _ _) _ _ _ _ _ _ _
    · exact ht _ _ _

theorem served_trapFreeze {b : Bead} (hb : (s.ctx c).run = some b) :
    trapFreeze s c = s ∧ (s.ctx c).freeze = none ∨ Served true (s.modCtx c fun x => { x with freeze := none }) (trapFreeze s c) :=
  served_thaw (fun u _ n => served_count (Served.refl true u) c evFrozen n) true hb

theorem leaves_trapFreeze {b : Bead} (hb : (s.ctx c).run = some b) : Leaves c s (trapFreeze s c) := by
  rcases served_trapFreeze hb with ⟨h, _⟩ | h
  · rw [h]
    exact leaves_of_served (Served.refl true s)
  · exact (leaves_modCtx s _).trans (leaves_of_served h)

theorem ctx_trapFreeze {b : Bead} (hb : (s.ctx c).run = some b) :
    ∃ p q, (trapFreeze s c).ctx c = { s.ctx c with freeze := none, pmcnt := p, pmctl := q } := by
  rcases served_trapFreeze hb with ⟨h, hf⟩ | h
  · exact ⟨(s.ctx c).pmcnt, (s.ctx c).pmctl, by rw [h, ← hf]⟩
  · obtain ⟨p, q, hc⟩ := h.ctx c
    exact ⟨p, q, by rw [hc, State.modCtx_ctx_self]⟩

end

/-! ### The saved state -/

/-- The state that is saved of a context from which nothing is to be fetched, and in which nothing is frozen. -/
def savedOf (s : State) (c : Nat) (b : Bead) : Saved :=
  let x := s.ctx c
  { arch := x.arch, shadow := x.shadow, ckpt := x.ckpt, withheld := x.withheld, issued := x.issued, owed := x.owed,
    pendTraps := x.pendTraps, pmctl := x.pmctl, pmlock := x.pmlock, pmsel := x.pmsel, pmcnt := x.pmcnt, ckptUid := x.ckptUid,
    addr := b.addr, life := b.life, ctx := c, array := some (s.core (coreOf c)).arr, stopSkip := x.stopSkip }

theorem vacate_of_counts (x : Ctx) (p q) : vacate { x with pmcnt := p, pmctl := q } = vacate x := rfl

/-- A bead leaves its context: its images are written, its state is kept and its records tell so. -/
theorem saveBead_leaves {s : State} {c : Nat} (b : Bead) (hf : (s.ctx c).freeze = none) (hu : (s.ctx c).unfetched = []) :
    Leaves c s (saveBead s c b) ∧ (saveBead s c b).ctx c = vacate (s.ctx c) ∧
      (saveBead s c b).hub.saved.get? (saveKey b.job b.save) = some (savedOf s c b) := by
  have h0 : fetchAll (leaveFreeze s c) c = s := by
    rw [leaveFreeze, thaw_thawed hf, fetchAll, hu]
    rfl
  unfold saveBead
  rw [h0]
  dsimp only
  generalize hs3 : (if ownsArray s c = true then _ else _ : State) = s3
  have g3 : Served true s s3 := by
    have gw := served_writeWithheld (served_writeCounters (served_writeImage (served_writeImage (Served.refl true s) b.job
      (b.save + currentImage) (isPending s c) (s.ctx c).arch) b.job (b.save + shadowImage) (isPending s c) (s.ctx c).shadow)
      b.job b.save (s.ctx c)) b.job (b.save + withholdImage) (s.ctx c).withheld
    rw [← hs3]
    split
    · exact served_writeArray gw _ _ _ _
    · exact gw
  have g6 (a : State) : Served true a (addEnergy (setBeadWord a b.job b.addr 1
      (putBits (putBits (beadWord a b.job b.addr 1) 58 1 (if ownsArray s c then 1 else 0)) 57 1
        (if ownsArray s c then slotNo c else bitsOf (beadWord a b.job b.addr 1) 57 1))) b) :=
    served_addEnergy (served_setBeadWord (Served.refl true a) _ _ _ _) b
  generalize hs5 : modArray (s3.modHub _) c _ = s5
  have g5 : Leaves c s s5 := by
    rw [← hs5]
    exact (leaves_of_served g3).trans ⟨fun _ _ => ⟨_, _, rfl⟩, rfl, rfl, rfl, rfl, rfl, rfl⟩
  obtain ⟨p, q, hp⟩ := g3.ctx c
  obtain ⟨p', q', gp⟩ := (g6 s5).ctx c
  obtain ⟨m, f, hh⟩ := (g6 s5).hub
  refine ⟨((g5.trans (leaves_of_served (g6 s5))).trans (leaves_charge _ _ _)).trans (leaves_modCtx _ _), ?_, ?_⟩
  · have h5 : s5.ctx c = s3.ctx c := by rw [← hs5]; rfl
    rw [State.modCtx_ctx_self, ctx_charge, gp, h5, hp]
    rfl
  · have h5 : s5.hub.saved = s3.hub.saved.set (saveKey b.job b.save) (savedOf s c b) := by rw [← hs5]; rfl
    rw [State.modCtx_hub, saved_charge, hh]
    show Table.get? s5.hub.saved _ = _
    rw [h5, Table.get?_set_self]

/-! ### The handler -/

theorem trapTemplate_of_leaves {c : Nat} {s t : State} (h : Leaves c s t) (b : Bead) : trapTemplate t b = trapTemplate s b := by
  simp only [trapTemplate, State.job, h.suph, h.jobs]

theorem launchOf_of_leaves {c : Nat} {s t : State} (h : Leaves c s t) (j va lid : Nat) : launchOf t j va lid = launchOf s j va lid := by
  simp only [launchOf, handlerLaunch, h.launches, h.completing]

/-- What a trap leaves to be started or cancelled: a handler, where its template is one, or the trapped bead's launch. -/
theorem startHandler_cases (s : State) (c : Nat) (b : Bead) (x : Cause) (launch : Nat) : ∃ u, Served false s u ∧
    (trapTemplate s b ≠ 0 ∧
        startHandler s c b x launch = pushStart u (.handler b.job (trapTemplate s b) (.trap b.addr b.save) none b.sup launch) ∨
      startHandler s c b x launch =
        pushCancel u (if b.launch = 0 ∨ b.sup = true then .unit b.job b.addr else .launch (launchOf s b.job b.addr b.launch))) := by
  have hv : Served false s (if trapTemplate s b = 0 then s else vSee s b.job (trapTemplate s b) 64) := by
    split
    · exact Served.refl false s
    · exact served_vSee (Served.refl false s) _ _ _
  unfold startHandler
  dsimp only
  generalize (if trapTemplate s b = 0 then s else vSee s b.job (trapTemplate s b) 64) = v at hv ⊢
  split
  · rw [← launchOf_of_leaves (leaves_of_served (c := c) hv)]
    simp only [Bool.or_eq_true, decide_eq_true_eq]
    exact ⟨_, served_logFault hv _, .inr rfl⟩
  · rename_i h
    simp only [Bool.or_eq_true, decide_eq_true_eq, not_or] at h
    exact ⟨v, hv, .inl ⟨h.1.1, rfl⟩⟩

/-! ### The delivery -/

/-- The state at the last checkpoint, which the trapped bead goes back to. -/
def trapped (s : State) (c : Nat) (x : Cause) : State :=
  (restoreShadow (trapFreeze (countLanded s c) c) c).modCtx c fun k => { k with
    pendTraps := k.pendTraps.filter fun y => y.deferred && y != x, preempt := none }

theorem leaves_trapped {s : State} {c : Nat} {b : Bead} (hb : (s.ctx c).run = some b) (x : Cause) : Leaves c s (trapped s c x) := by
  have h := served_countLanded (Served.refl true s) c
  obtain ⟨p, q, hc⟩ := h.ctx c
  have hr : ((countLanded s c).ctx c).run = some b := by rw [hc]; exact hb
  unfold trapped restoreShadow
  exact ((((leaves_of_served h).trans (leaves_trapFreeze hr)).trans (leaves_modArray _ _ _)).trans (leaves_modCtx _ _)).trans
    (leaves_modCtx _ _)

/-- What the context holds there. -/
theorem ctx_trapped {s : State} {c : Nat} {b : Bead} (hb : (s.ctx c).run = some b) (x : Cause) :
    let y := (trapped s c x).ctx c
    y.arch = (s.ctx c).shadow ∧ y.shadow = (s.ctx c).shadow ∧ y.ckpt = (s.ctx c).ckpt ∧ y.pc = (s.ctx c).ckpt ∧ y.withheld = [] ∧
      y.owed = some 0 ∧ y.storeQ = (s.ctx c).storeQ ∧ y.freeze = none ∧ y.unfetched = [] := by
  obtain ⟨p, q, hc⟩ := (served_countLanded (Served.refl true s) c).ctx c
  have hr : ((countLanded s c).ctx c).run = some b := by rw [hc]; exact hb
  obtain ⟨p', q', hf⟩ := ctx_trapFreeze hr
  have ha (f : MxArray → MxArray) : (modArray (trapFreeze (countLanded s c) c) c f).ctx c = (trapFreeze (countLanded s c) c).ctx c := rfl
  simp only [trapped, restoreShadow, State.modCtx_ctx_self, ha, hf, hc, and_self]

/-- The delivery of a trap, from the bead's leaving on. -/
theorem deliverTrap_eq (s : State) (c : Nat) (b : Bead) (x : Cause) : deliverTrap s c b x =
    startHandler (setBeadWop (writeBack (vWrite (saveBead (trapped s c x) c b) b.job b.save 64
      (trapRecord x ((trapped s c x).ctx c).pc b.launch b.index)) b ((trapped s c x).ctx c).pc 3) b.job b.addr 0) c b x 0 := by
  have hp : ((trapped s c x).ctx c).pc = ((restoreShadow (trapFreeze (countLanded s c) c) c).ctx c).pc := by
    rw [trapped, State.modCtx_ctx_self]
  rw [hp]
  rfl

/-- Settles O53: the trapped bead is saved at its checkpoint and written back, and one handler or one cancel is left to the hub. -/
theorem trapDelivery : Obligations.TrapDelivery := by
  unfold Obligations.TrapDelivery
  intro s c b x hb t
  refine ⟨fun hw => by simp [t, takeTrap, hb, hw], fun hw => ?_⟩
  have ht : t = deliverTrap s c b x := by simp [t, takeTrap, hb, hw]
  obtain ⟨harch, hshadow, hckpt, hpc, hwithheld, howed, hqueue, hfreeze, hfetched⟩ := ctx_trapped hb x
  obtain ⟨hl, hc, hs⟩ := saveBead_leaves b hfreeze hfetched
  rw [deliverTrap_eq, hpc] at ht
  generalize saveBead (trapped s c x) c b = u at hl hc hs ht
  have hw := served_setBeadWop (served_writeBack (served_vWrite (Served.refl true u) b.job b.save 64
    (trapRecord x (s.ctx c).ckpt b.launch b.index)) b (s.ctx c).ckpt 3) b.job b.addr 0
  have heq := ht
  generalize setBeadWop _ _ _ _ = w at hw ht
  obtain ⟨v, hv, hcases⟩ := startHandler_cases w c b x 0
  have hsw : Leaves c s w := ((leaves_trapped hb x).trans hl).trans (leaves_of_served hw)
  have hsv : Leaves c s v := hsw.trans (leaves_of_served hv)
  obtain ⟨p, q, hp⟩ := hw.ctx c
  obtain ⟨p', q', hp'⟩ := hv.ctx c
  obtain ⟨m, f, hm⟩ := hw.hub
  obtain ⟨m', f', hm'⟩ := hv.hub
  have htv : (∀ d, t.ctx d = v.ctx d) ∧ t.hub.saved = v.hub.saved := by
    rcases hcases with ⟨_, h⟩ | h <;> rw [ht, h] <;> exact ⟨fun _ => rfl, rfl⟩
  have hctx : t.ctx c = { vacate ((trapped s c x).ctx c) with pmcnt := p', pmctl := q' } := by rw [htv.1, hp', hp, hc]
  refine ⟨by rw [hctx]; rfl, by rw [hctx]; rfl, by rw [hctx, ← hqueue]; rfl, fun d hd => ?_, ?_, ⟨u, heq, by rw [hc]; rfl⟩, ?_, ?_⟩
  · obtain ⟨r, o, ho⟩ := hsv.ctx d hd
    rw [htv.1, ho]
  · exact ⟨_, by rw [htv.2, hm', hm]; exact hs, harch, hshadow, hckpt, hwithheld, howed⟩
  · rw [← trapTemplate_of_leaves hsw, ← launchOf_of_leaves hsw, ← hsv.starts, ← hsv.cancels, ht]
    rcases hcases with ⟨_, h⟩ | h <;> rw [h]
    · exact .inl ⟨rfl, rfl⟩
    · exact .inr ⟨rfl, rfl⟩
  · intro hz
    rw [← trapTemplate_of_leaves hsw] at hz
    rcases hcases with ⟨hn, _⟩ | h
    · exact absurd hz hn
    · rw [ht, h, ← hsv.starts]
      rfl

end Sys2Proof.Leaving
end

section
/-! SUPPORT. What the results due at a cycle leave in registers, predicates and latches (R19, R32, R41, R43, R54). -/
namespace Sys2Proof.ResultLanding
open Sys2Proof Sys2Proof.Machine Sys2Proof.Claims

/-! ### Merged bits -/

theorem getLsbD_mergeBits {n : Nat} (o v m : BitVec n) (k : Nat) :
    (mergeBits o v m).getLsbD k = if m.getLsbD k then v.getLsbD k else o.getLsbD k := by
  by_cases hk : k < n
  · simp only [mergeBits, BitVec.getLsbD_or, BitVec.getLsbD_and, BitVec.getLsbD_not, hk, decide_true, Bool.true_and]
    cases m.getLsbD k <;> simp
  · simp [mergeBits, BitVec.getLsbD_of_ge _ _ (Nat.le_of_not_lt hk)]

theorem mergeBits_twice {n : Nat} (o v m : BitVec n) : mergeBits (mergeBits o v m) v m = mergeBits o v m := by
  refine BitVec.eq_of_getLsbD_eq fun k _ => ?_
  simp only [getLsbD_mergeBits]
  split <;> rfl

/-! ### One place of a context -/

/-- `get` reads the place that landings for `d` change as `merge` says, and no other landing does. -/
structure Place {α : Type} (d : Dest) (get : Arch → α) (merge : α → Landing → α) : Prop where
  hit : ∀ a l, l.dest = d → get (landArch a l) = merge (get a) l
  miss : ∀ a l, l.dest ≠ d → get (landArch a l) = get a
  twice : ∀ x l, merge (merge x l) l = merge x l

section
variable {α : Type} {d : Dest} {get : Arch → α} {merge : α → Landing → α} (h : Place d get merge)
include h

theorem Place.kept (a : Arch) (l : List Landing) (hl : ∀ e ∈ l, e.dest ≠ d) : get (l.foldl landArch a) = get a := by
  induction l generalizing a with
  | nil => rfl
  | cons x r ih =>
    rw [List.foldl_cons, ih _ fun e he => hl e (List.mem_cons_of_mem x he), h.miss _ _ (hl x List.mem_cons_self)]

/-- A result that has landed stays while no other one lands there. -/
theorem Place.stays (a : Arch) (l : List Landing) (e : Landing) (x : α) (hl : ∀ u ∈ l, u.dest = d → u = e) (ha : get a = merge x e) :
    get (l.foldl landArch a) = merge x e := by
  induction l generalizing a with
  | nil => exact ha
  | cons y r ih =>
    refine ih _ (fun u hu => hl u (List.mem_cons_of_mem y hu)) ?_
    by_cases hy : y.dest = d
    · rw [h.hit _ _ hy, ha, hl y List.mem_cons_self hy, h.twice]
    · rw [h.miss _ _ hy, ha]

theorem Place.merged (a : Arch) (l : List Landing) (e : Landing) (he : e ∈ l) (hd : e.dest = d) (hl : ∀ u ∈ l, u.dest = d → u = e) :
    get (l.foldl landArch a) = merge (get a) e := by
  induction l generalizing a with
  | nil => cases he
  | cons y r ih =>
    have hr : ∀ u ∈ r, u.dest = d → u = e := fun u hu => hl u (List.mem_cons_of_mem y hu)
    by_cases hy : y.dest = d
    · have : y = e := hl y List.mem_cons_self hy
      subst this
      rw [List.foldl_cons]
      exact h.stays _ _ _ _ hr (h.hit _ _ hd)
    · rcases List.mem_cons.mp he with hey | her
      · exact absurd (hey ▸ hd) hy
      · rw [List.foldl_cons, ih _ her hr, h.miss _ _ hy]

end

/-! ### The places -/

theorem merge64_twice (x : W64) (l : Landing) : merge64 (merge64 x l) l = merge64 x l := mergeBits_twice _ _ _

theorem place_s {n : BitVec 6} (hn : n ≠ 0) : Place (.s n) (fun a => sReg a n) merge64 := by
  refine ⟨fun a l hl => ?_, fun a l hl => ?_, merge64_twice⟩
  · rw [landArch, landValue, hl]
    simp only [setSReg, sReg, if_neg hn, Vector.getElem_set_self]
  · unfold landArch landValue
    split
    case h_1 m hm =>
      have : m ≠ n := fun h => hl (h ▸ hm)
      have : m.toNat ≠ n.toNat := fun h => this (BitVec.eq_of_toNat_eq h)
      simp [sReg, setSReg, this]
    all_goals rfl

theorem place_v (n : BitVec 6) : Place (.v n) (fun a => vReg a n) fun x l => mergeBits x l.value l.mask := by
  refine ⟨fun a l hl => ?_, fun a l hl => ?_, fun _ _ => mergeBits_twice _ _ _⟩
  · simp [landArch, landValue, hl, setVReg, vReg]
  · unfold landArch landValue
    split
    case h_2 m hm =>
      have : m ≠ n := fun h => hl (h ▸ hm)
      have : m.toNat ≠ n.toNat := fun h => this (BitVec.eq_of_toNat_eq h)
      simp [vReg, setVReg, this]
    all_goals rfl

theorem place_p {n : BitVec 4} (hn : n ≠ 0) : Place (.p n) (fun a => pReg a n)
    fun x l => mergeBits x (l.value.extractLsb' 0 128) (l.mask.extractLsb' 0 128) := by
  refine ⟨fun a l hl => ?_, fun a l hl => ?_, fun _ _ => mergeBits_twice _ _ _⟩
  · rw [landArch, landValue, hl]
    simp only [setPReg, pReg, if_neg hn, Vector.getElem_set_self]
  · unfold landArch landValue
    split
    case h_3 m hm =>
      have : m ≠ n := fun h => hl (h ▸ hm)
      have : m.toNat ≠ n.toNat := fun h => this (BitVec.eq_of_toNat_eq h)
      simp [pReg, setPReg, this]
    all_goals rfl

theorem place_iq : Place .iq Arch.iq merge64 := by
  refine ⟨fun a l hl => ?_, fun a l hl => ?_, merge64_twice⟩
  · rw [landArch, landValue, hl]
  · unfold landArch landValue
    split
    case h_4 hm => exact absurd hm hl
    all_goals rfl

theorem place_fq : Place .fq Arch.fq merge64 := by
  refine ⟨fun a l hl => ?_, fun a l hl => ?_, merge64_twice⟩
  · rw [landArch, landValue, hl]
  · unfold landArch landValue
    split
    case h_5 hm => exact absurd hm hl
    all_goals rfl

theorem place_aq : Place .aq Arch.aq fun x l => mergeBits x l.value l.mask := by
  refine ⟨fun a l hl => ?_, fun a l hl => ?_, fun _ _ => mergeBits_twice _ _ _⟩
  · rw [landArch, landValue, hl]
  · unfold landArch landValue
    split
    case h_6 hm => exact absurd hm hl
    all_goals rfl

theorem place_bq : Place .bq Arch.bq fun x l => mergeBits x l.value l.mask := by
  refine ⟨fun a l hl => ?_, fun a l hl => ?_, fun _ _ => mergeBits_twice _ _ _⟩
  · rw [landArch, landValue, hl]
  · unfold landArch landValue
    split
    case h_7 hm => exact absurd hm hl
    all_goals rfl

theorem place_xq : Place .xq Arch.xq fun x l => mergeBits x l.value l.mask := by
  refine ⟨fun a l hl => ?_, fun a l hl => ?_, fun _ _ => mergeBits_twice _ _ _⟩
  · rw [landArch, landValue, hl]
  · unfold landArch landValue
    split
    case h_8 hm => exact absurd hm hl
    all_goals rfl

theorem sReg_zero (a : Arch) : sReg a 0 = 0 := rfl
theorem pReg_zero (a : Arch) : pReg a 0 = BitVec.allOnes 128 := rfl

theorem wtb_landArch (a : Arch) (l : Landing) : (landArch a l).wtb = a.wtb := by
  unfold landArch landValue
  split <;> rfl

theorem fflags_landArch (a : Arch) (l : Landing) : (landArch a l).fflags = a.fflags ||| l.flags.zeroExtend 64 := by
  unfold landArch landValue
  split <;> rfl

theorem wtb_foldl_landArch (l : List Landing) (a : Arch) : (l.foldl landArch a).wtb = a.wtb := by
  induction l generalizing a with
  | nil => rfl
  | cons x r ih => rw [List.foldl_cons, ih, wtb_landArch]

theorem fflags_foldl_landArch (l : List Landing) (a : Arch) :
    (l.foldl landArch a).fflags = l.foldl (fun w e => w ||| e.flags.zeroExtend 64) a.fflags := by
  induction l generalizing a with
  | nil => rfl
  | cons x r ih => rw [List.foldl_cons, ih, fflags_landArch, List.foldl_cons]

/-! ### The landing step -/

theorem fetchRegister_fetched {s : State} {c : Nat} (h : (s.ctx c).unfetched = []) (code : Nat) : fetchRegister s c code = s := by
  unfold fetchRegister
  split
  · rfl
  · rw [h]
    rfl

theorem landOne_fetched {s : State} {c : Nat} (h : (s.ctx c).unfetched = []) (l : Landing) :
    landOne s c l = s.modCtx c fun x => { x with arch := landArch x.arch l, unfetched := x.unfetched.filter (· != l.dest.code) } := by
  rw [landOne, fetchRegister_fetched h, ite_self]

theorem countFrom_ctx (s : State) (life cc code n d : Nat) : (countFrom s life cc code n).ctx d = s.ctx d := by
  unfold countFrom countHeld
  split <;> rfl

theorem countFrom_mem (s : State) (life cc code n : Nat) : (countFrom s life cc code n).mem = s.mem := by
  unfold countFrom countHeld
  split <;> rfl

/-- The entries land one after the other. -/
theorem foldl_landOne (c cc : Nat) (life : State → Nat) (l : List Landing) (s : State) (h : (s.ctx c).unfetched = []) :
    let t := l.foldl (fun s e => countFrom (landOne s c e) (life s) cc evL2 e.lines) s
    t.ctx c = { s.ctx c with arch := l.foldl landArch (s.ctx c).arch } ∧ t.mem = s.mem ∧ ∀ d, d ≠ c → t.ctx d = s.ctx d := by
  induction l generalizing s with
  | nil => exact ⟨rfl, rfl, fun _ _ => rfl⟩
  | cons e r ih =>
    have hc : (countFrom (landOne s c e) (life s) cc evL2 e.lines).ctx c = { s.ctx c with arch := landArch (s.ctx c).arch e } := by
      simp only [countFrom_ctx, landOne_fetched h, State.modCtx_ctx_self, h, List.filter_nil]
    obtain ⟨ic, im, id⟩ := ih (countFrom (landOne s c e) (life s) cc evL2 e.lines) (by rw [hc]; exact h)
    refine ⟨?_, ?_, fun d hd => ?_⟩
    · rw [List.foldl_cons, ic, hc]
      rfl
    · rw [List.foldl_cons, im, countFrom_mem, landOne_fetched h, State.modCtx_mem]
    · rw [List.foldl_cons, id d hd, countFrom_ctx, landOne_fetched h, State.modCtx_ctx_ne s _ hd]

/-- What the landing step leaves. -/
theorem landDue_spec {s : State} {c : Nat} (h : (s.ctx c).unfetched = []) (l : List Landing) :
    ((landDue s c l).ctx c).arch =
      l.foldl landArch { (s.ctx c).arch with wtb := (s.ctx c).arch.wtb.filter fun e => !decide (e.due ≤ (s.ctx c).arch.cc) } ∧
    (landDue s c l).mem = s.mem ∧ ∀ d, d ≠ c → (landDue s c l).ctx d = s.ctx d := by
  obtain ⟨hc, hm, hd⟩ := foldl_landOne c (s.ctx c).arch.cc (fun s => lifeOf s c) l
    (s.modArch c fun a => { a with wtb := a.wtb.filter fun e => !decide (e.due ≤ a.cc) }) (by rw [State.modArch_ctx_self]; exact h)
  refine ⟨?_, hm, fun d hne => ?_⟩
  · rw [landDue, State.modCtx_ctx_self, hc, State.modArch_ctx_self]
  · rw [landDue, State.modCtx_ctx_ne _ _ hne, hd d hne, State.modArch_ctx_ne s _ hne]

/-- Results due land where none is a control register's, late, or an atomic's deadline. -/
theorem exec_resultLand {s : State} {c : Nat} (hr : (s.ctx c).run.isNone = false) (hf : (s.ctx c).freeze = none)
    (hu : (s.ctx c).unfetched = []) (hl : dueNow (s.ctx c).arch ≠ [])
    (h : ∀ e ∈ dueNow (s.ctx c).arch, cregOf e = none ∧ e.deadline = false ∧ e.waiting = false) :
    exec (.resultLand c) s = .next (landDue s c (dueNow (s.ctx c).arch)) := by
  have hlate : lateDue (s.ctx c).arch = false := by
    rw [lateDue, List.any_eq_false]
    intro e he
    simp only [Bool.and_eq_true, decide_eq_true_eq, Bool.not_eq_true', not_and]
    intro ⟨hd, hw⟩
    exact absurd hw (by simp [(h e (List.mem_filter.mpr ⟨he, decide_eq_true hd⟩)).2.2])
  have hplain : plainDue (dueNow (s.ctx c).arch) = true := List.all_eq_true.mpr fun e he => by rw [(h e he).1]; rfl
  have hdead : (dueNow (s.ctx c).arch).any (·.deadline) = false := List.any_eq_false.mpr fun e he => by simp [(h e he).2.1]
  have hheld : heldBack s c (dueNow (s.ctx c).arch) = none := by
    unfold heldBack
    split
    · rfl
    · simp [hu]
  have hend : endLate s c = s := by rw [endLate, hf]
  show execResultLand c s = _
  simp [execResultLand, hr, hl, hlate, hplain, hdead, hheld, hend]

/-- Settles O50: each place is changed by the landings for it alone, and the step is the landing of the entries in turn. -/
theorem resultsLand : Obligations.ResultsLand := by
  unfold Obligations.ResultsLand
  intro s c b hb hf hu x l hl h
  have hx := exec_resultLand (s := s) (c := c) (by rw [hb]; rfl) hf hu hl h
  obtain ⟨ha, hm, hd⟩ := landDue_spec hu l
  refine ⟨landDue s c l, hx, ?_⟩
  rw [ha]
  refine ⟨fun n hn => ?_, fun n hn => (place_v n).kept _ _ hn, fun n hn => ?_, fun n e hz he hn hs => (place_s hz).merged _ _ e he hn hs,
    fun n e he hn hs k => ?_, fun n e hz he hn hs k hk => ?_, fun e he hn hs => place_iq.merged _ _ e he hn hs,
    fun e he hn hs => place_fq.merged _ _ e he hn hs, fun e he hn hs k => ?_, fun e he hn hs k => ?_, fun e he hn hs k => ?_,
    fun hn => place_iq.kept _ _ hn, fun hn => place_fq.kept _ _ hn, fun hn => place_aq.kept _ _ hn, fun hn => place_bq.kept _ _ hn,
    fun hn => place_xq.kept _ _ hn, fflags_foldl_landArch _ _, wtb_foldl_landArch _ _, hm, hd⟩
  · by_cases hz : n = 0
    · rw [hz, sReg_zero, sReg_zero]
    · exact (place_s hz).kept _ _ hn
  · by_cases hz : n = 0
    · rw [hz, pReg_zero, pReg_zero]
    · exact (place_p hz).kept _ _ hn
  · rw [(place_v n).merged _ _ e he hn hs, getLsbD_mergeBits]
    rfl
  · rw [(place_p hz).merged _ _ e he hn hs, getLsbD_mergeBits]
    simp only [BitVec.getLsbD_extractLsb', hk, decide_true, Bool.true_and, Nat.zero_add]
    rfl
  · rw [place_aq.merged _ _ e he hn hs, getLsbD_mergeBits]
  · rw [place_bq.merged _ _ e he hn hs, getLsbD_mergeBits]
  · rw [place_xq.merged _ _ e he hn hs, getLsbD_mergeBits]

end Sys2Proof.ResultLanding
end

section
/-! SUPPORT. Where the bytes of a store that drains come to stand (R196, R206, R232, R254, R256). -/
namespace Sys2Proof.StoreDrain
open Sys2Proof Sys2Proof.Machine Sys2Proof.Claims Sys2Proof.Serving

/-! ### Bytes of memory -/

theorem get_writeCells_in {p : Nat × Byte} : (l : List (Nat × Byte)) → {m : List Host.Cell} → Memory.wf m = true →
    l.Pairwise (fun p q => p.1 ≠ q.1) → p ∈ l → Memory.get (Memory.writeCells m l) p.1 = p.2
  | (a, b) :: r, m, hm, hl, hp => by
    obtain ⟨ha, hr⟩ := List.pairwise_cons.mp hl
    rw [Memory.writeCells]
    rcases List.mem_cons.mp hp with rfl | hp
    · rw [Memory.get_writeCells_out r _ fun q hq => (ha q hq).symm]
      exact Memory.get_set_self a b m 0 hm
    · exact get_writeCells_in r (Memory.wf_set a b hm) hr hp

/-- Bytes that go to memory one by one are all that changes there. -/
theorem drainBytes_mem {k : Nat} {ptes : List (Nat × W64)} (P : State → Prop) : (l : List (Nat × Byte)) →
    (∀ t, ∀ p ∈ l, P t → P (drainByte t k p.1 p.2 (pteOf ptes p.1)) ∧
      (drainByte t k p.1 p.2 (pteOf ptes p.1)).mem = Memory.set t.mem p.1 p.2) →
    ∀ t, P t → (drainBytes t k ptes l).mem = Memory.writeCells t.mem l
  | [], _, _, _ => rfl
  | p :: r, h, t, ht => by
    obtain ⟨hp, hm⟩ := h t p List.mem_cons_self ht
    rw [drainBytes, drainBytes_mem P r (fun t q hq => h t q (List.mem_cons_of_mem p hq)) _ hp, hm, Memory.writeCells]

/-! ### Bytes of a line of the L1 -/

theorem getLsbD_byteOnes (m : Nat) : (255 : BitVec 1024).getLsbD m = decide (m < 8) := by
  have h : (255 : BitVec 1024) = BitVec.ofNat 1024 (2 ^ 8 - 1) := rfl
  rw [h, BitVec.getLsbD_ofNat, Nat.testBit_two_pow_sub_one, ← Bool.decide_and]
  exact decide_eq_decide.mpr (by omega)

theorem lineByte_stored (d : BitVec 1024) (b : Byte) {i j : Nat} (hi : i < 128) (hj : j < 128) :
    lineByte ((d &&& ~~~((255 : BitVec 1024) <<< (8 * i))) ||| (b.zeroExtend 1024 <<< (8 * i))) j = if j = i then b else lineByte d j := by
  refine BitVec.eq_of_getLsbD_eq fun n hn => ?_
  have hlt : 8 * j + n < 1024 := by omega
  simp only [lineByte, BitVec.getLsbD_extractLsb', hn, decide_true, Bool.true_and, BitVec.getLsbD_or, BitVec.getLsbD_and,
    BitVec.getLsbD_not, BitVec.getLsbD_shiftLeft, hlt, BitVec.getLsbD_setWidth, getLsbD_byteOnes]
  rcases Nat.lt_trichotomy j i with h | rfl | h
  · have h1 : 8 * j + n < 8 * i := by omega
    rw [if_neg (by omega)]
    simp [h1, hn]
  · have h1 : 8 * j + n - 8 * j = n := by omega
    simp [h1, hn]
    omega
  · have h1 : ¬ 8 * j + n < 8 * i := by omega
    have h2 : ¬ 8 * j + n - 8 * i < 8 := by omega
    rw [if_neg (by omega)]
    simp [h1, h2, hn, BitVec.getLsbD_of_ge b _ (Nat.le_of_not_lt h2)]

theorem getLsbD_oneBit {i j : Nat} (hj : j < 128) : ((1 : BitVec 128) <<< i).getLsbD j = decide (j = i) := by
  have h : (1 : BitVec 128).getLsbD (j - i) = decide (j - i = 0) := by
    rw [show (1 : BitVec 128) = 1#128 from rfl, BitVec.getLsbD_one]
    simp
  rw [BitVec.getLsbD_shiftLeft, h]
  simp only [hj, decide_true, Bool.true_and, ← decide_not, ← Bool.decide_and]
  exact decide_eq_decide.mpr (by omega)

/-! ### A byte goes to the L1 -/

theorem l1Line_setL1 (s : State) (k line l : Nat) (x : L1Line) :
    l1Line (setL1 s k line x) k l = if l = line then some x else l1Line s k l := by
  simp only [l1Line, setL1, State.modCore_core_self]
  split
  · next h => rw [h, Table.get?_set_self]
  · next h => rw [Table.get?_set_ne _ _ h]

section
variable {s : State} {k : Nat} {ptes : List (Nat × W64)} {pa : Nat} {b : Byte} {e : W64}

/-- The line that a stored byte leaves in the L1. -/
def storedLine (s : State) (k pa : Nat) (b : Byte) (e : W64) : L1Line :=
  let x := (l1Line s k (pa / 128)).getD { data := 0, valid := 0, dirty := 0, excl := false, pte := e }
  { x with
    data := (x.data &&& ~~~((255 : BitVec 1024) <<< (8 * (pa % 128)))) ||| (b.zeroExtend 1024 <<< (8 * (pa % 128)))
    valid := x.valid ||| (1 : BitVec 128) <<< (pa % 128)
    dirty := x.dirty ||| (1 : BitVec 128) <<< (pa % 128) }

theorem makeWay_of_takes {line : Nat} (h : (l1Line s k line).isSome = true ∨ (l1Set s k line).length < Config.l1Ways) :
    makeWay s k line = s := by
  rw [makeWay, if_pos]
  simpa using h

theorem storeByteL1_of_takes (h : (l1Line s k (pa / 128)).isSome = true ∨ (l1Set s k (pa / 128)).length < Config.l1Ways) :
    storeByteL1 s k pa b e = setL1 s k (pa / 128) (storedLine s k pa b e) := by
  rw [storeByteL1, makeWay_of_takes h]
  rfl

theorem l1Byte_stored (a : Nat) :
    l1Byte (setL1 s k (pa / 128) (storedLine s k pa b e)) k a = if a = pa then some b else l1Byte s k a := by
  have hi : pa % 128 < 128 := Nat.mod_lt _ (by decide)
  have hj : a % 128 < 128 := Nat.mod_lt _ (by decide)
  rw [l1Byte, l1Line_setL1]
  by_cases hl : a / 128 = pa / 128
  · have ha : a % 128 = pa % 128 ↔ a = pa := by omega
    simp only [if_pos hl, storedLine, BitVec.getLsbD_or, getLsbD_oneBit hj, lineByte_stored _ _ hi hj, ha]
    by_cases h : a = pa
    · simp [h]
    · rw [l1Byte, hl]
      cases l1Line s k (pa / 128) <;> simp [h]
  · have h : a ≠ pa := fun h => hl (by rw [h])
    rw [if_neg hl, if_neg h, l1Byte]

theorem l1Dirty_stored (a : Nat) :
    l1Dirty (setL1 s k (pa / 128) (storedLine s k pa b e)) k a = if a = pa then true else l1Dirty s k a := by
  have hj : a % 128 < 128 := Nat.mod_lt _ (by decide)
  rw [l1Dirty, l1Line_setL1]
  by_cases hl : a / 128 = pa / 128
  · have ha : a % 128 = pa % 128 ↔ a = pa := by omega
    simp only [if_pos hl, storedLine, BitVec.getLsbD_or, getLsbD_oneBit hj, ha]
    by_cases h : a = pa
    · simp [h]
    · rw [l1Dirty, hl]
      cases l1Line s k (pa / 128) <;> simp [h]
  · have h : a ≠ pa := fun h => hl (by rw [h])
    rw [if_neg hl, if_neg h, l1Dirty]

end

/-- What bytes that go to the L1 leave: that L1 holds them, dirty, and nothing else differs. -/
structure HeldDirty (k : Nat) (l : List (Nat × Byte)) (s t : State) : Prop where
  ctxs : t.ctxs = s.ctxs
  mem : t.mem = s.mem
  other : ∀ a, (∀ p ∈ l, p.1 ≠ a) → l1Byte t k a = l1Byte s k a ∧ l1Dirty t k a = l1Dirty s k a
  held : l.Pairwise (fun p q => p.1 ≠ q.1) → ∀ p ∈ l, l1Byte t k p.1 = some p.2 ∧ l1Dirty t k p.1 = true

theorem drainBytes_l1 {k : Nat} {ptes : List (Nat × W64)} : (l : List (Nat × Byte)) → (s : State) →
    (∀ p ∈ l, cacheable s p.1 (pteOf ptes p.1) = true) → (s.core k).u ≠ 0 → L1Takes s k l →
    HeldDirty k l s (drainBytes s k ptes l)
  | [], s, _, _, _ => ⟨rfl, rfl, fun _ _ => ⟨rfl, rfl⟩, fun _ _ h => nomatch h⟩
  | (pa, b) :: r, s, hc, hu, ht => by
    have hway : (l1Line s k (pa / 128)).isSome = true ∨ (l1Set s k (pa / 128)).length < Config.l1Ways := by
      rcases ht with h | ⟨line, h, hn⟩
      · exact .inl (h _ List.mem_cons_self)
      · rw [h _ List.mem_cons_self]
        exact .inr hn
    have hd : drainByte s k pa b (pteOf ptes pa) = setL1 s k (pa / 128) (storedLine s k pa b (pteOf ptes pa)) := by
      rw [drainByte, if_pos (hc _ List.mem_cons_self), if_neg hu, storeByteL1_of_takes hway]
    have hnext : L1Takes (setL1 s k (pa / 128) (storedLine s k pa b (pteOf ptes pa))) k r := by
      refine .inl fun p hp => ?_
      rw [l1Line_setL1]
      split
      · rfl
      · next hne =>
        rcases ht with h | ⟨line, h, _⟩
        · exact h p (List.mem_cons_of_mem _ hp)
        · exact absurd ((h p (List.mem_cons_of_mem _ hp)).trans (h _ List.mem_cons_self).symm) hne
    obtain ⟨ic, im, io, ih⟩ := drainBytes_l1 r (setL1 s k (pa / 128) (storedLine s k pa b (pteOf ptes pa)))
      (fun p hp => hc p (List.mem_cons_of_mem _ hp)) (by simpa [setL1] using hu) hnext
    rw [drainBytes, hd]
    refine ⟨ic, im, fun a ha => ?_, fun hl p hp => ?_⟩
    · obtain ⟨hb, hy⟩ := io a fun p hp => ha p (List.mem_cons_of_mem _ hp)
      have hne : a ≠ pa := (ha _ List.mem_cons_self).symm
      rw [hb, hy, l1Byte_stored, l1Dirty_stored, if_neg hne, if_neg hne]
      exact ⟨rfl, rfl⟩
    · obtain ⟨hpa, hr⟩ := List.pairwise_cons.mp hl
      rcases List.mem_cons.mp hp with rfl | hp
      · obtain ⟨hb, hy⟩ := io pa fun q hq => (hpa q hq).symm
        rw [hb, hy, l1Byte_stored, l1Dirty_stored, if_pos rfl, if_pos rfl]
        exact ⟨rfl, rfl⟩
      · exact ih hr p hp

/-! ### A byte of a core without an L1 -/

/-- No core but `k` holds the line exclusive where none of them holds it at all. -/
theorem takeBack_absent {k line : Nat} : (l : List (Nat × Core)) → (∀ q x, (q, x) ∈ l → x.l1.get? line = none) → (s : State) →
    takeBack s k line l = s
  | [], _, _ => rfl
  | (q, x) :: r, h, s => by
    rw [takeBack, h q x List.mem_cons_self, takeBack_absent r fun q x hx => h q x (List.mem_cons_of_mem _ hx)]
    simp

/-! ### The drain step -/

section
variable {s : State} {c : Nat} {e : Entry} {l : List (Nat × Byte)} {ptes : List (Nat × W64)}

theorem written_nil (s : State) : written s [] = s := by
  have hu : unpad s [] = s := by
    unfold unpad
    split <;> rfl
  rw [written, hu]
  split <;> rfl

/-- The state that a store with no fault and no byte of the own management window leaves. -/
theorem exec_drain (hq : (s.ctx c).storeQ.head? = some e) (ha : e.act = .store l ptes) (hs : hostStep s e = false)
    (hp : phaseHolds s c = false) (hf : drainFault s (coreOf c) ptes l = none) (hm : ∀ p ∈ l, ownMgmt s p.1 = false) :
    exec (.drain c) s = .next (popHead (written (drainBytes (touchHome s (coreOf c) ptes l) (coreOf c) ptes l)
      (byteBits (l.filter fun p => !cacheable s p.1 (pteOf ptes p.1)))) c) := by
  have hall : (l.filter fun p => !ownMgmt s p.1) = l := List.filter_eq_self.mpr fun p hp => by simp [hm p hp]
  have hnone : (l.filter fun p => ownMgmt s p.1) = [] := List.filter_eq_nil_iff.mpr fun p hp => by simp [hm p hp]
  show execDrain c s = _
  simp [execDrain, headEntry, hq, ha, hs, hp, drainStore, hf, hall, hnone, mgmtWrite, wordsOf]

/-- The queue of the context loses its head and events count; nothing else of the context differs. -/
theorem ctx_drained (bits : List (Nat × Nat)) :
    ∃ p q, (popHead (written (drainBytes (touchHome s (coreOf c) ptes l) (coreOf c) ptes l) bits) c).ctx c =
      { s.ctx c with storeQ := (s.ctx c).storeQ.tail, pmcnt := p, pmctl := q } := by
  have ht : Served true s (touchHome s (coreOf c) ptes l) := Served.foldl (fun _ _ h => served_homeAccess h _ _ _ _) _ (Served.refl true s)
  obtain ⟨p, q, h⟩ := (served_written (served_drainBytes (coreOf c) ptes l ht) bits).ctx c
  exact ⟨p, q, by rw [popHead, State.modCtx_ctx_self, h]⟩

theorem mem_drained (t : State) (bits : List (Nat × Nat)) : (popHead (written t bits) c).mem = t.mem := by
  rw [popHead, State.modCtx_mem, (served_written (Served.refl false t) bits).sameMem]

theorem touchHome_homed (s : State) (k : Nat) (ptes : List (Nat × W64)) (l : List (Nat × Byte)) : Homed s (touchHome s k ptes l) :=
  Homed.foldl (fun _ _ h => homed_homeAccess h _ _ _ _) _ (Homed.refl s)

theorem touchHome_cacheable {k : Nat} (h : ∀ p ∈ l, cacheable s p.1 (pteOf ptes p.1) = true) : touchHome s k ptes l = s := by
  have hnone : (l.filter fun (p : Nat × Byte) =>
      if tagged s p.1 then Pte.home (pteOf ptes p.1) == 1 else paAgent p.1 / 4 != s.pos) = [] := by
    refine List.filter_eq_nil_iff.mpr fun p hp => ?_
    obtain ⟨ht, hh⟩ := Bool.and_eq_true_iff.mp (h p hp)
    rw [if_pos ht]
    simpa using hh
  exact congrArg (sendHome s (agentOfCore s k) false) hnone

/-- What memory reads as once the bytes have been written there. -/
theorem stored_in_mem {m n : List Host.Cell} (hm : Memory.wf m = true) (hn : n = Memory.writeCells m l) :
    (∀ a, (∀ p ∈ l, p.1 ≠ a) → Memory.get n a = Memory.get m a) ∧
      (l.Pairwise (fun p q => p.1 ≠ q.1) → ∀ p ∈ l, Memory.get n p.1 = p.2) := by
  subst hn
  exact ⟨fun a ha => Memory.get_writeCells_out l m ha, fun hl p hp => get_writeCells_in l hm hl hp⟩

/-- Bytes that no cache holds are written where they lie. -/
theorem mem_uncached (k : Nat) (h : ∀ p ∈ l, cacheable s p.1 (pteOf ptes p.1) = false) :
    (drainBytes (touchHome s k ptes l) k ptes l).mem = Memory.writeCells s.mem l := by
  have hh := touchHome_homed s k ptes l
  rw [drainBytes_mem (fun t => ∀ a, tagged t a = tagged s a) l (fun t p hp ht => ?_) _ (tagged_homed hh), hh.served.sameMem]
  have hc : cacheable t p.1 (pteOf ptes p.1) = false := by
    rw [cacheable, ht]
    exact h p hp
  rw [drainByte, hc]
  exact ⟨ht, rfl⟩

/-- Cacheable bytes of a core without an L1 are written at the coherent point. -/
theorem mem_noL1 {k : Nat} (h : ∀ p ∈ l, cacheable s p.1 (pteOf ptes p.1) = true) (hu : (s.core k).u = 0)
    (hl : ∀ p ∈ l, ∀ q x, (q, x) ∈ s.cores → x.l1.get? (p.1 / 128) = none) :
    (drainBytes (touchHome s k ptes l) k ptes l).mem = Memory.writeCells s.mem l := by
  rw [touchHome_cacheable h]
  refine drainBytes_mem (fun t => t.cores = s.cores ∧ ∀ a, tagged t a = tagged s a) l (fun t p hp ⟨hk, ht⟩ => ?_) s ⟨rfl, fun _ => rfl⟩
  have hc : cacheable t p.1 (pteOf ptes p.1) = true := by
    rw [cacheable, ht]
    exact h p hp
  have hu' : (t.core k).u = 0 := by rw [State.core, hk]; exact hu
  have hr : reclaim t k (p.1 / 128) = t := takeBack_absent _ (hk ▸ hl p hp) t
  have ho := homed_obtainPinned (Homed.refl t) (agentOfCore t k) (p.1 / 128) (pteOf ptes p.1)
  rw [drainByte, if_pos hc, if_pos hu', hr]
  refine ⟨⟨ho.cores.trans hk, fun a => ?_⟩, ?_⟩
  · exact (tagged_homed ho a).trans (ht a)
  · exact congrArg (fun m => Memory.set m p.1 p.2) ho.served.sameMem

end

/-- Settles O51: the bytes go to memory where no L1 takes them, and to the core's L1 where it does. -/
theorem storedBytes : Obligations.StoredBytes := by
  unfold Obligations.StoredBytes
  intro s c e l ptes hinv hq ha hs hp hf hm k
  have hx := exec_drain hq ha hs hp hf hm
  refine ⟨fun hc => ⟨_, hx, ?_, ?_⟩, fun hc hu ht => ⟨_, hx, ?_⟩, fun hc hu hl => ⟨_, hx, ?_, ?_⟩⟩
  · obtain ⟨p, q, h⟩ := ctx_drained (s := s) (c := c) (l := l) (ptes := ptes)
      (byteBits (l.filter fun p => !cacheable s p.1 (pteOf ptes p.1)))
    rw [h]
  · rw [mem_drained]
    exact stored_in_mem hinv (mem_uncached k hc)
  · have hnone : (l.filter fun p => !cacheable s p.1 (pteOf ptes p.1)) = [] :=
      List.filter_eq_nil_iff.mpr fun p hp => by simp [hc p hp]
    obtain ⟨hctxs, hmem, hother, hheld⟩ := drainBytes_l1 l s hc hu ht
    rw [hnone, touchHome_cacheable hc, byteBits, List.map_nil, written_nil]
    refine ⟨?_, hmem, hother, hheld⟩
    rw [popHead, State.modCtx_ctx_self, State.ctx, hctxs]
    rfl
  · obtain ⟨p, q, h⟩ := ctx_drained (s := s) (c := c) (l := l) (ptes := ptes)
      (byteBits (l.filter fun p => !cacheable s p.1 (pteOf ptes p.1)))
    rw [h]
  · rw [mem_drained]
    exact stored_in_mem hinv (mem_noL1 hc hu hl)

end Sys2Proof.StoreDrain
end

section
/-! SUPPORT. The memory's canonical form under what serves accesses, at the issue of operations and where a bead leaves (log 1). -/
namespace Sys2Proof.Canonical
open Sys2Proof Sys2Proof.Machine Sys2Proof.Claims Sys2Proof.Serving Sys2Proof.Reading Sys2Proof.Leaving

-- Many of this section's proofs are replayed at once otherwise, each on a stack of its own.
set_option Elab.async false

variable {s t : State}

/-! ### Folds, branches and outcomes -/

theorem inv_foldl {α : Type} {f : State → α → State} (hf : ∀ t x, MemoryInv t → MemoryInv (f t x)) {l : List α} (h : MemoryInv s) :
    MemoryInv (l.foldl f s) := by
  induction l generalizing s with
  | nil => exact h
  | cons x r ih => exact ih (hf _ _ h)

theorem inv_ite {p : Prop} {_ : Decidable p} (hs : MemoryInv s) (ht : MemoryInv t) : MemoryInv (if p then s else t) := by
  split
  · exact hs
  · exact ht

theorem inv_update (h : MemoryInv s) (hm : t.mem = s.mem) : MemoryInv t := by
  rw [MemoryInv, hm]
  exact h

theorem inv_of_wf (h : Memory.wf s.mem = true) : MemoryInv s := h

theorem inv_modCtx {c : Nat} {f : Ctx → Ctx} (h : MemoryInv s) : MemoryInv (s.modCtx c f) := h
theorem inv_modArch {c : Nat} {f : Arch → Arch} (h : MemoryInv s) : MemoryInv (s.modArch c f) := h
theorem inv_modCore {k : Nat} {f : Core → Core} (h : MemoryInv s) : MemoryInv (s.modCore k f) := h
theorem inv_modJob {j : Nat} {f : Job → Job} (h : MemoryInv s) : MemoryInv (s.modJob j f) := h
theorem inv_modHomes {f : Homes → Homes} (h : MemoryInv s) : MemoryInv (s.modHomes f) := h
theorem inv_modHub {f : Hub → Hub} (h : MemoryInv s) : MemoryInv (s.modHub f) := h
theorem inv_modMgmt {f : Management → Management} (h : MemoryInv s) : MemoryInv (s.modMgmt f) := h
theorem inv_modHall {f : Hallmarks → Hallmarks} (h : MemoryInv s) : MemoryInv (s.modHall f) := h
theorem inv_modTiers {f : Tiers → Tiers} (h : MemoryInv s) : MemoryInv (s.modTiers f) := h

theorem next_inv (h : MemoryInv s) (ht : (.next s : Host.Outcome State Fault Refusal) = .next t) : MemoryInv t := by
  cases ht
  exact h

/-! ### What serves accesses -/

theorem inv_logFault {e : LogEntry} (h : MemoryInv s) : MemoryInv (logFault s e) := (served_logFault (Served.refl true s) _).wf h
theorem inv_count {c code n : Nat} (h : MemoryInv s) : MemoryInv (count s c code n) := (served_count (Served.refl true s) _ _ _).wf h
theorem inv_countFrom {life cc code n : Nat} (h : MemoryInv s) : MemoryInv (countFrom s life cc code n) :=
  (served_countFrom (Served.refl true s) _ _ _ _).wf h
theorem inv_countLater {life code n : Nat} (h : MemoryInv s) : MemoryInv (countLater s life code n) :=
  (served_countLater (Served.refl true s) _ _ _).wf h
theorem inv_countDeferred {c : Nat} (h : MemoryInv s) : MemoryInv (countDeferred s c) :=
  (served_countDeferred (Served.refl true s) _).wf h
theorem inv_countLanded {c : Nat} (h : MemoryInv s) : MemoryInv (countLanded s c) := (served_countLanded (Served.refl true s) _).wf h
theorem inv_countFabric {code : Nat} (h : MemoryInv s) : MemoryInv (countFabric s code) :=
  (served_countFabric (Served.refl true s) _).wf h
theorem inv_setTag {line : Nat} {t : BitVec 16} (h : MemoryInv s) : MemoryInv (setTag s line t) :=
  (served_setTag (Served.refl true s) _ _).wf h
theorem inv_setL2 {a line : Nat} {x : L2Copy} (h : MemoryInv s) : MemoryInv (setL2 s a line x) :=
  (served_setL2 (Served.refl true s) _ _ _).wf h
theorem inv_dropL2 {a line : Nat} (h : MemoryInv s) : MemoryInv (dropL2 s a line) := (served_dropL2 (Served.refl true s) _ _).wf h
theorem inv_dropShared {a line : Nat} (h : MemoryInv s) : MemoryInv (dropShared s a line) :=
  ((Served.refl true s).homed (homed_dropShared (Homed.refl s) _ _)).wf h
theorem inv_logTag {q line : Nat} (h : MemoryInv s) : MemoryInv (logTag s q line) := (served_logTag (Served.refl true s) _ _).wf h
theorem inv_logNoContext {line detail : Nat} (h : MemoryInv s) : MemoryInv (logNoContext s line detail) :=
  (served_logNoContext (Served.refl true s) _ _).wf h
theorem inv_cleanLine {line : Nat} (h : MemoryInv s) : MemoryInv (cleanLine s line) := (served_cleanLine (Served.refl true s) _).wf h
theorem inv_findErrors {line : Nat} (h : MemoryInv s) : MemoryInv (findErrors s line) :=
  ((Served.refl true s).homed (homed_findErrors (Homed.refl s) _)).wf h
theorem inv_allocLayer {stack l : Nat} (h : MemoryInv s) : MemoryInv (allocLayer s stack l) :=
  ((Served.refl true s).homed (homed_allocLayer (Homed.refl s) _ _)).wf h
theorem inv_touch {line : Nat} (h : MemoryInv s) : MemoryInv (touch s line) :=
  ((Served.refl true s).homed (homed_touch (Homed.refl s) _)).wf h
theorem inv_touchLines {l : List Nat} (h : MemoryInv s) : MemoryInv (touchLines s l) := (served_touchLines (Served.refl true s) _).wf h
theorem inv_downgrade {o line : Nat} {st : L2State} (h : MemoryInv s) : MemoryInv (downgrade s o line st) :=
  ((Served.refl true s).homed (homed_downgrade (Homed.refl s) _ _ _)).wf h
theorem inv_serveRdS {q line : Nat} (h : MemoryInv s) : MemoryInv (serveRdS s q line) :=
  ((Served.refl true s).homed (homed_serveRdS (Homed.refl s) _ _)).wf h
theorem inv_forwardX {o line : Nat} (h : MemoryInv s) : MemoryInv (forwardX s o line) :=
  ((Served.refl true s).homed (homed_forwardX (Homed.refl s) _ _)).wf h
theorem inv_serveRdX {q line : Nat} (h : MemoryInv s) : MemoryInv (serveRdX s q line) :=
  ((Served.refl true s).homed (homed_serveRdX (Homed.refl s) _ _)).wf h
theorem inv_carry {kind : CohKind} {line src dst : Nat} (h : MemoryInv s) : MemoryInv (carry s kind line src dst) :=
  (served_carry (Served.refl true s) _ _ _ _).wf h
theorem inv_homeAccess {q line : Nat} {reads : Bool} {bytes : List (Nat × Byte)} (h : MemoryInv s) :
    MemoryInv (homeAccess s q line reads bytes) := (served_homeAccess (Served.refl true s) _ _ _ _).wf h
theorem inv_sendNeeds {req : Request} {line : Nat} {acks : List Nat} {fwd : Option Nat} (h : MemoryInv s) :
    MemoryInv (sendNeeds s req line acks fwd) := ((Served.refl true s).homed (homed_sendNeeds (Homed.refl s) _ _ _ _)).wf h
theorem inv_sendOwner {line q o : Nat} (h : MemoryInv s) : MemoryInv (sendOwner s line q o) :=
  ((Served.refl true s).homed (homed_sendOwner (Homed.refl s) _ _ _)).wf h
theorem inv_sendAnswer {req : Request} {q line : Nat} {forwarded marked : Bool} (h : MemoryInv s) :
    MemoryInv (sendAnswer s req q line forwarded marked) := ((Served.refl true s).homed (homed_sendAnswer (Homed.refl s) _ _ _ _ _)).wf h
theorem inv_endMove {a : Nat} {m : Migration} (h : MemoryInv s) : MemoryInv (endMove s a m) :=
  ((Served.refl true s).homed (homed_endMove (Homed.refl s) _ _)).wf h
theorem inv_settle {line : Nat} (h : MemoryInv s) : MemoryInv (settle s line) :=
  ((Served.refl true s).homed (homed_settle (Homed.refl s) _)).wf h
theorem inv_obtainPinned {q line : Nat} {e : W64} (h : MemoryInv s) : MemoryInv (obtainPinned s q line e) :=
  (served_obtainPinned (Served.refl true s) _ _ _).wf h
theorem inv_obtainShared {q line : Nat} {e : W64} (h : MemoryInv s) : MemoryInv (obtainShared s q line e) :=
  (served_obtainShared (Served.refl true s) _ _ _).wf h
theorem inv_setL1 {k line : Nat} {x : L1Line} (h : MemoryInv s) : MemoryInv (setL1 s k line x) :=
  (served_setL1 (Served.refl true s) _ _ _).wf h
theorem inv_eraseL1 {k line : Nat} (h : MemoryInv s) : MemoryInv (eraseL1 s k line) := (served_eraseL1 (Served.refl true s) _ _).wf h
theorem inv_reclaim {k line : Nat} (h : MemoryInv s) : MemoryInv (reclaim s k line) := (served_reclaim (Served.refl true s) _ _).wf h
theorem inv_reclaimAll {line : Nat} (h : MemoryInv s) : MemoryInv (reclaimAll s line) := (served_reclaimAll (Served.refl true s) _).wf h
theorem inv_pushLine {k line : Nat} (h : MemoryInv s) : MemoryInv (pushLine s k line) := (served_pushLine (Served.refl true s) _ _).wf h
theorem inv_dropLine {k line : Nat} (h : MemoryInv s) : MemoryInv (dropLine s k line) := (served_dropLine (Served.refl true s) _ _).wf h
theorem inv_dropOthers {k line : Nat} {a : List (Nat × Core)} (h : MemoryInv s) : MemoryInv (dropOthers s k line a) :=
  (served_dropOthers _ _ _ (Served.refl true s)).wf h
theorem inv_dropAt {a line : Nat} (h : MemoryInv s) : MemoryInv (dropAt s a line) := (served_dropAt (Served.refl true s) _ _).wf h
theorem inv_sendInv {line : Nat} (h : MemoryInv s) : MemoryInv (sendInv s line) := (served_sendInv (Served.refl true s) _).wf h
theorem inv_takeInv {line : Nat} (h : MemoryInv s) : MemoryInv (takeInv s line) := (served_takeInv (Served.refl true s) _).wf h
theorem inv_fillLine {k line : Nat} {e : W64} {hint : BitVec 2} (h : MemoryInv s) : MemoryInv (fillLine s k line e hint) :=
  (served_fillLine (Served.refl true s) _ _ _ _).wf h
theorem inv_drainBytes {k : Nat} {ptes : List (Nat × W64)} {a : List (Nat × Byte)} (h : MemoryInv s) :
    MemoryInv (drainBytes s k ptes a) := (served_drainBytes _ _ _ (Served.refl true s)).wf h
theorem inv_pushLines {k : Nat} {a : List Nat} (h : MemoryInv s) : MemoryInv (pushLines s k a) :=
  (served_pushLines _ _ (Served.refl true s)).wf h
theorem inv_dropLines {k : Nat} {a : List Nat} (h : MemoryInv s) : MemoryInv (dropLines s k a) :=
  (served_dropLines _ _ (Served.refl true s)).wf h
theorem inv_pushAll {k : Nat} (h : MemoryInv s) : MemoryInv (pushAll s k) := (served_pushAll (Served.refl true s) _).wf h
theorem inv_unpad {l : List (Nat × Nat)} (h : MemoryInv s) : MemoryInv (unpad s l) := (served_unpad (Served.refl true s) _).wf h
theorem inv_written {l : List (Nat × Nat)} (h : MemoryInv s) : MemoryInv (written s l) := (served_written (Served.refl true s) _).wf h
theorem inv_cpAtom {q pa : Nat} {e : W64} {n : Nat} {f : Nat → Nat} (h : MemoryInv s) : MemoryInv (cpAtom s q pa e n f) :=
  (served_cpAtom (Served.refl true s) _ _ _ _ _).wf h
theorem inv_hubWrite {e : W64} {pa n x : Nat} (h : MemoryInv s) : MemoryInv (hubWrite s e pa n x) :=
  (served_hubWrite (Served.refl true s) _ _ _ _).wf h
theorem inv_hubWalk {j va : Nat} (h : MemoryInv s) : MemoryInv (hubWalk s j va) := (served_hubWalk (Served.refl true s) _ _).wf h
theorem inv_vAtomStep {j va n : Nat} {f : Nat → Nat} (h : MemoryInv s) : MemoryInv (vAtomStep s j va n f) :=
  (served_vAtomStep (Served.refl true s) _ _ _ _).wf h
theorem inv_vWrite {j va n x : Nat} (h : MemoryInv s) : MemoryInv (vWrite s j va n x) := (served_vWrite (Served.refl true s) _ _ _ _).wf h
theorem inv_vSee {j va n : Nat} (h : MemoryInv s) : MemoryInv (vSee s j va n) := (served_vSee (Served.refl true s) _ _ _).wf h
theorem inv_vClear {j va n : Nat} (h : MemoryInv s) : MemoryInv (vClear s j va n) := (served_vClear (Served.refl true s) _ _ _).wf h
theorem inv_setBeadWord {j va i x : Nat} (h : MemoryInv s) : MemoryInv (setBeadWord s j va i x) :=
  (served_setBeadWord (Served.refl true s) _ _ _ _).wf h
theorem inv_setBeadState {j va st : Nat} (h : MemoryInv s) : MemoryInv (setBeadState s j va st) :=
  (served_setBeadState (Served.refl true s) _ _ _).wf h
theorem inv_setBeadWop {j va op : Nat} (h : MemoryInv s) : MemoryInv (setBeadWop s j va op) :=
  (served_setBeadWop (Served.refl true s) _ _ _).wf h
theorem inv_addEnergy {b : Bead} (h : MemoryInv s) : MemoryInv (addEnergy s b) := (served_addEnergy (Served.refl true s) _).wf h
theorem inv_writeImage {j va : Nat} {pending : Nat → Bool} {a : Arch} (h : MemoryInv s) : MemoryInv (writeImage s j va pending a) :=
  (served_writeImage (Served.refl true s) _ _ _ _).wf h
theorem inv_writeCounters {j va : Nat} {x : Ctx} (h : MemoryInv s) : MemoryInv (writeCounters s j va x) :=
  (served_writeCounters (Served.refl true s) _ _ _).wf h
theorem inv_writeWithheld {j va : Nat} {l : List Entry} (h : MemoryInv s) : MemoryInv (writeWithheld s j va l) :=
  (served_writeWithheld (Served.refl true s) _ _ _).wf h
theorem inv_writeArray {j va n : Nat} {a : MxArray} (h : MemoryInv s) : MemoryInv (writeArray s j va n a) :=
  (served_writeArray (Served.refl true s) _ _ _ _).wf h
theorem inv_writeBack {b : Bead} {pc st : Nat} (h : MemoryInv s) : MemoryInv (writeBack s b pc st) :=
  (served_writeBack (Served.refl true s) _ _ _).wf h
theorem inv_pageWalk {c va : Nat} (h : MemoryInv s) : MemoryInv (pageWalk s c va) := (served_pageWalk (Served.refl true s) _ _).wf h
theorem inv_walkPins {c : Nat} {pins : List (Nat × Nat × Nat)} (h : MemoryInv s) : MemoryInv (walkPins s c pins) :=
  (served_walkPins (Served.refl true s) _ _).wf h
theorem inv_walkRead {c : Nat} {a : ReadWhat} (h : MemoryInv s) : MemoryInv (walkRead s c a) :=
  (served_walkRead (Served.refl true s) _ _).wf h
theorem inv_look {hid : Nat} {x : Name} (h : MemoryInv s) : MemoryInv (look s hid x) := (served_look (Served.refl true s) _ _).wf h
theorem inv_seeChannel {j ch : Nat} (h : MemoryInv s) : MemoryInv (seeChannel s j ch) := (served_seeChannel (Served.refl true s) _ _).wf h
theorem inv_fetchLine {c : Nat} (h : MemoryInv s) : MemoryInv (fetchLine s c) := (served_fetchLine (Served.refl true s) _).wf h
theorem inv_driftRecord {c : Nat} {b : Bead} {pc cc value kind cause : Nat} (h : MemoryInv s) :
    MemoryInv (driftRecord s c b pc cc value kind cause) := (served_driftRecord (Served.refl true s) _ _ _ _ _ _ _).wf h
theorem inv_storeByteL1 {k pa : Nat} {b : Byte} {e : W64} (h : MemoryInv s) : MemoryInv (storeByteL1 s k pa b e) :=
  (served_storeByteL1 (Served.refl true s) _ _ _ _).wf h
theorem inv_putMem {pa n x : Nat} (h : MemoryInv s) : MemoryInv (putMem s pa n x) := (served_putMem (Served.refl true s) _ _ _).wf h
theorem inv_logWalk {j va : Nat} (h : MemoryInv s) : MemoryInv (logWalk s j va) := (served_logWalk (Served.refl true s) _ _).wf h
theorem inv_readSegs {c life before : Nat} {hint : BitVec 2} {l : List Seg} {v : Nat} {m : List Nat} (h : MemoryInv s) :
    MemoryInv (readSegs c life before hint l (v, m, s)).2.2 :=
  (served_readSegs c life before hint l (v, m, s) (Served.refl true s)).wf h

/-! ### Beads, traps and the withhold buffer -/

theorem inv_writeMem {pa n x : Nat} (h : MemoryInv s) : MemoryInv (s.writeMem pa n x) := State.writeMem_wf pa n x h
theorem inv_fresh (h : MemoryInv s) : MemoryInv s.fresh.2 := h
theorem inv_sendMail {m : Mail} (h : MemoryInv s) : MemoryInv (sendMail s m) := h
theorem inv_logCorrected {line kind bits : Nat} (h : MemoryInv s) : MemoryInv (logCorrected s line kind bits) := inv_logFault h

theorem inv_cpAtomOld {q pa : Nat} {e : W64} {n : Nat} {f : Nat → Nat} (h : MemoryInv s) : MemoryInv (cpAtomOld s q pa e n f).2 :=
  inv_cpAtom h

theorem inv_modQueue {q : Nat} {f : Queue → Queue} (h : MemoryInv s) : MemoryInv (modQueue s q f) := h

theorem inv_enqueue {q j va : Nat} (h : MemoryInv s) : MemoryInv (enqueue s q j va) := by
  unfold enqueue
  dsimp only
  split
  · exact inv_modQueue (inv_setBeadWord h)
  · exact inv_modQueue (inv_setBeadWord (inv_setBeadWord h))

theorem inv_startRound (h : MemoryInv s) : MemoryInv (startRound s) := by
  unfold startRound
  dsimp only
  split <;> exact h

theorem inv_charge {q n : Nat} (h : MemoryInv s) : MemoryInv (charge s q n) := by
  unfold charge
  exact inv_modQueue (inv_startRound h)

theorem inv_thaw {tally : State → Nat → Nat → State} (h : MemoryInv s) (ht : ∀ u l n, MemoryInv u → MemoryInv (tally u l n))
    {record : Bool} {c : Nat} : MemoryInv (thaw tally record s c) := by
  unfold thaw
  dsimp only
  split
  · split
    · exact inv_driftRecord (ht _ _ _ (inv_modCtx h))
    · exact ht _ _ _ (inv_modCtx h)
  · exact h
theorem inv_trapFreeze {c : Nat} (h : MemoryInv s) : MemoryInv (trapFreeze s c) := inv_thaw h (fun _ _ _ hu => inv_count hu)
theorem inv_endFreeze {c : Nat} (h : MemoryInv s) : MemoryInv (endFreeze s c) := inv_thaw h (fun _ _ _ hu => inv_countFrom hu)

theorem inv_leaveFreeze {c : Nat} (h : MemoryInv s) : MemoryInv (leaveFreeze s c) := inv_thaw h (fun _ _ _ hu => inv_count hu)
theorem inv_modArray {c : Nat} {f : MxArray → MxArray} (h : MemoryInv s) : MemoryInv (modArray s c f) := h

theorem inv_fetchRegister {c code : Nat} (h : MemoryInv s) : MemoryInv (fetchRegister s c code) := by
  unfold fetchRegister
  dsimp only
  split
  · exact h
  · split
    · exact inv_modCtx (inv_vSee h)
    · exact h

theorem inv_fetchAll {c : Nat} (h : MemoryInv s) : MemoryInv (fetchAll s c) := by
  unfold fetchAll
  exact inv_foldl (fun _ _ h1 => inv_fetchRegister h1) h

theorem inv_saveBead {c : Nat} {b : Bead} (h : MemoryInv s) : MemoryInv (saveBead s c b) := by
  unfold saveBead
  dsimp only
  exact inv_modCtx (inv_charge (inv_addEnergy (inv_setBeadWord (inv_modArray (inv_modHub (inv_ite (inv_writeArray (inv_writeWithheld
    (inv_writeCounters (inv_writeImage (inv_writeImage (inv_fetchAll (inv_leaveFreeze h))))))) (inv_writeWithheld (inv_writeCounters
      (inv_writeImage (inv_writeImage (inv_fetchAll (inv_leaveFreeze h))))))))))))

theorem inv_invalidated {c : Nat} (h : MemoryInv s) : MemoryInv (invalidated s c) := inv_modArray h

theorem inv_checkpoint {c pc : Nat} (h : MemoryInv s) : MemoryInv (checkpoint s c pc) := by
  unfold checkpoint
  dsimp only
  exact inv_modCtx (inv_modCtx (inv_modArray (inv_invalidated h)))

theorem inv_pushCancel {t : CancelTarget} (h : MemoryInv s) : MemoryInv (pushCancel s t) := h
theorem inv_pushStart {t : Start} (h : MemoryInv s) : MemoryInv (pushStart s t) := h

theorem inv_startHandler {c : Nat} {b : Bead} {x : Cause} {launch : Nat} (h : MemoryInv s) : MemoryInv (startHandler s c b x launch) := by
  obtain ⟨u, hu, ⟨_, he⟩ | he⟩ := startHandler_cases s c b x launch
  · exact he ▸ (hu.writes (w := true)).wf h
  · exact he ▸ (hu.writes (w := true)).wf h

theorem inv_restoreShadow {c : Nat} (h : MemoryInv s) : MemoryInv (restoreShadow s c) := by
  unfold restoreShadow
  dsimp only
  exact inv_modCtx (inv_modArray h)

theorem inv_deliverTrap {c : Nat} {b : Bead} {x : Cause} (h : MemoryInv s) : MemoryInv (deliverTrap s c b x) := by
  unfold deliverTrap
  dsimp only
  exact inv_startHandler (inv_setBeadWop (inv_writeBack (inv_vWrite (inv_saveBead (inv_modCtx (inv_restoreShadow (inv_trapFreeze
    (inv_countLanded h))))))))

theorem inv_waitFrozen {c : Nat} (h : MemoryInv s) : MemoryInv (waitFrozen s c) := h

theorem inv_takeTrap {c : Nat} {x : Cause} (h : MemoryInv s) : MemoryInv (takeTrap s c x) := by
  unfold takeTrap
  split
  · exact h
  · split
    · exact inv_modCtx (inv_waitFrozen h)
    · exact inv_deliverTrap h

theorem inv_makeReady {j va : Nat} (h : MemoryInv s) : MemoryInv (makeReady s j va) := by
  unfold makeReady
  dsimp only
  exact inv_enqueue (inv_setBeadWop (inv_setBeadState h))

theorem inv_returnFromTrap {c j : Nat} {sup : Bool} {va pc : Nat} (h : MemoryInv s) : MemoryInv (returnFromTrap s c j sup va pc) := by
  unfold returnFromTrap
  dsimp only
  split
  · exact inv_makeReady (inv_vSee (inv_vSee h))
  · exact inv_logFault (inv_vSee (inv_vSee h))

theorem inv_finishBundle {c : Nat} {h' : Header} {ops : List Op} (h : MemoryInv s) : MemoryInv (finishBundle c h' ops s) := by
  unfold finishBundle
  dsimp only
  refine inv_modCtx ?_
  refine inv_foldl (fun _ _ h1 => ?_) (inv_countDeferred (inv_count (inv_count h)))
  split
  · exact inv_count h1
  · exact h1

theorem inv_freezeNow {c : Nat} {why : FreezeCause} (h : MemoryInv s) : MemoryInv (freezeNow s c why) := h

theorem inv_walkMissed {c : Nat} {x : Cause} (h : MemoryInv s) : MemoryInv (walkMissed s c x) := by
  unfold walkMissed
  split
  · exact inv_pageWalk h
  · exact h

theorem inv_logIssue {c : Nat} {x : Cause} (h : MemoryInv s) : MemoryInv (logIssue s c x) := by
  unfold logIssue
  split
  · exact inv_logFault h
  · exact h

theorem inv_bundleTrap {c : Nat} {x : Cause} (h : MemoryInv s) : MemoryInv (bundleTrap s c x) := by
  unfold bundleTrap
  dsimp only
  exact inv_takeTrap (inv_logIssue (inv_walkMissed (inv_trapFreeze h)))

theorem inv_withhold {c : Nat} {k : Slot} {a : Act} {pins : List (Nat × Nat × Nat)} (h : MemoryInv s) :
    MemoryInv (withhold s c k a pins) := by
  unfold withhold
  split
  · exact h
  · exact inv_modCtx (inv_walkPins h)

theorem inv_setRow {x : TileRef} {r o : Nat} {l : List Byte} (h : MemoryInv s) : MemoryInv (x.setRow s r o l) :=
  inv_unpad (inv_of_wf (Memory.wf_writeCells _ h))

theorem inv_seeLines {l : List Nat} (h : MemoryInv s) : MemoryInv (seeLines s l) := by
  unfold seeLines
  split
  · exact h
  · exact inv_foldl (fun _ _ h1 => inv_findErrors h1) h

theorem inv_startRead {c : Nat} {k : Slot} {d : Nat} {dests : List (Dest × BitVec 1024)} {what : ReadWhat} (h : MemoryInv s) :
    MemoryInv (startRead c k d dests what s) := by
  unfold startRead
  dsimp only
  split
  · exact inv_modCtx (inv_walkRead h)
  · exact inv_modCtx (inv_fresh (inv_walkRead h))

theorem inv_startWithheld {c : Nat} {k : Slot} {d : Nat} {l : List Dest} (h : MemoryInv s) : MemoryInv (startWithheld c k d l s).2 := by
  induction l generalizing s with
  | nil => exact h
  | cons x r ih => exact ih (s := s.fresh.2.modArch c _) h

theorem inv_deliver {u : Nat} {f : Landing → Landing} (h : MemoryInv s) : MemoryInv (deliver s u f) := h
theorem inv_deliverValue {u v : Nat} (h : MemoryInv s) : MemoryInv (deliverValue s u v) := inv_deliver h

end Sys2Proof.Canonical
end

section
/-! SUPPORT. The memory's canonical form under control registers, the home, the base dies and management (log 1). -/
namespace Sys2Proof.Canonical
open Sys2Proof Sys2Proof.Machine Sys2Proof.Claims Sys2Proof.Serving Sys2Proof.Reading Sys2Proof.Leaving

-- Many of this section's proofs are replayed at once otherwise, each on a stack of its own.
set_option Elab.async false

variable {s t : State}

theorem inv_landControl {c n : Nat} {l : Landing} (h : MemoryInv s) : MemoryInv (landControl s c n l) := by
  unfold landControl
  dsimp only
  split
  · exact h
  · split
    · exact h
    · split
      · exact h
      · split
        · exact h
        · split
          · exact h
          · split <;> split <;> exact h

theorem inv_landCregs {c : Nat} {p : Nat → Bool} (h : MemoryInv s) : MemoryInv (landCregs s c p) := by
  unfold landCregs
  dsimp only
  split
  · exact h
  · refine inv_foldl (fun _ _ h1 => ?_) (inv_modArch h)
    split
    · exact inv_landControl h1
    · exact h1

theorem inv_execControlRegisterWrite {c : Nat} (h : MemoryInv s) (ht : execControlRegisterWrite c s = .next t) : MemoryInv t := by
  refine next_inv ?_ ht
  split
  · exact h
  · exact inv_landCregs h

theorem inv_execXpdataWrite {c : Nat} (h : MemoryInv s) (ht : execXpdataWrite c s = .next t) : MemoryInv t :=
  next_inv (inv_landCregs h) ht

theorem inv_execRqRegisterWrite {c : Nat} (h : MemoryInv s) (ht : execRqRegisterWrite c s = .next t) : MemoryInv t :=
  next_inv (inv_landCregs h) ht

theorem inv_popHead {c : Nat} (h : MemoryInv s) : MemoryInv (popHead s c) := h
theorem inv_setHead {c : Nat} {e : Entry} (h : MemoryInv s) : MemoryInv (setHead s c e) := h

theorem inv_takeExclusive {k pa n : Nat} {e : W64} (h : MemoryInv s) : MemoryInv (takeExclusive s k pa n e) := by
  unfold takeExclusive
  dsimp only
  split
  · exact inv_setL1 (inv_obtainPinned (inv_ite (inv_fillLine (inv_dropOthers h)) (inv_dropOthers h)))
  · exact inv_obtainPinned (inv_ite (inv_fillLine (inv_dropOthers h)) (inv_dropOthers h))

theorem inv_storeL1 {k pa : Nat} {e : W64} {n x : Nat} (h : MemoryInv s) : MemoryInv (storeL1 s k pa e n x) := by
  induction n generalizing s pa x with
  | zero => exact h
  | succ n ih => exact ih (inv_storeByteL1 h)

theorem inv_atomStep {k pa n : Nat} {e : W64} {f : Nat → Nat} (h : MemoryInv s) : MemoryInv (atomStep s k pa n e f).2 := by
  unfold atomStep
  split
  · exact inv_putMem (inv_homeAccess h)
  · split
    · exact inv_writeMem (inv_obtainPinned (inv_dropOthers h))
    · dsimp only
      split
      · exact inv_storeL1 (inv_takeExclusive h)
      · exact inv_takeExclusive h

theorem inv_pushFor {c life : Nat} (h : MemoryInv s) : MemoryInv (pushFor s c life) := by
  unfold pushFor
  dsimp only
  exact inv_countLater (inv_pushAll h)

theorem inv_trapLife {life : Nat} {x : Cause} (h : MemoryInv s) : MemoryInv (trapLife s life x) := by
  unfold trapLife
  split <;> exact h

theorem inv_trapCompleted {c : Nat} {e : Entry} {x : Cause} (h : MemoryInv s) : MemoryInv (trapCompleted s c e x) := by
  unfold trapCompleted
  dsimp only
  split
  · exact h
  · exact inv_startHandler (inv_vWrite (inv_vSee h))

theorem inv_deferTrap {c : Nat} {e : Entry} {x : Cause} (h : MemoryInv s) : MemoryInv (deferTrap s c e x) := by
  unfold deferTrap
  split
  · exact inv_trapLife h
  · exact inv_trapCompleted h

theorem inv_lineTrap {c line : Nat} {e : Entry} {code : TrapCode} (h : MemoryInv s) : MemoryInv (lineTrap s c line e code) := by
  unfold lineTrap
  dsimp only
  exact inv_deferTrap (inv_logFault h)

theorem inv_tagTrap {c line : Nat} {e : Entry} (h : MemoryInv s) : MemoryInv (tagTrap s c line e) := inv_lineTrap h

theorem inv_failEntry {c line : Nat} {e : Entry} {uids : List Nat} {code : TrapCode} (h : MemoryInv s) :
    MemoryInv (failEntry s c line e uids code) := by
  unfold failEntry
  dsimp only
  split
  · exact inv_lineTrap h
  · exact inv_foldl (fun _ _ h1 => inv_deliver h1) (inv_logFault h)

theorem inv_seeWait {j va : Nat} (h : MemoryInv s) : MemoryInv (seeWait s j va) := by
  unfold seeWait
  dsimp only
  exact inv_vSee (inv_vSee h)

theorem inv_markWaiters (h : MemoryInv s) : MemoryInv (markWaiters s) := by
  unfold markWaiters
  dsimp only
  exact inv_modHub (inv_foldl (fun _ _ h1 => inv_seeWait h1) h)

theorem inv_transferTrap {t : Transfer} {line : Nat} {code : TrapCode} (h : MemoryInv s) : MemoryInv (transferTrap s t line code) := by
  unfold transferTrap
  dsimp only
  exact inv_trapLife (inv_logFault h)

theorem inv_finishTransfer {t : Transfer} (h : MemoryInv s) : MemoryInv (finishTransfer s t) := by
  unfold finishTransfer
  generalize hu : ({s with transfers := _} : State) = u
  have hu : MemoryInv u := hu ▸ h
  dsimp only
  split
  · split
    · exact inv_transferTrap hu
    · exact inv_markWaiters (inv_cpAtom hu)
  · exact hu

theorem inv_beginRequest {req : Request} {q line : Nat} (h : MemoryInv s) : MemoryInv (beginRequest s req q line) := by
  unfold beginRequest
  dsimp only
  split
  · exact inv_logTag h
  · split
    · split
      · exact inv_serveRdS (inv_sendAnswer h)
      · exact h
    · split
      · split
        · exact inv_serveRdS (inv_sendAnswer h)
        · exact inv_serveRdX (inv_sendAnswer h)
      · exact inv_modHomes (inv_sendNeeds h)

theorem inv_request {req : Request} {q line : Nat} (h : MemoryInv s) : MemoryInv (request s req q line) := by
  unfold request
  dsimp only
  split
  · exact h
  · split
    · exact inv_modHomes (inv_carry h)
    · exact inv_beginRequest (inv_carry h)

theorem inv_execRds {q line : Nat} (h : MemoryInv s) (ht : execRds q line s = .next t) : MemoryInv t := next_inv (inv_request h) ht
theorem inv_execRdx {q line : Nat} (h : MemoryInv s) (ht : execRdx q line s = .next t) : MemoryInv t := next_inv (inv_request h) ht
theorem inv_execUpg {q line : Nat} (h : MemoryInv s) (ht : execUpg q line s = .next t) : MemoryInv t := next_inv (inv_request h) ht
theorem inv_setTxn {line : Nat} {x : HomeTxn} (h : MemoryInv s) : MemoryInv (setTxn s line x) := h

theorem inv_writeLine {line : Nat} {data : BitVec 1024} (h : MemoryInv s) : MemoryInv (writeLine s line data) := by
  unfold writeLine
  exact inv_cleanLine (inv_writeMem h)

theorem inv_supply {o line : Nat} {dirty : Bool} {data : BitVec 1024} (h : MemoryInv s) : MemoryInv (supply s o line dirty data) := by
  unfold supply
  split
  · exact inv_writeLine h
  · exact h

theorem inv_execFwds {m : OwnerAnswer} (h : MemoryInv s) (ht : execFwds m s = .next t) : MemoryInv t := by
  refine next_inv ?_ ht
  dsimp only
  split
  · exact h
  · split
    · exact inv_downgrade (inv_setTxn (inv_supply (inv_sendOwner h)))
    · exact h

theorem inv_execFwdx {m : OwnerAnswer} (h : MemoryInv s) (ht : execFwdx m s = .next t) : MemoryInv t := by
  refine next_inv ?_ ht
  dsimp only
  split
  · exact h
  · split
    · exact h
    · exact inv_forwardX (inv_setTxn (inv_supply (inv_sendOwner h)))
    · exact h

theorem inv_execInv {a line : Nat} (h : MemoryInv s) (ht : execInv a line s = .next t) : MemoryInv t := by
  refine next_inv ?_ ht
  dsimp only
  split
  · split
    · exact inv_carry (inv_dropAt (inv_carry h))
    · exact h
  · split
    · exact inv_setTxn (inv_carry (inv_dropShared h))
    · exact h

theorem inv_takeUp {line n : Nat} (h : MemoryInv s) : MemoryInv (takeUp line n s) := by
  induction n generalizing s with
  | zero => exact h
  | succ n ih =>
    unfold takeUp
    split
    · exact h
    · split
      · exact h
      · exact ih (inv_beginRequest (inv_modHomes h))

theorem inv_nextRequest {line : Nat} (h : MemoryInv s) : MemoryInv (nextRequest s line) := inv_takeUp h

theorem inv_execTransactionComplete {line : Nat} (h : MemoryInv s) (ht : execTransactionComplete line s = .next t) : MemoryInv t := by
  refine next_inv (t := t) ?_ ht
  cases s.homes.busy.get? line with
  | none => exact h
  | some x => exact inv_ite (inv_nextRequest (inv_settle h)) h

theorem inv_markData {line : Nat} (h : MemoryInv s) : MemoryInv (markData s line) := h
theorem inv_markTag {line : Nat} (h : MemoryInv s) : MemoryInv (markTag s line) := h

theorem inv_keptError {line detail : Nat} (h : MemoryInv s) : MemoryInv (keptError s line detail) := by
  unfold keptError
  dsimp only
  split
  · exact inv_logNoContext (inv_findErrors h)
  · exact inv_findErrors h

theorem inv_foundError {line detail : Nat} {a : MemErr} (h : MemoryInv s) : MemoryInv (foundError s line detail a) := by
  unfold foundError
  split
  · exact h
  · exact inv_logCorrected h
  · exact inv_logNoContext (inv_markData h)
  · exact inv_logCorrected h
  · exact inv_logNoContext (inv_markTag h)

theorem inv_ownError {line detail : Nat} {a : MemErr} (h : MemoryInv s) : MemoryInv (ownError s line detail a) := by
  unfold ownError
  split
  · exact inv_foundError (inv_findErrors h)
  · exact inv_foundError (inv_findErrors h)
  · exact inv_foundError (inv_keptError h)

theorem inv_writeback {kind : CohKind} {a line : Nat} {data : Option (BitVec 1024)} (h : MemoryInv s) :
    MemoryInv (writeback s kind a line data) := by
  unfold writeback
  dsimp only
  split
  · exact inv_logNoContext (inv_dropL2 (inv_carry h))
  · split
    · refine inv_setTag (inv_touch ?_)
      split
      · split
        · exact inv_writeLine (inv_dropL2 (inv_carry h))
        · exact inv_dropL2 (inv_carry h)
      · exact inv_dropL2 (inv_carry h)
    · exact inv_dropL2 (inv_carry h)

theorem inv_execWb {a : Nat} {l : LineData} (h : MemoryInv s) (ht : execWb a l s = .next t) : MemoryInv t := by
  refine next_inv ?_ ht
  split
  · split
    · exact inv_writeback h
    · exact h
  · exact h

theorem inv_execCe {a line : Nat} (h : MemoryInv s) (ht : execCe a line s = .next t) : MemoryInv t := by
  refine next_inv ?_ ht
  split
  · split
    · exact inv_writeback h
    · exact h
  · exact h

theorem inv_execL2Eviction {a line : Nat} {err : MemErr} (h : MemoryInv s) (ht : execL2Eviction a line err s = .next t) :
    MemoryInv t := by
  refine next_inv ?_ ht
  dsimp only
  split
  · split
    · exact h
    · split
      · exact inv_dropL2 (inv_ownError h)
      · exact inv_setL2 (inv_ownError h)
  · exact h

theorem inv_loseTxns {a : Nat} {l : List (Nat × HomeTxn)} (h : MemoryInv s) : MemoryInv (loseTxns a l s) := by
  induction l generalizing s with
  | nil => exact h
  | cons p r ih =>
    refine ih ?_
    split
    · exact inv_nextRequest (inv_logTag (inv_modHomes h))
    · exact h

theorem inv_setPabort {j ch : Nat} (h : MemoryInv s) : MemoryInv (setPabort s j ch) := inv_vAtomStep h

theorem inv_abortFrom {j a : Nat} (h : MemoryInv s) : MemoryInv (abortFrom s j a) := by
  unfold abortFrom
  exact inv_foldl (fun _ _ h1 => inv_setPabort h1) (inv_foldl (fun _ _ h1 => inv_vSee h1) h)

theorem inv_dropRecv {uid : Nat} (h : MemoryInv s) : MemoryInv (dropRecv s uid) := h

theorem inv_endChannels {j a : Nat} (h : MemoryInv s) : MemoryInv (endChannels s j a) := by
  unfold endChannels
  exact inv_foldl (fun _ _ h1 => inv_finishTransfer (inv_dropRecv h1)) h

theorem inv_abortJob {j a : Nat} (h : MemoryInv s) : MemoryInv (abortJob s j a) := by
  unfold abortJob
  exact inv_endChannels (inv_abortFrom h)

theorem inv_execAgentLost {a : Nat} (h : MemoryInv s) (ht : execAgentLost a s = .next t) : MemoryInv t := by
  refine next_inv ?_ ht
  dsimp only
  split
  · exact h
  · exact inv_foldl (fun _ _ h1 => inv_abortJob h1) (inv_loseTxns (inv_logFault (inv_modHomes h)))

theorem inv_execFlitResend {port : Nat} (h : MemoryInv s) (ht : execFlitResend port s = .next t) : MemoryInv t := by
  refine next_inv ?_ ht
  split
  · exact inv_countFabric h
  · exact h

theorem inv_execPageWalk {c va : Nat} (h : MemoryInv s) (ht : execPageWalk c va s = .next t) : MemoryInv t := next_inv (inv_pageWalk h) ht
theorem inv_setDcctl {i : Nat} {d : Dcctl} (h : MemoryInv s) : MemoryInv (setDcctl s i d) := h

theorem inv_writeNearWays {i w : Nat} (h : MemoryInv s) : MemoryInv (writeNearWays s i w) := by
  unfold writeNearWays
  dsimp only
  split <;> exact inv_setDcctl h

theorem inv_clearDcctlErr {i : Nat} (h : MemoryInv s) : MemoryInv (clearDcctlErr s i) := inv_setDcctl h

theorem inv_execDcctlWrite {stack : Nat} {val : BitVec 64} (h : MemoryInv s) (ht : execDcctlWrite stack val s = .next t) :
    MemoryInv t := by
  refine next_inv ?_ ht
  split
  · exact h
  · exact inv_writeNearWays (inv_ite (inv_clearDcctlErr h) h)

theorem inv_flushWays {stack lo hi : Nat} (h : MemoryInv s) : MemoryInv (flushWays s stack lo hi) := h

theorem inv_execNearConversionDone {stack : Nat} (h : MemoryInv s) (ht : execNearConversionDone stack s = .next t) : MemoryInv t := by
  refine next_inv ?_ ht
  dsimp only
  split
  · exact h
  · exact inv_setDcctl (inv_ite (inv_flushWays h) (inv_of_wf (Memory.wf_clear _ _ h)))

theorem inv_setRefreshed {stack bank n : Nat} (h : MemoryInv s) : MemoryInv (setRefreshed s stack bank n) := h

theorem inv_execRefresh {stack bank : Nat} (h : MemoryInv s) (ht : execRefresh stack bank s = .next t) : MemoryInv t := by
  refine next_inv ?_ ht
  dsimp only
  split
  · exact h
  · split
    · exact inv_foldl (fun _ _ h1 => inv_setRefreshed h1) h
    · exact inv_setRefreshed h

theorem inv_captureRow {stack row : Nat} (h : MemoryInv s) : MemoryInv (captureRow s stack row) := by
  unfold captureRow
  dsimp only
  split
  · exact h
  · exact inv_foldl (fun _ _ h1 => inv_allocLayer h1) (inv_modTiers (inv_modTiers h))

theorem inv_execHotRowCapture {stack row : Nat} (h : MemoryInv s) (ht : execHotRowCapture stack row s = .next t) : MemoryInv t := by
  refine next_inv ?_ ht
  split
  · exact inv_captureRow h
  · exact h

theorem inv_endWindow {stack : Nat} (h : MemoryInv s) : MemoryInv (endWindow s stack) := by
  unfold endWindow
  split <;> exact h

theorem inv_execRefreshWindowEnd {stack : Nat} (h : MemoryInv s) (ht : execRefreshWindowEnd stack s = .next t) : MemoryInv t :=
  next_inv (inv_endWindow h) ht

theorem inv_endEpoch {a : Nat} (h : MemoryInv s) : MemoryInv (endEpoch s a) := by
  unfold endEpoch
  dsimp only
  split <;> exact h

theorem inv_execMigratorEpoch {a : Nat} (h : MemoryInv s) (ht : execMigratorEpoch a s = .next t) : MemoryInv t :=
  next_inv (inv_endEpoch h) ht

theorem inv_setMove {a : Nat} {m : Migration} (h : MemoryInv s) : MemoryInv (setMove s a m) := h

theorem inv_reportBad {line : Nat} (h : MemoryInv s) : MemoryInv (reportBad s line) := by
  unfold reportBad
  split
  · exact inv_logNoContext h
  · exact h

theorem inv_startLine {a : Nat} {m : Migration} {err : MemErr} (h : MemoryInv s) : MemoryInv (startLine s a m err) := by
  unfold startLine
  dsimp only
  split
  · exact h
  · exact inv_setMove (inv_foundError (inv_reportBad (inv_reportBad h)))

theorem inv_finishLine {a : Nat} {m : Migration} (h : MemoryInv s) : MemoryInv (finishLine s a m) := by
  unfold finishLine
  exact inv_nextRequest (inv_nextRequest (inv_endMove h))

theorem inv_execPageMigrate {a : Nat} {err : MemErr} (h : MemoryInv s) (ht : execPageMigrate a err s = .next t) : MemoryInv t := by
  refine next_inv ?_ ht
  split
  · split
    · exact inv_finishLine h
    · exact inv_startLine h
  · split
    · exact inv_setMove h
    · exact h

theorem inv_execScrub {line : Nat} {err : MemErr} (h : MemoryInv s) (ht : execScrub line err s = .next t) : MemoryInv t := by
  refine next_inv ?_ ht
  split
  · exact inv_ownError h
  · exact h

theorem inv_modHeap {a : Nat} {f : Heap → Heap} (h : MemoryInv s) : MemoryInv (modHeap s a f) := h

theorem inv_writeHeapWord {a i : Nat} {v : W64} (h : MemoryInv s) : MemoryInv (writeHeapWord s a i v) := by
  unfold writeHeapWord
  split
  · exact inv_modHeap h
  · exact inv_modHeap h
  · exact inv_modHeap h
  · exact inv_modHall (inv_modHeap h)

theorem inv_initHeap {a : Nat} (h : MemoryInv s) : MemoryInv (initHeap s a) := by
  unfold initHeap
  dsimp only
  exact inv_modHeap (inv_modHomes (inv_of_wf (Memory.wf_write _ _ (Memory.wf_clear _ _ (inv_touchLines h)))))

theorem inv_execHeapInit {a : Nat} (h : MemoryInv s) (ht : execHeapInit a s = .next t) : MemoryInv t := by
  refine next_inv ?_ ht
  split
  · exact inv_initHeap (inv_modHall h)
  · exact h

theorem inv_execMctlHalt {on : Bool} (h : MemoryInv s) (ht : execMctlHalt on s = .next t) : MemoryInv t := by
  refine next_inv ?_ ht
  exact h

theorem inv_setMigen {on : Bool} (h : MemoryInv s) : MemoryInv (setMigen s on) := by
  unfold setMigen
  dsimp only
  split <;> exact h

theorem inv_execMctlMigen {on : Bool} (h : MemoryInv s) (ht : execMctlMigen on s = .next t) : MemoryInv t := next_inv (inv_setMigen h) ht
theorem inv_writeAllow {n : Nat} (h : MemoryInv s) : MemoryInv (writeAllow s n) := h

theorem inv_execPwrAllowWrite {watts : Nat} (h : MemoryInv s) (ht : execPwrAllowWrite watts s = .next t) : MemoryInv t :=
  next_inv (inv_writeAllow h) ht

theorem inv_execPowerGrantSend {port watts : Nat} (h : MemoryInv s) (ht : execPowerGrantSend port watts s = .next t) : MemoryInv t := by
  refine next_inv ?_ ht
  dsimp only
  split
  · exact h
  · refine inv_countFabric ?_
    exact h

theorem inv_execPowerGrantReceive {port watts : Nat} (h : MemoryInv s) (ht : execPowerGrantReceive port watts s = .next t) :
    MemoryInv t := by
  refine next_inv ?_ ht
  split
  · exact h
  · exact inv_countFabric (inv_modMgmt h)

theorem inv_takePoint {p : Nat} (h : MemoryInv s) : MemoryInv (takePoint s p) := h

theorem inv_commonPoint (h : MemoryInv s) : MemoryInv (commonPoint s) := by
  unfold commonPoint
  split
  · split
    · exact inv_takePoint h
    · exact h
  · exact h

theorem inv_execOperatingPointChange {need : Nat} (h : MemoryInv s) (ht : execOperatingPointChange need s = .next t) : MemoryInv t := by
  refine next_inv ?_ ht
  split
  · exact inv_commonPoint h
  · split
    · exact h
    · exact inv_takePoint h

theorem inv_resumeStopped {va : Nat} (h : MemoryInv s) : MemoryInv (resumeStopped s va) := by
  unfold resumeStopped
  split
  · exact inv_makeReady h
  · exact inv_logFault h

theorem inv_execDbgresWrite {addr : Nat} (h : MemoryInv s) (ht : execDbgresWrite addr s = .next t) : MemoryInv t :=
  next_inv (inv_resumeStopped h) ht

theorem inv_execFunctionLevelReset {vf : Nat} (h : MemoryInv s) (ht : execFunctionLevelReset vf s = .next t) : MemoryInv t := by
  refine next_inv ?_ ht
  exact inv_foldl (fun _ _ h1 => inv_pushCancel h1) h

theorem inv_resetModule (h : MemoryInv s) : MemoryInv (resetModule s) := h
theorem inv_execModuleReset (h : MemoryInv s) (ht : execModuleReset s = .next t) : MemoryInv t := next_inv (inv_resetModule h) ht

theorem inv_zeroRange {base n : Nat} (h : MemoryInv s) : MemoryInv (zeroRange s base n) := by
  unfold zeroRange
  dsimp only
  exact inv_unpad (inv_of_wf (Memory.wf_clear _ _ h))

theorem inv_zeroWindows {a : Nat} (h : MemoryInv s) : MemoryInv (zeroWindows s a) := inv_zeroRange h

theorem inv_zeroMemory {d : Nat} (h : MemoryInv s) : MemoryInv (zeroMemory s d) := by
  unfold zeroMemory
  dsimp only
  exact inv_zeroRange (inv_zeroRange (inv_zeroRange h))

theorem inv_zeroScratch (h : MemoryInv s) : MemoryInv (zeroScratch s) := by
  unfold zeroScratch
  exact inv_foldl (fun _ _ h1 => inv_zeroWindows h1) h

theorem inv_loadImages {n : Nat} {l : List BootImage} (h : MemoryInv s) : MemoryInv (loadImages n l s).1 := by
  induction l generalizing s with
  | nil => exact h
  | cons i r ih =>
    unfold loadImages
    split
    · exact ih h
    · exact h

theorem inv_bringUp {f : BootImages} {pos : Nat} {answer : BitVec 128} {n : Nat} (h : MemoryInv s) :
    MemoryInv (bringUp s f pos answer n).1 := by
  unfold bringUp
  split
  · exact inv_loadImages h
  · exact inv_foldl (fun _ _ h1 => inv_zeroMemory h1) h
  · exact inv_zeroScratch h
  · exact inv_loadImages h
  · exact inv_zeroScratch h
  · exact h

theorem inv_execBringUpStep {f : BootImages} {m : Domain} (h : MemoryInv s) (ht : execBringUpStep f m s = .next t) : MemoryInv t := by
  refine next_inv ?_ ht
  split
  · exact h
  · have hu : MemoryInv (bringUp s f m.pos m.answer (s.mgmt.step + 1)).1 := inv_bringUp h
    dsimp only
    split <;> rename_i hb <;> rw [hb] at hu <;> exact hu

theorem inv_execThermalLimit {degrees : Nat} (h : MemoryInv s) (ht : execThermalLimit degrees s = .next t) : MemoryInv t := by
  refine next_inv ?_ ht
  split
  · exact inv_resetModule h
  · split <;> exact h

theorem inv_writeMctl {v : W64} (h : MemoryInv s) : MemoryInv (writeMctl s v) := by
  unfold writeMctl
  split
  · exact inv_resetModule h
  · exact inv_modMgmt (inv_setMigen h)

theorem inv_writePwr {v : W64} {allow : Bool} (h : MemoryInv s) : MemoryInv (writePwr s v allow) := by
  unfold writePwr
  dsimp only
  split
  · exact inv_writeAllow (inv_modMgmt h)
  · exact h

theorem inv_writeDcctl {i : Nat} {v : W64} {b0 b3 : Bool} (h : MemoryInv s) : MemoryInv (writeDcctl s i v b0 b3) := by
  have h1 : MemoryInv (if b3 && v.getLsbD 30 then clearDcctlErr s i else s) := inv_ite (inv_clearDcctlErr h) h
  exact inv_ite (inv_writeNearWays h1) (inv_ite (inv_setDcctl h1) h1)

theorem inv_writeJobTable {j i : Nat} {v : W64} (h : MemoryInv s) : MemoryInv (writeJobTable s j i v) := h

theorem inv_mgmtWriteWord {w : Nat} {v m : W64} (h : MemoryInv s) : MemoryInv (mgmtWriteWord s w v m) := by
  unfold mgmtWriteWord
  exact inv_ite (inv_writeMctl h) <| inv_ite (inv_writePwr h) <| inv_ite (inv_modMgmt h) <| inv_ite (inv_resumeStopped h) <|
    inv_ite (inv_writeHeapWord h) <| inv_ite (inv_writeDcctl h) <| inv_ite (inv_modMgmt h) <| inv_ite (inv_writeJobTable h) <|
    inv_ite (inv_modMgmt h) h

theorem inv_mgmtWrite {l : List (Nat × Byte)} (h : MemoryInv s) : MemoryInv (mgmtWrite s l) := by
  unfold mgmtWrite
  exact inv_foldl (fun _ _ h1 => inv_mgmtWriteWord h1) h

theorem inv_hostWrite {a : Nat} {l : List Byte} (h : MemoryInv s) : MemoryInv (hostWrite s a l) := by
  unfold hostWrite
  exact inv_of_wf (Memory.wf_write _ _ h)

theorem inv_execResync (h : MemoryInv s) (ht : execResync s = .next t) : MemoryInv t := by
  refine next_inv ?_ ht
  dsimp only
  split
  · exact h
  · exact inv_update (inv_hostWrite (inv_modHub h)) rfl

theorem inv_execAttestation (h : MemoryInv s) (ht : execAttestation s = .next t) : MemoryInv t := by
  refine next_inv ?_ ht
  dsimp only
  split
  · exact h
  · exact inv_update (inv_hostWrite (inv_modHub h)) rfl

end Sys2Proof.Canonical
end

section
/-! SUPPORT. The memory's canonical form under transfers that start, hallmarks and the predictors (log 1). -/
namespace Sys2Proof.Canonical
open Sys2Proof Sys2Proof.Machine Sys2Proof.Claims Sys2Proof.Serving Sys2Proof.Reading Sys2Proof.Leaving

-- Many of this section's proofs are replayed at once otherwise, each on a stack of its own.
set_option Elab.async false

variable {s t : State}

theorem inv_queueTransfer {t : Transfer} (h : MemoryInv s) : MemoryInv (queueTransfer s t) := by
  unfold queueTransfer
  exact inv_update (inv_fresh h) rfl

theorem inv_walkTransfer {t : Transfer} (h : MemoryInv s) : MemoryInv (walkTransfer s t) := by
  unfold walkTransfer
  split
  · exact inv_walkPins h
  · exact inv_foldl (fun _ _ h1 => inv_foldl (fun _ _ h2 => inv_hubWalk h2) h1) h

theorem inv_startTransfer {t : Transfer} (h : MemoryInv s) : MemoryInv (startTransfer s t) := by
  unfold startTransfer
  exact inv_queueTransfer (inv_walkTransfer h)

theorem inv_loadTile {c : Nat} {k : Slot} {n : BitVec 5} {spec : Bool} {fail : Option (TrapCode × Nat)} {t : Transfer} (h :
    MemoryInv s) : MemoryInv (loadTile c k n spec fail t s) := by
  unfold loadTile
  dsimp only
  split
  · split
    · exact inv_modArch (inv_ite h (inv_pageWalk h))
    · exact h
  · exact inv_startTransfer h

theorem inv_setCount {f : Found} {n : Nat} (h : MemoryInv s) : MemoryInv (setCount s f n) := by
  unfold setCount
  exact inv_setTag (inv_touch h)

theorem inv_retain {f : Found} (h : MemoryInv s) : MemoryInv (retain s f) := inv_setCount h

theorem inv_dirWrite {pa n x : Nat} (h : MemoryInv s) : MemoryInv (dirWrite s pa n x) := by
  unfold dirWrite
  exact inv_writeMem (inv_touchLines h)

theorem inv_setMapBit {pa i : Nat} {b : Bool} (h : MemoryInv s) : MemoryInv (setMapBit s pa i b) := by
  unfold setMapBit
  have hw := Memory.wf_writeBits (pa * 8 + i) 1 b.toNat (inv_touch (line := (pa * 8 + i) / 1024) h)
  exact hw

theorem inv_placeEntry {a : Nat} {chain : List Nat} {w : Nat × Nat} (h : MemoryInv s) (hp : placeEntry s a chain = some (w, t)) :
    MemoryInv t := by
  unfold placeEntry at hp
  split at hp
  · cases hp
    exact h
  · split at hp
    · cases hp
    · split at hp
      · cases hp
      · cases hp
        exact inv_dirWrite (inv_setMapBit h)

theorem inv_allocate {hid kind : Nat} {d : BitVec 120} {line : List Byte} {x : Name} (h : MemoryInv s)
    (ha : allocate s hid kind d line = .inr (x, t)) : MemoryInv t := by
  unfold allocate at ha
  -- The kernel would evaluate the searches at the literals that they hold: they become variables.
  obtain ⟨taken, htaken⟩ : ∃ f, f = takenFault := ⟨_, rfl⟩
  obtain ⟨lowest, hlowest⟩ : ∃ f, f = lowestSet := ⟨_, rfl⟩
  rw [← htaken, ← hlowest] at ha
  split at ha
  · cases ha
  · dsimp only at ha
    split at ha
    · cases ha
    · split at ha
      · cases ha
      · split at ha
        · cases ha
        · cases ha
          exact inv_dirWrite (inv_dirWrite (inv_cleanLine (inv_setTag (inv_dirWrite (inv_setMapBit (inv_placeEntry h ‹_›))))))

theorem inv_unlinkEmpty {a : Nat} {l : List Nat} (h : MemoryInv s) : MemoryInv (unlinkEmpty s a l) := by
  induction l with
  | nil => exact h
  | cons p r ih =>
    cases r with
    | nil => exact h
    | cons b r =>
      unfold unlinkEmpty
      split
      · exact inv_setMapBit (inv_dirWrite (inv_dirWrite h))
      · exact ih

theorem inv_removeName {x : Name} {f : Found} (h : MemoryInv s) : MemoryInv (removeName s x f) := by
  unfold removeName
  dsimp only
  exact inv_unlinkEmpty (inv_setMapBit (inv_dirWrite (inv_dirWrite (inv_setCount h))))

theorem inv_eventRecord {j : Nat} {x : Name} {pc code place agent : Nat} (h : MemoryInv s) :
    MemoryInv (eventRecord s j x pc code place agent) := inv_sendMail h

theorem inv_entryEvent {c : Nat} {e : Entry} {x : Name} {code : Nat} (h : MemoryInv s) : MemoryInv (entryEvent s c e x code) :=
  inv_eventRecord h

theorem inv_keepForTransfers {line : Nat} (h : MemoryInv s) : MemoryInv (keepForTransfers s line) := h

theorem inv_dropCopies {line : Nat} (h : MemoryInv s) : MemoryInv (dropCopies s line) := by
  unfold dropCopies
  exact inv_foldl (fun _ _ h1 => inv_dropAt h1) h

theorem inv_freeName {j group : Nat} {x : Name} {f : Found} (h : MemoryInv s) : MemoryInv (freeName s j group x f) := by
  unfold freeName
  dsimp only
  exact inv_modHall (inv_removeName (inv_dropCopies (inv_keepForTransfers h)))

theorem inv_dropName {absent : State → State} {hid j group : Nat} {x : Name} (h : MemoryInv s)
    (ha : ∀ u, MemoryInv u → MemoryInv (absent u)) : MemoryInv (dropName s hid j group x absent) := by
  have hl : MemoryInv (look s hid x) := inv_look h
  unfold dropName
  split
  · exact h
  · dsimp only
    split
    · exact ha _ hl
    · split
      · exact hl
      · split
        · exact inv_setCount hl
        · exact inv_freeName hl

theorem inv_sendInvs {hid j group : Nat} {l : List Name} (h : MemoryInv s) : MemoryInv (sendInvs s hid j group l) := by
  unfold sendInvs
  refine inv_modHall ?_
  refine inv_foldl (fun _ _ h1 => ?_) h
  split
  · exact inv_sendInv h1
  · exact h1

theorem inv_logBad {e : Nat × TrapCode} (h : MemoryInv s) : MemoryInv (logBad s e) := inv_logNoContext h

theorem inv_execReleaseWalkerDrop {job : Nat} (h : MemoryInv s) (ht : execReleaseWalkerDrop job s = .next t) : MemoryInv t := by
  refine next_inv ?_ ht
  dsimp only
  split
  · exact h
  · split
    · exact h
    · split
      · exact inv_logBad (inv_modHall h)
      · split
        · exact inv_sendInvs (inv_modHall h)
        · exact inv_dropName (inv_modHall h) fun _ h1 => inv_eventRecord h1

theorem inv_execWalkerCounterAdd {job : Nat} (h : MemoryInv s) (ht : execWalkerCounterAdd job s = .next t) : MemoryInv t := by
  refine next_inv ?_ ht
  dsimp only
  split
  · exact h
  · split
    · exact h
    · split
      · exact inv_vAtomStep (inv_modHall h)
      · exact inv_logFault (inv_modHall h)

theorem inv_markGroup {g j : Nat} {entryDone : Bool} (h : MemoryInv s) : MemoryInv (markGroup s g j entryDone) := h
theorem inv_setNameRow {t : TileRef} {r : Nat} {x : Name} (h : MemoryInv s) : MemoryInv (setNameRow s t r x) := inv_setRow h

theorem inv_hmTrap {c : Nat} {e : Entry} {code : TrapCode} {row : Nat} (h : MemoryInv s) : MemoryInv (hmTrap s c e code row) :=
  inv_deferTrap h

theorem inv_compare {hid : Nat} {x : Name} (h : MemoryInv s) : MemoryInv (Machine.compare s hid x) := by
  unfold Machine.compare
  split
  · exact inv_touch (inv_look h)
  · exact inv_look h

theorem inv_storeLine {fresh : State → State} {hid kind : Nat} (h : MemoryInv s) (hf : ∀ u, MemoryInv u → MemoryInv (fresh u))
    {salt line : List Byte} {x : Name} {f : Option Nat} (hs : storeLine s hid kind salt line fresh = .inr (x, f, t)) : MemoryInv t := by
  have hc (l : List Name) : MemoryInv (l.foldl (fun s x => Machine.compare s hid x) s) := inv_foldl (fun _ _ h1 => inv_compare h1) h
  unfold storeLine at hs
  split at hs
  · cases hs
    exact h
  · dsimp only at hs
    split at hs
    · cases hs
      exact inv_retain (hc _)
    · split at hs
      · cases hs
        exact hc _
      · cases hs
      · cases hs
        exact hf _ (inv_allocate (hc _) ‹_›)

theorem inv_putRows {c : Nat} {e : Entry} {names lines : TileRef} {row n i : Nat} {fail : Option (Nat × Nat)} (h : MemoryInv s)
    (hp : putRows c e names lines row n i fail s = .inr t) : MemoryInv t := by
  induction n generalizing s i fail with
  | zero =>
    unfold putRows at hp
    split at hp <;> cases hp
    · exact inv_hmTrap h
    · exact h
  | succ n ih =>
    unfold putRows at hp
    dsimp only at hp
    split at hp
    · cases hp
    · exact ih (inv_setNameRow (inv_storeLine h (fun _ h1 => h1) ‹_›)) hp

theorem inv_retainChildren {c : Nat} {e : Entry} {l : List Name} (h : MemoryInv s) : MemoryInv (retainChildren c e l s) := by
  induction l generalizing s with
  | nil => exact h
  | cons x r ih =>
    refine ih ?_
    split
    · exact inv_retain (inv_look h)
    · exact inv_entryEvent (inv_look h)

theorem inv_putNode {c : Nat} {e : Entry} {names line : TileRef} {row : Nat} (h : MemoryInv s)
    (hp : putNode s c e names line row = .inr t) : MemoryInv t := by
  unfold putNode at hp
  dsimp only at hp
  split at hp
  · cases hp
    exact inv_setNameRow h
  · split at hp
    · cases hp
    · have hs := inv_storeLine h (fun _ h1 => inv_retainChildren h1) ‹_›
      split at hp <;> cases hp
      · exact inv_hmTrap (inv_setNameRow hs)
      · exact inv_setNameRow hs

theorem inv_holdRows {c : Nat} {e : Entry} {names : TileRef} {n r : Nat} (h : MemoryInv s) : MemoryInv (holdRows c e names n r s) := by
  induction n generalizing s r with
  | zero => exact h
  | succ n ih =>
    refine ih ?_
    split
    · exact h
    · split
      · exact inv_retain (inv_look h)
      · exact inv_entryEvent (inv_look h)

theorem inv_dropNames {c : Nat} {e : Entry} {l : List Name} (h : MemoryInv s) : MemoryInv (dropNames c e l s) := by
  induction l generalizing s with
  | nil => exact h
  | cons x r ih => exact ih (inv_dropName h fun _ h1 => inv_entryEvent h1)

theorem inv_performDrop {c : Nat} {e : Entry} {l : List Name} (h : MemoryInv s) : MemoryInv (performDrop s c e l) := by
  unfold performDrop
  exact inv_markGroup (inv_dropNames (inv_popHead h))

theorem inv_endCopy {t : Transfer} {group : Nat} (h : MemoryInv s) : MemoryInv (endCopy s t group) := by
  unfold endCopy
  exact inv_markGroup (inv_finishTransfer h)

theorem inv_execHeapLineFree (h : MemoryInv s) (ht : execHeapLineFree s = .next t) : MemoryInv t := by
  refine next_inv ?_ ht
  dsimp only
  split
  · exact h
  · split
    · split
      · exact inv_takeInv (inv_modHall h)
      · exact h
    · split
      · refine inv_performDrop ?_
        split
        · exact inv_takeInv (inv_modHall h)
        · exact h
      · split
        · refine inv_endCopy ?_
          refine inv_dropName ?_ fun _ h1 => h1
          split
          · exact inv_takeInv (inv_modHall h)
          · exact h
        · refine inv_dropName ?_ fun _ h1 => h1
          split
          · exact inv_takeInv (inv_modHall h)
          · exact h

theorem inv_swapCell {c : Nat} {e : Entry} {values : TileRef} {pa : Nat} {pte : W64} {uid : Option Nat} (h : MemoryInv s) :
    MemoryInv (swapCell s c e values pa pte uid) := by
  unfold swapCell
  dsimp only
  split
  · exact inv_deliverValue (inv_setNameRow (inv_atomStep (inv_markWaiters (inv_pushFor h))))
  · exact inv_setNameRow (inv_atomStep (inv_markWaiters (inv_pushFor h)))

theorem inv_elim {α : Type} {x : Sum α State} {bad : α → State} (hb : ∀ a, MemoryInv (bad a)) (hx : ∀ u, x = .inr u → MemoryInv u) :
    MemoryInv (x.elim bad id) := by
  cases x with
  | inl a => exact hb a
  | inr u => exact hx u rfl
theorem inv_execHm {c : Nat} (h : MemoryInv s) (ht : execHm c s = .next t) : MemoryInv t := by
  have hr (l : List Nat) : MemoryInv (l.foldl findErrors s) := inv_foldl (fun _ _ h1 => inv_findErrors h1) h
  have hb (e : Entry) (x : Nat × TrapCode) : MemoryInv (lineTrap (popHead s c) c x.1 e x.2) := inv_lineTrap (inv_popHead h)
  refine next_inv ?_ ht
  split
  · exact h
  · split
    · exact h
    · dsimp only
      split
      · split
        · exact hb _ _
        · exact inv_elim (hb _) fun _ hp => inv_putRows (inv_popHead (hr _)) hp
      · split
        · exact hb _ _
        · exact inv_elim (hb _) fun _ hp => inv_putNode (inv_popHead (hr _)) hp
      · split
        · exact hb _ _
        · exact inv_holdRows (inv_popHead (hr _))
      · split
        · exact hb _ _
        · split
          · exact inv_performDrop (hr _)
          · exact inv_sendInvs (inv_markGroup (hr _))
      · split
        · exact inv_failEntry (inv_popHead h)
        · exact inv_swapCell (inv_popHead (hr _))
      · exact h

theorem inv_copyLook {hid l : Nat} {x : Name} (h : MemoryInv s) : MemoryInv (copyLook hid l x s) := by
  induction l generalizing s x with
  | zero =>
    unfold copyLook
    split
    · exact inv_look h
    · exact h
  | succ l ih =>
    unfold copyLook
    split
    · exact h
    · split
      · exact inv_foldl (fun _ _ h1 => ih h1) (inv_touch (inv_look h))
      · exact inv_look h

theorem inv_leaveYield {c budget : Nat} (h : MemoryInv s) : MemoryInv (leaveYield c budget s) := by
  unfold leaveYield
  dsimp only
  split
  · exact h
  · exact inv_enqueue (inv_setBeadWord (inv_writeBack (inv_saveBead h)))

theorem inv_leaveWait {c va op v : Nat} (h : MemoryInv s) : MemoryInv (leaveWait c va op v s) := by
  unfold leaveWait
  dsimp only
  split
  · exact h
  · exact inv_markWaiters (inv_modHub (inv_vSee (inv_setBeadWord (inv_setBeadWord (inv_writeBack (inv_saveBead h))))))

theorem inv_leaveDone {c : Nat} (h : MemoryInv s) : MemoryInv (leaveDone c s) := by
  unfold leaveDone
  dsimp only
  split
  · exact h
  · exact inv_modCtx (inv_modHub (inv_charge (inv_addEnergy (inv_writeBack h))))

theorem inv_setPredictor {c t : Nat} {x : Predictor} (h : MemoryInv s) : MemoryInv (setPredictor s c t x) := h

theorem inv_execPredictorUpdateRelease {c : Nat} (h : MemoryInv s) (ht : execPredictorUpdateRelease c s = .next t) : MemoryInv t := by
  refine next_inv ?_ ht
  dsimp only
  split
  · split
    · split
      · exact inv_setPredictor (inv_popHead h)
      · exact inv_popHead h
    · exact h
  · exact h

theorem inv_execPredictorBindRelease {c : Nat} (h : MemoryInv s) (ht : execPredictorBindRelease c s = .next t) : MemoryInv t := by
  refine next_inv ?_ ht
  split
  · split
    · exact inv_setPredictor (inv_popHead h)
    · exact h
  · exact h

end Sys2Proof.Canonical
end

section
/-! SUPPORT. The memory's canonical form under the arbiters, the hub and the graph walkers (log 1). -/
namespace Sys2Proof.Canonical
open Sys2Proof Sys2Proof.Machine Sys2Proof.Claims Sys2Proof.Serving Sys2Proof.Reading Sys2Proof.Leaving

-- Many of this section's proofs are replayed at once otherwise, each on a stack of its own.
set_option Elab.async false

variable {s t : State}

theorem inv_vAtom {j va n : Nat} {f : Nat → Nat} (h : MemoryInv s) : MemoryInv (vAtom s j va n f) := by
  unfold vAtom
  exact inv_markWaiters (inv_vAtomStep h)

theorem inv_vAtomOld {j va n : Nat} {f : Nat → Nat} (h : MemoryInv s) : MemoryInv (vAtomOld s j va n f).2 := by
  have hw : MemoryInv (hubWalk s j va) := inv_hubWalk h
  unfold vAtomOld
  dsimp only
  split
  · split
    · exact inv_logNoContext hw
    · split
      · exact hw
      · exact inv_markWaiters (inv_cpAtomOld hw)
  · exact inv_logWalk hw

theorem inv_endLife {life : Nat} (h : MemoryInv s) : MemoryInv (endLife s life) := h

theorem inv_unqueue {q va : Nat} (h : MemoryInv s) : MemoryInv (unqueue s q va) := by
  unfold unqueue
  dsimp only
  split
  · exact inv_foldl (fun _ _ h1 => inv_vSee h1) h
  · split
    · refine inv_modQueue ?_
      split
      · exact inv_setBeadWord (inv_foldl (fun _ _ h1 => inv_vSee h1) h)
      · exact inv_modQueue (inv_foldl (fun _ _ h1 => inv_vSee h1) h)
    · split
      · exact inv_setBeadWord (inv_foldl (fun _ _ h1 => inv_vSee h1) h)
      · exact inv_modQueue (inv_foldl (fun _ _ h1 => inv_vSee h1) h)

theorem inv_seeHead {q : Nat} (h : MemoryInv s) : MemoryInv (seeHead s q) := inv_vSee h

theorem inv_dropBadHead {q : Nat} (h : MemoryInv s) : MemoryInv (dropBadHead s q) := by
  unfold dropBadHead
  dsimp only
  split
  · exact h
  · exact inv_logFault (inv_modQueue h)

theorem inv_execArbiterChoice {c : Nat} (h : MemoryInv s) (ht : execArbiterChoice c s = .next t) : MemoryInv t := by
  refine next_inv ?_ ht
  dsimp only
  split
  · exact h
  · split
    · exact inv_foldl (fun _ _ h1 => inv_dropBadHead (inv_seeHead h1)) (inv_startRound h)
    · split
      · exact inv_foldl (fun _ _ h1 => inv_dropBadHead (inv_seeHead h1)) (inv_startRound h)
      · exact inv_modHub (inv_foldl (fun _ _ h1 => inv_dropBadHead (inv_seeHead h1)) (inv_startRound h))

theorem inv_seeArgs {b : Bead} (h : MemoryInv s) : MemoryInv (seeArgs s b) := by
  unfold seeArgs
  split
  · split
    · exact h
    · exact h
    · split
      · exact h
      · exact inv_vSee h
  · exact h

theorem inv_startFirst {c : Nat} {b : Bead} {pc : Nat} (h : MemoryInv s) : MemoryInv (startFirst s c b pc) := by
  unfold startFirst
  dsimp only
  exact inv_setBeadWord (inv_modArray (inv_modCtx (inv_fresh (inv_seeArgs h))))

theorem inv_seeImages {b : Bead} (h : MemoryInv s) : MemoryInv (seeImages s b) := by
  unfold seeImages
  exact inv_foldl (fun _ _ h1 => inv_vSee h1) h

theorem inv_startAgain {c : Nat} {b : Bead} {pc : Nat} {v : Saved} (h : MemoryInv s) : MemoryInv (startAgain s c b pc v) := by
  unfold startAgain
  dsimp only
  refine inv_setBeadWord (inv_modHub ?_)
  split
  · exact inv_modArray (inv_modCtx (inv_seeImages h))
  · exact inv_modCtx (inv_seeImages h)

theorem inv_startSaved {c : Nat} {b : Bead} {pc : Nat} (h : MemoryInv s) : MemoryInv (startSaved s c b pc) := by
  unfold startSaved
  exact inv_startAgain (inv_fresh h)

theorem inv_enterJob {c j : Nat} (h : MemoryInv s) : MemoryInv (enterJob s c j) := by
  unfold enterJob
  split
  · exact h
  · exact inv_modArray h

theorem inv_dispatch {c q : Nat} (h : MemoryInv s) : MemoryInv (dispatch s c q) := by
  unfold dispatch
  dsimp only
  split
  · exact inv_startFirst (inv_modCore (inv_enterJob (inv_setBeadState (inv_modQueue (inv_seeHead h)))))
  · exact inv_startAgain (inv_modCore (inv_enterJob (inv_setBeadState (inv_modQueue (inv_seeHead h)))))
  · exact inv_startSaved (inv_modCore (inv_enterJob (inv_setBeadState (inv_modQueue (inv_seeHead h)))))

theorem inv_execBeadDispatch {c : Nat} (h : MemoryInv s) (ht : execBeadDispatch c s = .next t) : MemoryInv t := by
  refine next_inv ?_ ht
  dsimp only
  split
  · exact h
  · split
    · exact h
    · split
      · exact h
      · exact inv_dispatch (inv_modHub h)

theorem inv_execRoundStart (h : MemoryInv s) (ht : execRoundStart s = .next t) : MemoryInv t := next_inv (inv_startRound h) ht

theorem inv_makeBead {j t rec save lid idx q : Nat} (h : MemoryInv s) : MemoryInv (makeBead s j t rec save lid idx q) := by
  unfold makeBead
  dsimp only
  exact inv_foldl (fun _ _ h1 => inv_setBeadWord h1) h

theorem inv_makeBeads {j tm beads sbase stride lid q n i : Nat} (h : MemoryInv s) :
    MemoryInv (makeBeads j tm beads sbase stride lid q n i s) := by
  induction n generalizing s i with
  | zero => exact h
  | succ n ih => exact ih (inv_enqueue (inv_makeBead h))

theorem inv_finishNode {g j : Nat} {canc : Bool} (h : MemoryInv s) : MemoryInv (finishNode s g j canc) := by
  unfold finishNode
  split <;> exact h

theorem inv_keepLaunch {lid : Nat} {l : Launch} (h : MemoryInv s) : MemoryInv (keepLaunch s lid l) := h

theorem inv_completeLaunch {lid : Nat} {l : Launch} (h : MemoryInv s) : MemoryInv (completeLaunch s lid l) := by
  unfold completeLaunch
  dsimp only
  split
  · exact inv_finishNode (inv_keepLaunch h)
  · exact inv_modHub (inv_keepLaunch h)
  · exact inv_keepLaunch h

theorem inv_seeCount {l : Launch} (h : MemoryInv s) : MemoryInv (seeCount s l) := by
  unfold seeCount
  split
  · exact h
  · exact inv_vSee h

theorem inv_settleLaunches (h : MemoryInv s) : MemoryInv (settleLaunches s) := by
  unfold settleLaunches
  dsimp only
  refine inv_foldl (fun _ _ h1 => ?_) h
  split
  · exact h1
  · split
    · exact inv_completeLaunch (inv_seeCount h1)
    · exact inv_seeCount h1

theorem inv_advanceLaunch {lid : Nat} {canc : Bool} (h : MemoryInv s) : MemoryInv (advanceLaunch s lid canc) := by
  unfold advanceLaunch
  dsimp only
  split
  · exact h
  · exact inv_settleLaunches (inv_keepLaunch (inv_ite h (inv_vAtom h)))

theorem inv_seeLaunch {j desc : Nat} (h : MemoryInv s) : MemoryInv (seeLaunch s j desc) := by
  unfold seeLaunch
  exact inv_vSee (inv_vSee h)

theorem inv_startLaunch {j desc : Nat} {kind : LaunchKind} (h : MemoryInv s) : MemoryInv (startLaunch s j desc kind) := by
  unfold startLaunch
  dsimp only
  split
  · exact inv_completeLaunch (inv_ite (inv_vWrite (inv_modHub (inv_seeLaunch h))) (inv_vAtom (inv_vAtom (inv_vWrite (inv_modHub
    (inv_seeLaunch h))))))
  · exact inv_makeBeads (inv_ite (inv_vWrite (inv_modHub (inv_seeLaunch h))) (inv_vAtom (inv_vAtom (inv_vWrite (inv_modHub
    (inv_seeLaunch h))))))

theorem inv_startInstance {j t i : Nat} {kind : LaunchKind} {launch : Nat} (h : MemoryInv s) :
    MemoryInv (startInstance s j t i kind launch) := by
  unfold startInstance
  dsimp only
  exact inv_enqueue (inv_makeBead (inv_modHub (inv_vSee h)))

theorem inv_execLaunchStart (h : MemoryInv s) (ht : execLaunchStart s = .next t) : MemoryInv t := by
  refine next_inv ?_ ht
  dsimp only
  split
  · exact h
  · split
    · exact inv_startLaunch (inv_modHub h)
    · exact inv_startInstance (inv_modHub h)
    · exact h

theorem inv_seeInstances {j t : Nat} (h : MemoryInv s) : MemoryInv (seeInstances s j t) := by
  unfold seeInstances
  dsimp only
  exact inv_foldl (fun _ _ h1 => inv_vSee h1) (inv_vSee h)

theorem inv_seeHandlers (h : MemoryInv s) : MemoryInv (seeHandlers s) := by
  unfold seeHandlers
  refine inv_foldl (fun _ _ h1 => ?_) h
  split
  · exact inv_seeInstances h1
  · exact h1

theorem inv_execHandlerInstanceStart (h : MemoryInv s) (ht : execHandlerInstanceStart s = .next t) : MemoryInv t := by
  refine next_inv ?_ ht
  split
  · exact inv_startInstance (inv_modHub (inv_seeHandlers h))
  · exact inv_seeHandlers h

theorem inv_execBeadComplete {i : Nat} (h : MemoryInv s) (ht : execBeadComplete i s = .next t) : MemoryInv t := by
  refine next_inv ?_ ht
  dsimp only
  split
  · exact h
  · split
    · exact h
    · exact inv_advanceLaunch (inv_modHub h)

theorem inv_execLocketHandlerComplete {i : Nat} (h : MemoryInv s) (ht : execLocketHandlerComplete i s = .next t) : MemoryInv t := by
  refine next_inv ?_ ht
  dsimp only
  split <;> exact h

theorem inv_execWaitWake {i : Nat} (h : MemoryInv s) (ht : execWaitWake i s = .next t) : MemoryInv t := by
  refine next_inv ?_ ht
  split
  · exact inv_makeReady (inv_modHub (inv_markWaiters h))
  · exact h

theorem inv_stopGraph {g : Nat} {x : Graph} {j : Nat} (h : MemoryInv s) : MemoryInv (stopGraph s g x j) := by
  unfold stopGraph
  dsimp only
  exact inv_logFault (inv_modHub (inv_vAtom h))

theorem inv_runNode {g : Nat} {x : Graph} {j : Nat} (h : MemoryInv s) : MemoryInv (runNode s g x j) := by
  unfold runNode
  dsimp only
  split
  · exact inv_pushStart h
  · split
    · exact inv_stopGraph h
    · exact inv_startTransfer h
  · exact inv_finishNode h

theorem inv_takeLeft {x : Graph} {j : Nat} (h : MemoryInv s) : MemoryInv (takeLeft s x j).2 := inv_vAtomOld h

theorem inv_resetLefts {x : Graph} {n : Nat} (h : MemoryInv s) : MemoryInv (resetLefts x n s) := by
  induction n with
  | zero => exact h
  | succ n ih => exact inv_vAtom ih

theorem inv_seeNode {x : Graph} {j : Nat} (h : MemoryInv s) : MemoryInv (seeNode s x j) := inv_vSee h

theorem inv_runFirst {g : Nat} {x : Graph} {l : List Nat} (h : MemoryInv s) : MemoryInv (runFirst g x l s) := by
  induction l generalizing s with
  | nil => exact h
  | cons j r ih => exact ih (inv_ite (inv_runNode (inv_seeNode h)) (inv_seeNode h))

theorem inv_execGraphStart {die job desc : Nat} (h : MemoryInv s) (ht : execGraphStart die job desc s = .next t) : MemoryInv t := by
  refine next_inv ?_ ht
  dsimp only
  split
  · exact h
  · exact inv_runFirst (inv_vAtom (inv_resetLefts (inv_vSee (inv_modHub (inv_fresh h)))))

theorem inv_successors {g : Nat} {canc : Bool} {l : List Nat} (h : MemoryInv s) : MemoryInv (successors g canc l s) := by
  induction l generalizing s with
  | nil => exact h
  | cons j r ih =>
    unfold successors
    split
    · exact h
    · next x _ =>
      have hl : MemoryInv (if nodesOf s x ≤ j then (0, s) else takeLeft s x j).2 := by
        split
        · exact h
        · exact inv_takeLeft h
      generalize (if nodesOf s x ≤ j then (0, s) else takeLeft s x j) = p at hl
      obtain ⟨left, u⟩ := p
      exact inv_ite (inv_stopGraph hl)
        (ih (inv_ite hl (inv_ite (inv_modHub hl) (inv_ite (inv_runNode (inv_seeNode hl)) hl))))

theorem inv_closeGraph {g : Nat} (h : MemoryInv s) : MemoryInv (closeGraph s g) := by
  unfold closeGraph
  dsimp only
  split
  · exact h
  · split
    · split
      · exact h
      · exact inv_vAtom (inv_modHub h)
    · exact h

theorem inv_execGraphNodeComplete {g j : Nat} (h : MemoryInv s) (ht : execGraphNodeComplete g j s = .next t) : MemoryInv t := by
  refine next_inv ?_ ht
  dsimp only
  split
  · exact h
  · split
    · exact h
    · exact inv_closeGraph (inv_successors (inv_vSee (inv_seeNode (inv_vAtom (inv_modHub h)))))

theorem inv_capture {j n : Nat} {msg : BitVec 256} {src : MailSource} {dropped : Bool} (h : MemoryInv s) :
    MemoryInv (capture s j n msg src dropped) := by
  unfold capture
  dsimp only
  split
  · exact h
  · exact inv_modJob (inv_hubWrite h)

theorem inv_arrive {n : Nat} {msg : BitVec 256} {src : MailSource} (h : MemoryInv s) : MemoryInv (arrive s n msg src) := by
  unfold arrive
  dsimp only
  split
  · exact inv_capture (inv_logFault h)
  · split
    · exact inv_capture (inv_modHub h)
    · exact inv_pushStart (inv_capture (inv_modHub (inv_vWrite h)))

theorem inv_mailTo {n : Nat} {msg : BitVec 256} {src : MailSource} (h : MemoryInv s) : MemoryInv (mailTo s n msg src) := by
  unfold mailTo
  split
  · split
    · exact h
    · exact inv_logFault h
  · exact inv_arrive h

theorem inv_execLocketMessage {n : Nat} {msg : BitVec 256} {src : MailSource} (h :
    MemoryInv s) (ht : execLocketMessage n msg src s = .next t) : MemoryInv t := by
  refine next_inv ?_ ht
  split
  · exact h
  · split
    · split
      · split
        · exact inv_mailTo (inv_modHub h)
        · exact h
      · exact h
    · split
      · split
        · exact inv_mailTo (inv_modHub h)
        · exact h
      · exact h
    · exact inv_mailTo (inv_countFabric h)
    · exact inv_mailTo h
    · exact inv_mailTo h

theorem inv_writeLocket {vf : Option Nat} {off : Nat} {bytes : List Byte} (h : MemoryInv s) : MemoryInv (writeLocket s vf off bytes) := by
  unfold writeLocket
  split
  · exact inv_mailTo h
  · exact inv_logFault h

theorem inv_hostAct {a : HostAct} (h : MemoryInv s) : MemoryInv (hostAct s a) := by
  unfold hostAct
  split
  · exact inv_mgmtWrite h
  · exact inv_writeLocket h
  · split <;> exact h

theorem inv_hostActs {n : Nat} (h : MemoryInv s) : MemoryInv (hostActs n s) := by
  induction n generalizing s with
  | zero => exact h
  | succ n ih =>
    unfold hostActs
    split
    · split
      · refine ih (inv_hostAct ?_)
        exact h
      · exact h
    · exact h

theorem inv_execBudgetOverrun {c : Nat} (h : MemoryInv s) (ht : execBudgetOverrun c s = .next t) : MemoryInv t := by
  refine next_inv ?_ ht
  split
  · exact h
  · split <;> exact h

theorem inv_execWorldSwitch {k vf : Nat} (h : MemoryInv s) (ht : execWorldSwitch k vf s = .next t) : MemoryInv t := by
  refine next_inv ?_ ht
  split
  · exact h
  · refine inv_foldl (fun _ _ h1 => ?_) (inv_modCore h)
    split
    · split <;> exact h1
    · exact h1

theorem inv_execDebugStop {c : Nat} (h : MemoryInv s) (ht : execDebugStop c s = .next t) : MemoryInv t := by
  refine next_inv ?_ ht
  split <;> exact h

theorem inv_cancelRecord {b : Bead} {pc cc : Nat} (h : MemoryInv s) : MemoryInv (cancelRecord s b pc cc) := inv_vWrite h
theorem inv_countCancel {b : Bead} (h : MemoryInv s) : MemoryInv (countCancel s b) := inv_advanceLaunch h

theorem inv_leaveCancelled {c : Nat} {b : Bead} (h : MemoryInv s) : MemoryInv (leaveCancelled s c b) := by
  unfold leaveCancelled
  dsimp only
  exact inv_countCancel (inv_modArray (inv_endLife (inv_modCtx (inv_cancelRecord (inv_charge (inv_addEnergy (inv_writeBack
    (inv_leaveFreeze h))))))))

theorem inv_execForcedPreemption {c : Nat} (h : MemoryInv s) (ht : execForcedPreemption c s = .next t) : MemoryInv t := by
  refine next_inv ?_ ht
  dsimp only
  split
  · split
    · exact h
    · split
      · exact inv_waitFrozen h
      · split
        · exact inv_leaveCancelled h
        · exact inv_enqueue (inv_writeBack (inv_saveBead h))
        · exact inv_enqueue (inv_setBeadWord (inv_writeBack (inv_saveBead h)))
        · exact inv_setBeadWop (inv_writeBack (inv_vWrite (inv_saveBead (inv_modCtx h))))
  · exact h

theorem inv_endCompleting {j va : Nat} (h : MemoryInv s) : MemoryInv (endCompleting s j va) := by
  unfold endCompleting
  exact inv_foldl (fun _ _ h1 => inv_endLife h1) h

theorem inv_cancelBead {p : Nat × Nat} (h : MemoryInv s) : MemoryInv (cancelBead s p) := by
  have hs : MemoryInv (vSee s p.1 p.2 64) := inv_vSee h
  obtain ⟨j, va⟩ := p
  unfold cancelBead
  dsimp -zeta only
  extract_lets s1 st b out
  have hout (u : State) (hu : MemoryInv u) : MemoryInv (out u) := by
    unfold out
    split
    · exact inv_countCancel (inv_modHub (inv_cancelRecord (inv_setBeadWop (inv_setBeadState (inv_endLife hu)))))
    · exact inv_countCancel (inv_modHub (inv_cancelRecord (inv_setBeadWop (inv_setBeadState hu))))
  clear_value out st
  split
  · exact hout _ (inv_unqueue hs)
  · refine inv_foldl (fun _ _ h1 => ?_) hs
    split
    · exact inv_endLife (inv_modCtx h1)
    · exact h1
  · exact hout _ hs
  · exact inv_endCompleting hs
  · exact hs

theorem inv_markGraph {level : Nat} {p : Nat × Graph} (h : MemoryInv s) : MemoryInv (markGraph level s p) := by
  unfold markGraph
  dsimp only
  refine inv_modHub ?_
  split
  · exact inv_vAtom (inv_ite (inv_vAtom (inv_vAtom h)) (inv_vAtom h))
  · split
    · exact inv_vAtom (inv_vAtom h)
    · exact inv_vAtom h

theorem inv_cancelGraphs {level : Nat} {l : List (Nat × Graph)} (h : MemoryInv s) : MemoryInv (cancelGraphs level l s) := by
  unfold cancelGraphs
  dsimp only
  refine inv_foldl (fun _ _ h1 => ?_) h
  refine inv_foldl (fun _ _ h2 => inv_cancelBead h2) ?_
  refine inv_foldl (fun _ _ h2 => inv_finishNode h2) ?_
  split
  · exact inv_markGraph h1
  · exact h1

theorem inv_startPending {n : Nat} (h : MemoryInv s) : MemoryInv (startPending s n) := by
  unfold startPending
  dsimp only
  refine inv_foldl (fun _ _ h1 => ?_) (inv_modHub h)
  split
  · exact inv_startLaunch h1
  · exact inv_startInstance h1
  · exact h1

theorem inv_markJob {n : Nat} (h : MemoryInv s) : MemoryInv (markJob s n) := by
  unfold markJob
  split
  · exact h
  · exact inv_vAtom h

theorem inv_killJob {n : Nat} (h : MemoryInv s) : MemoryInv (killJob s n) := by
  unfold killJob
  dsimp only
  exact inv_foldl (fun _ _ h1 => inv_ite (inv_modArray h1) h1) (inv_update h rfl)

theorem inv_cancelLevel {a : CancelTarget} (h : MemoryInv s) : MemoryInv (cancelLevel s a) := by
  unfold cancelLevel
  dsimp only
  split
  · exact inv_cancelBead h
  · split
    · split
      · exact h
      · exact inv_foldl (fun _ _ h1 => inv_cancelBead h1) h
    · exact h
  · exact inv_cancelGraphs h
  · exact inv_cancelGraphs h
  · split
    · exact h
    · split
      · exact inv_killJob (inv_markJob (inv_foldl (fun _ _ h1 => inv_cancelBead h1) (inv_cancelGraphs (inv_startPending h))))
      · exact inv_markJob (inv_foldl (fun _ _ h1 => inv_cancelBead h1) (inv_cancelGraphs (inv_startPending h)))

theorem inv_execCancel (h : MemoryInv s) (ht : execCancel s = .next t) : MemoryInv t := by
  refine next_inv ?_ ht
  dsimp only
  split
  · exact h
  · exact inv_cancelLevel (inv_modHub h)

theorem inv_deliverNext {c : Nat} {deferred : Bool} (h : MemoryInv s) : MemoryInv (deliverNext s c deferred) := by
  unfold deliverNext
  split
  · split
    · exact h
    · exact inv_deliverTrap (inv_modCtx h)
  · exact h

theorem inv_execTrapDelivery {c : Nat} (h : MemoryInv s) (ht : execTrapDelivery c s = .next t) : MemoryInv t :=
  next_inv (inv_deliverNext h) ht

theorem inv_execHmFaultTrap {c : Nat} (h : MemoryInv s) (ht : execHmFaultTrap c s = .next t) : MemoryInv t := by
  refine next_inv ?_ ht
  split
  · exact inv_deliverNext h
  · exact h

end Sys2Proof.Canonical
end

section
/-! SUPPORT. The memory's canonical form under landings, reads, stores, transfers and channels (log 1). -/
namespace Sys2Proof.Canonical
open Sys2Proof Sys2Proof.Machine Sys2Proof.Claims Sys2Proof.Serving Sys2Proof.Reading Sys2Proof.Leaving

-- Many of this section's proofs are replayed at once otherwise, each on a stack of its own.
set_option Elab.async false

variable {s t : State}

theorem inv_landOne {c : Nat} {l : Landing} (h : MemoryInv s) : MemoryInv (landOne s c l) := by
  unfold landOne
  dsimp only
  exact inv_modCtx (inv_ite (inv_fetchRegister h) h)

theorem inv_landDue {c : Nat} {l : List Landing} (h : MemoryInv s) : MemoryInv (landDue s c l) := by
  unfold landDue
  dsimp only
  exact inv_modCtx (inv_foldl (fun _ _ h1 => inv_countFrom (inv_landOne h1)) (inv_modArch h))

theorem inv_endLate {c : Nat} (h : MemoryInv s) : MemoryInv (endLate s c) := by
  unfold endLate
  split
  · exact inv_endFreeze h
  · exact inv_endFreeze h
  · exact h

theorem inv_missFault {c port : Nat} {b : Bead} (h : MemoryInv s) : MemoryInv (missFault s c port b) := by
  unfold missFault
  dsimp only
  split
  · exact h
  · exact inv_deliverTrap (inv_logFault h)

theorem inv_execResultLand {c : Nat} (h : MemoryInv s) (ht : execResultLand c s = .next t) : MemoryInv t := by
  refine next_inv ?_ ht
  dsimp only
  split
  · exact h
  · split
    · exact inv_freezeNow h
    · split
      · exact h
      · split
        · exact inv_missFault h
        · exact inv_landDue (inv_endLate h)

theorem inv_execAtomicReleaseDeadline {c : Nat} (h : MemoryInv s) (ht : execAtomicReleaseDeadline c s = .next t) : MemoryInv t := by
  refine next_inv ?_ ht
  dsimp only
  split
  · exact h
  · split
    · exact inv_missFault h
    · exact inv_modCtx (inv_landDue (inv_endLate h))

theorem inv_noteError {c job line : Nat} {err : MemErr} (h : MemoryInv s) : MemoryInv (noteError s c job line err) := by
  unfold noteError
  split
  · exact h
  · exact inv_logFault h
  · exact inv_markData h
  · exact inv_logFault h
  · split
    · exact inv_markTag h
    · exact h

theorem inv_failRead {c : Nat} {r : Read} {code : TrapCode} {line va : Nat} (h : MemoryInv s) :
    MemoryInv (failRead s c r code line va) := by
  unfold failRead
  dsimp only
  split
  · exact inv_deliver (inv_logFault h)
  · exact inv_trapLife (inv_logFault h)

theorem inv_endRead {r : Read} {v lines : Nat} (h : MemoryInv s) : MemoryInv (endRead s r v lines) := by
  unfold endRead
  split
  · exact inv_deliver h
  · exact inv_countFrom h

theorem inv_takeRead {c : Nat} {r : Read} {err : MemErr} (h : MemoryInv s) : MemoryInv (takeRead s c r err) := by
  unfold takeRead
  split
  · extract_lets u
    have hu : MemoryInv u := by
      unfold u
      split
      · exact inv_noteError h
      · exact h
    clear_value u
    split
    · exact inv_failRead hu
    · exact inv_endRead (inv_readSegs hu)
  · dsimp only
    split
    · exact inv_failRead (inv_noteError h)
    · exact inv_endRead (inv_noteError h)
  · split
    · exact inv_failRead h
    · exact inv_endRead (inv_look h)
  · exact inv_endRead h

theorem inv_execLoadDataArrive {c : Nat} {err : MemErr} (h : MemoryInv s) (ht : execLoadDataArrive c err s = .next t) : MemoryInv t := by
  refine next_inv ?_ ht
  split
  · exact h
  · split
    · exact h
    · exact inv_takeRead (inv_modCtx h)

theorem inv_sendHome {q : Nat} {reads : Bool} {l : List (Nat × Byte)} (h : MemoryInv s) : MemoryInv (sendHome s q reads l) := by
  unfold sendHome
  exact inv_foldl (fun _ _ h1 => inv_homeAccess h1) h

theorem inv_touchHome {k : Nat} {ptes : List (Nat × W64)} {l : List (Nat × Byte)} (h : MemoryInv s) : MemoryInv (touchHome s k ptes l) :=
  inv_sendHome h

theorem inv_pointAtom {q pa : Nat} {e : W64} {n : Nat} {f : Nat → Nat} (h : MemoryInv s) : MemoryInv (pointAtom s q pa e n f).2 := by
  unfold pointAtom
  split
  · exact inv_mgmtWrite h
  · exact inv_cpAtomOld h

theorem inv_drainStore {c : Nat} {e : Entry} {l : List (Nat × Byte)} {ptes : List (Nat × W64)} (h : MemoryInv s) :
    MemoryInv (drainStore s c e l ptes) := by
  unfold drainStore
  dsimp only
  split
  · exact inv_tagTrap (inv_popHead h)
  · exact inv_mgmtWrite (inv_popHead (inv_written (inv_drainBytes (inv_touchHome h))))

theorem inv_execDrain {c : Nat} (h : MemoryInv s) (ht : execDrain c s = .next t) : MemoryInv t := by
  refine next_inv ?_ ht
  split
  · exact h
  · split
    · split
      · exact h
      · exact inv_drainStore h
    · split
      · exact h
      · exact inv_popHead (inv_written (inv_of_wf (Memory.wf_writeCells _ h)))
    · exact h

theorem inv_clearExcl {k line : Nat} (h : MemoryInv s) : MemoryInv (clearExcl s k line) := by
  unfold clearExcl
  split
  · exact inv_setL1 h
  · exact h

theorem inv_execL1Push {k : Nat} {l : FoundLine} (h : MemoryInv s) (ht : execL1Push k l s = .next t) : MemoryInv t := by
  refine next_inv ?_ ht
  split
  · exact h
  · split
    · exact h
    · split
      · exact inv_ownError h
      · exact inv_ownError (inv_clearExcl (inv_pushLine h))

theorem inv_execL1Drop {k line : Nat} (h : MemoryInv s) (ht : execL1Drop k line s = .next t) : MemoryInv t := by
  refine next_inv ?_ ht
  split
  · exact h
  · split
    · exact inv_logNoContext h
    · exact inv_dropLine h

theorem inv_landAtomic {e : Entry} {uids : List Nat} {due n old lines : Nat} (h : MemoryInv s) :
    MemoryInv (landAtomic s e uids due n old lines) := by
  unfold landAtomic
  dsimp only
  split
  · exact inv_countFrom h
  · exact inv_deliver h
  · exact inv_deliver (inv_deliver h)

theorem inv_execAtom {c : Nat} (h : MemoryInv s) (ht : execAtom c s = .next t) : MemoryInv t := by
  refine next_inv ?_ ht
  dsimp only
  split
  · exact h
  · split
    · split
      · exact h
      · split
        · exact inv_failEntry (inv_popHead h)
        · split
          · exact inv_failEntry (inv_popHead h)
          · split
            · exact inv_landAtomic (inv_pointAtom (inv_popHead h))
            · exact inv_landAtomic (inv_atomStep (inv_popHead h))
    · exact h

theorem inv_toHost {c : Nat} {reads : Bool} {l : List (Nat × Byte)} (h : MemoryInv s) : MemoryInv (toHost s c reads l) := by
  unfold toHost
  dsimp only
  split
  · exact h
  · exact inv_modCtx (inv_of_wf (Memory.wf_writeCells _ (inv_sendHome h)))

theorem inv_execHost {c : Nat} (h : MemoryInv s) (ht : execHost c s = .next t) : MemoryInv t := by
  refine next_inv ?_ ht
  dsimp only
  split
  · exact h
  · split
    · exact h
    · split
      · split
        · exact inv_popHead (inv_toHost h)
        · exact inv_setHead (inv_toHost h)
      · split
        · exact h
        · exact inv_landAtomic (inv_popHead (inv_toHost h))
      · exact h

theorem inv_handReads {f : State → State} {c : Nat} {e : Entry} {lines : List Nat} (h : MemoryInv s)
    (hf : ∀ u, MemoryInv u → MemoryInv (f u)) : MemoryInv (handReads s c e lines f) := by
  unfold handReads
  split
  · exact inv_lineTrap (inv_popHead h)
  · exact hf _ (inv_popHead (inv_foldl (fun _ _ h1 => inv_findErrors h1) h))

theorem inv_execHand {c : Nat} (h : MemoryInv s) (ht : execHand c s = .next t) : MemoryInv t := by
  refine next_inv ?_ ht
  split
  · exact h
  · split
    · exact h
    · split
      · exact inv_handReads h fun _ h1 => inv_queueTransfer h1
      · split
        · exact inv_lineTrap (inv_popHead h)
        · exact inv_handReads h fun _ h1 => inv_queueTransfer (inv_pointAtom h1)
      · exact h

theorem inv_setTransfer {t : Transfer} (h : MemoryInv s) : MemoryInv (setTransfer s t) := h

theorem inv_freeLine {t : Transfer} {line : Nat} (h : MemoryInv s) : MemoryInv (freeLine t s line) := by
  unfold freeLine
  split
  · exact inv_reclaim (inv_pushLine h)
  · exact inv_reclaimAll h

theorem inv_readForPiece {t : Transfer} {line : Nat} (h : MemoryInv s) : MemoryInv (readForPiece t s line) := by
  unfold readForPiece
  dsimp only
  split
  · exact inv_homeAccess h
  · split
    · exact inv_homeAccess (inv_freeLine h)
    · exact inv_obtainShared (inv_freeLine h)

theorem wf_foldl {α : Type} {f : List Host.Cell → α → List Host.Cell} (hf : ∀ m x, Memory.wf m = true → Memory.wf (f m x) = true)
    {l : List α} {m : List Host.Cell} (hm : Memory.wf m = true) : Memory.wf (l.foldl f m) = true := by
  induction l generalizing m with
  | nil => exact hm
  | cons x r ih => exact ih (hf _ _ hm)
theorem wf_performMoves {src m : List Host.Cell} {p : Piece} (hm : Memory.wf m = true) :
    Memory.wf (performMoves src m p) = true := by
  have hl : Memory.wf (p.moves.foldl (performMove src) m) = true := wf_foldl (fun _ _ h => Memory.wf_writeBits _ _ _ h) hm
  unfold performMoves
  dsimp only
  split
  · exact Memory.wf_writeCells _ hl
  · exact hl
theorem wf_setElem {t : TileRef} {m : List Host.Cell} {r j v : Nat} (hm : Memory.wf m = true) : Memory.wf (t.setElem m r j v) = true :=
  Memory.wf_writeBits _ _ _ (Memory.wf_writeBits _ _ _ hm)
theorem inv_writePiece {x : Transfer} {p : Piece} (h : MemoryInv s) : MemoryInv (writePiece s x p) := by
  unfold writePiece
  dsimp only
  split
  · exact inv_mgmtWrite h
  · generalize hs : (if tagged s (p.line * 128) = true then _ else s : State) = u
    have hu : MemoryInv u := by
      rw [← hs]
      exact inv_ite (inv_freeLine h) h
    split
    · exact inv_eraseL1 (inv_written (inv_of_wf (wf_performMoves hu)))
    · exact inv_written (inv_of_wf (wf_performMoves hu))

theorem inv_loadPiece {p : Piece} (h : MemoryInv s) : MemoryInv (loadPiece s p) :=
  inv_written (inv_of_wf (wf_performMoves h))

theorem inv_countPiece {t : Transfer} {p : Piece} (h : MemoryInv s) : MemoryInv (countPiece s t p) := by
  unfold countPiece
  dsimp only
  split
  · exact inv_countLater (inv_countLater (inv_countLater h))
  · exact h

theorem inv_execPiece {n i : Nat} (h : MemoryInv s) (ht : execPiece n i s = .next t) : MemoryInv t := by
  refine next_inv ?_ ht
  dsimp only
  split
  · exact h
  · split
    · exact h
    · split
      · exact h
      · split
        · exact inv_transferTrap (inv_setTransfer h)
        · exact inv_countPiece (inv_ite (inv_writePiece (inv_foldl (fun _ _ h1 => inv_readForPiece h1) (inv_setTransfer h)))
          (inv_loadPiece (inv_foldl (fun _ _ h1 => inv_readForPiece h1) (inv_setTransfer h))))

theorem inv_unmarkImage {j base n : Nat} (h : MemoryInv s) : MemoryInv (unmarkImage s j base n) := by
  unfold unmarkImage
  dsimp only
  exact inv_vClear (inv_vWrite h)

theorem inv_clearMarks {t : Transfer} (h : MemoryInv s) : MemoryInv (clearMarks s t) := by
  unfold clearMarks
  dsimp only
  split
  · exact h
  · split
    · exact inv_foldl (fun _ _ h1 => inv_unmarkImage h1) (inv_foldl (fun _ _ h1 => inv_unmarkImage h1) (inv_modHub h))
    · exact inv_foldl (fun _ _ h1 => inv_unmarkImage h1) (inv_modHub h)
  · exact h

theorem inv_tellCopy {t : Transfer} {g j : Nat} (h : MemoryInv s) : MemoryInv (tellCopy s t g j) := by
  unfold tellCopy
  dsimp only
  split
  · exact h
  · split
    · exact h
    · exact inv_sendMail h

theorem inv_dropRoot {x : Transfer} {root : Name} {group : Nat} (h : MemoryInv s) : MemoryInv (dropRoot s x root group) := by
  unfold dropRoot
  dsimp only
  split
  · exact h
  · split
    · exact inv_finishTransfer (inv_transferTrap h)
    · split
      · exact inv_sendInvs h
      · exact inv_endCopy (inv_dropName h fun _ h1 => inv_eventRecord h1)

theorem inv_execCount {n : Nat} (h : MemoryInv s) (ht : execCount n s = .next t) : MemoryInv t := by
  refine next_inv ?_ ht
  split
  · exact h
  · split
    · exact h
    · split
      · exact inv_finishTransfer (inv_clearMarks h)
      · exact inv_finishTransfer (inv_clearMarks h)
      · exact inv_finishTransfer h
      · split
        · exact inv_setTransfer (inv_transferTrap h)
        · exact inv_setTransfer (inv_pointAtom h)
      · exact inv_tellCopy (inv_finishNode (inv_finishTransfer h))
      · exact inv_dropRoot h
      · exact h

theorem inv_execMxTileWriteFormed {c : Nat} (h : MemoryInv s) (ht : execMxTileWriteFormed c s = .next t) : MemoryInv t := by
  refine next_inv ?_ ht
  split <;> exact h

theorem inv_transformWith {f : State → State} {x : Transfer} (h : MemoryInv s) (hf : ∀ u, MemoryInv u → MemoryInv (f u)) :
    MemoryInv (transformWith s x f) := by
  unfold transformWith
  dsimp only
  split
  · exact inv_finishTransfer (inv_transferTrap h)
  · exact inv_finishTransfer (hf _ (inv_foldl (fun _ _ h1 => inv_findErrors h1) h))

theorem wf_convertTile {dst src : TileRef} {rounding : BitVec 3} (h : MemoryInv s) : Memory.wf (convertTile s dst src rounding) = true :=
  wf_foldl (fun _ _ h1 => wf_foldl (fun _ _ h2 => wf_setElem h2) h1) h
theorem inv_execTransformComplete {n : Nat} (h : MemoryInv s) (ht : execTransformComplete n s = .next t) : MemoryInv t := by
  refine next_inv ?_ ht
  split
  · exact h
  · split
    · exact h
    · split
      · exact inv_transformWith h fun _ h1 => inv_written (inv_of_wf (wf_foldl (fun _ p h2 => wf_performMoves h2) h1))
      · exact inv_transformWith h fun _ h1 => inv_written (inv_of_wf (wf_convertTile h1))
      · exact h

theorem inv_execRecordCacheEviction {die line : Nat} (h : MemoryInv s) (ht : execRecordCacheEviction die line s = .next t) :
    MemoryInv t := by
  refine next_inv ?_ ht
  exact h

theorem inv_clearPart {k u v : Nat} (h : MemoryInv s) : MemoryInv (clearPart s k u v) := by
  unfold clearPart
  dsimp only
  exact inv_unpad (inv_of_wf (Memory.wf_clear _ _ h))

theorem inv_execPhaseSplitTakesEffect {k : Nat} (h : MemoryInv s) (ht : execPhaseSplitTakesEffect k s = .next t) : MemoryInv t := by
  refine next_inv ?_ ht
  dsimp only
  split
  · exact h
  · split
    · exact h
    · exact inv_modCtx (inv_modCore (inv_clearPart (inv_dropLines (inv_pushAll h))))

theorem inv_vPutBytes {j va : Nat} {l : List Byte} (h : MemoryInv s) : MemoryInv (vPutBytes s j va l) := inv_vWrite h
theorem inv_countLate {j : Nat} {e : ChanEntry} (h : MemoryInv s) : MemoryInv (countLate s j e) := inv_vAtom h
theorem inv_addPresent {j ch n k : Nat} (h : MemoryInv s) : MemoryInv (addPresent s j ch n k) := h

theorem inv_addSender {agent j ch : Nat} (h : MemoryInv s) : MemoryInv (addSender s agent j ch) := by
  unfold addSender
  dsimp only
  split <;> exact h

theorem inv_takeSlot {agent j ch k n : Nat} {data : List Byte} (h : MemoryInv s) : MemoryInv (takeSlot s agent j ch k n data) := by
  unfold takeSlot
  dsimp only
  split
  · exact inv_seeChannel (inv_addSender h)
  · split
    · exact inv_countLate (inv_seeChannel (inv_addSender h))
    · exact inv_addPresent (inv_vPutBytes (inv_seeChannel (inv_addSender h)))

theorem inv_countFlits {code n : Nat} (h : MemoryInv s) : MemoryInv (countFlits s code n) := by
  unfold countFlits
  exact inv_foldl (fun _ _ h1 => inv_count h1) h

theorem inv_execChannelSlotWrite {src : SlotSource} (h : MemoryInv s) (ht : execChannelSlotWrite src s = .next t) : MemoryInv t := by
  refine next_inv ?_ ht
  dsimp only
  split
  · split
    · exact h
    · split
      · split
        · split
          · exact h
          · exact inv_finishTransfer (inv_takeSlot h)
        · split
          · exact h
          · exact inv_finishTransfer (inv_countFlits (inv_update h rfl))
      · exact h
  · split
    · exact h
    · exact inv_takeSlot (inv_countFlits h)

theorem inv_writeElement {x : TileRef} {comb : Nat} {l : List Nat} (h : MemoryInv s) : MemoryInv (writeElement s x comb l) := by
  refine inv_unpad (inv_of_wf (wf_foldl (fun _ _ h1 => wf_foldl (fun _ _ h2 => ?_) h1) h))
  split
  · exact wf_setElem h2
  · exact h2

theorem inv_flushChannel {j ch : Nat} {x : Chan} {e : ChanEntry} {t : Transfer} {tile : TileRef} (h : MemoryInv s) :
    MemoryInv (flushChannel s j ch x e t tile) := by
  unfold flushChannel
  dsimp only
  exact inv_finishTransfer (inv_clearMarks (inv_update (inv_vAtom (inv_countLater (inv_countLater (inv_writeElement (inv_foldl (fun _ _
    h1 => inv_vSee h1) h))))) rfl))

theorem inv_flushWhen {due : State → Chan → ChanEntry → Nat → Bool} {job ch : Nat} (h : MemoryInv s) :
    MemoryInv (flushWhen due s job ch) := by
  unfold flushWhen
  dsimp only
  split
  · exact h
  · split
    · exact h
    · split
      · exact inv_ite (inv_flushChannel h) h
      · exact h

theorem inv_execChannelFlush {job ch : Nat} (h : MemoryInv s) (ht : execChannelFlush job ch s = .next t) : MemoryInv t :=
  next_inv (inv_flushWhen h) ht

theorem inv_flushExpired {job ch n : Nat} (h : MemoryInv s) : MemoryInv (flushExpired job ch n s) := by
  induction n generalizing s with
  | zero => exact h
  | succ n ih => exact inv_ite (inv_flushWhen h) (ih (inv_flushWhen h))

theorem inv_flushAll (h : MemoryInv s) : MemoryInv (flushAll s) := by
  unfold flushAll
  exact inv_foldl (fun _ _ h1 => inv_flushExpired h1) h

theorem inv_setWork {port i : Nat} {x : BitVec 512} (h : MemoryInv s) : MemoryInv (setWork s port i x) := h

theorem inv_endRun {port i : Nat} (h : MemoryInv s) : MemoryInv (endRun s port i) := by
  unfold endRun
  dsimp only
  exact inv_setWork (inv_vAtom h)

theorem inv_execWorkEntryRun {port i : Nat} (h : MemoryInv s) (ht : execWorkEntryRun port i s = .next t) : MemoryInv t := by
  refine next_inv ?_ ht
  dsimp only
  split
  · exact h
  · split
    · exact inv_endRun (inv_vSee h)
    · exact inv_setWork (inv_vSee h)

theorem inv_runMemory {x : BitVec 512} (h : MemoryInv s) : MemoryInv (runMemory s x) := by
  unfold runMemory
  exact inv_vPutBytes (inv_update h rfl)

theorem inv_execWorkRunComplete {port i : Nat} (h : MemoryInv s) (ht : execWorkRunComplete port i s = .next t) : MemoryInv t := by
  refine next_inv ?_ ht
  split
  · exact h
  · exact inv_endRun (inv_runMemory h)

theorem inv_sendAbort {j peer : Nat} (h : MemoryInv s) : MemoryInv (sendAbort j s peer) := by
  unfold sendAbort
  split
  · exact inv_foldl (fun _ _ h1 => inv_abortJob h1) h
  · exact inv_countFabric (inv_update h rfl)

theorem inv_execCollectiveAbort {job : Nat} (h : MemoryInv s) (ht : execCollectiveAbort job s = .next t) : MemoryInv t := by
  refine next_inv ?_ ht
  dsimp only
  split
  · exact h
  · exact inv_foldl (fun _ _ h1 => inv_sendAbort h1) (inv_foldl (fun _ _ h1 => inv_modMgmt h1) (inv_modHub (inv_foldl (fun _ _ h1 =>
    inv_seeChannel h1) h)))

theorem inv_execAbortMessage {job agent : Nat} (h : MemoryInv s) (ht : execAbortMessage job agent s = .next t) : MemoryInv t := by
  refine next_inv ?_ ht
  split
  · exact h
  · exact inv_abortJob (inv_countFabric h)

end Sys2Proof.Canonical
end

section
/-! SUPPORT. The memory's canonical form where bundles issue and withheld operations are performed (log 1). -/
namespace Sys2Proof.Canonical
open Sys2Proof Sys2Proof.Machine Sys2Proof.Claims Sys2Proof.Serving Sys2Proof.Reading Sys2Proof.Leaving

-- Many of this section's proofs are replayed at once otherwise, each on a stack of its own.
set_option Elab.async false

variable {s t : State}

theorem inv_execStallCycle {c : Nat} (h : MemoryInv s) (ht : execStallCycle c s = .next t) : MemoryInv t := by
  refine next_inv ?_ ht
  dsimp only
  split
  · exact h
  · split
    · exact inv_freezeNow h
    · exact inv_modCtx (inv_countDeferred (inv_count (inv_endFreeze (inv_fetchLine h))))

theorem inv_grant {c : Nat} (h : MemoryInv s) : MemoryInv (grant s c) := h

theorem inv_loseMerge {c : Nat} (h : MemoryInv s) : MemoryInv (loseMerge s c) := by
  unfold loseMerge
  exact inv_modCtx (inv_freezeNow h)

theorem inv_unready {c : Nat} (h : MemoryInv s) : MemoryInv (unready s c) := by
  unfold unready
  split <;> exact h

theorem inv_execIssueMerge {k : Nat} (h : MemoryInv s) (ht : execIssueMerge k s = .next t) : MemoryInv t := by
  refine next_inv ?_ ht
  dsimp only
  split
  · exact h
  · split
    · exact inv_unready (inv_unready h)
    · exact inv_unready (inv_grant h)
    · exact inv_unready (inv_grant h)
    · split
      · exact inv_grant (inv_grant h)
      · exact inv_loseMerge (inv_grant h)

theorem inv_fetchTrap {c : Nat} {x : FetchFault} (h : MemoryInv s) : MemoryInv (fetchTrap s c x) := inv_bundleTrap h

theorem inv_execRegisterMissMicroTrap {c port : Nat} (h : MemoryInv s) (ht : execRegisterMissMicroTrap c port s = .next t) :
    MemoryInv t := by
  refine next_inv ?_ ht
  split
  · split
    · exact h
    · split
      · exact inv_missFault h
      · exact inv_endFreeze (inv_countLater (inv_fetchRegister h))
  · exact h

theorem inv_onLine {f : State → State} {c pa : Nat} {pte : W64} {e : Entry} (h : MemoryInv s) (hf : ∀ u, MemoryInv u → MemoryInv (f u)) :
    MemoryInv (onLine s c pa pte e f) := by
  unfold onLine
  split
  · exact h
  · split
    · exact inv_lineTrap (inv_popHead h)
    · exact hf _ h

theorem inv_acquire {c pa : Nat} {pte : W64} {e : Entry} (h : MemoryInv s) : MemoryInv (acquire s c pa pte e) := by
  unfold acquire
  dsimp only
  split
  · exact inv_tagTrap (inv_markWaiters (inv_pointAtom h))
  · exact inv_countLater (inv_countLater (inv_dropLines (inv_markWaiters (inv_pointAtom h))))

theorem inv_execCbindPerform {c : Nat} (h : MemoryInv s) (ht : execCbindPerform c s = .next t) : MemoryInv t := by
  refine next_inv ?_ ht
  split
  · exact h
  · split
    · exact inv_onLine h fun _ h1 => inv_pointAtom (inv_popHead h1)
    · exact h

theorem inv_execCacqLock {c : Nat} (h : MemoryInv s) (ht : execCacqLock c s = .next t) : MemoryInv t := by
  refine next_inv ?_ ht
  split
  · exact h
  · split
    · split
      · exact h
      · refine inv_onLine h fun _ h1 => ?_
        split
        · split
          · exact inv_popHead h1
          · exact h1
        · exact inv_acquire (inv_popHead h1)
    · exact h

theorem inv_execCtryPerform {c : Nat} (h : MemoryInv s) (ht : execCtryPerform c s = .next t) : MemoryInv t := by
  refine next_inv ?_ ht
  dsimp only
  split
  · exact h
  · split
    · split
      · exact h
      · split
        · exact inv_failEntry (inv_popHead h)
        · split
          · exact inv_deliverValue (inv_ite (inv_acquire (inv_popHead h)) (inv_popHead h))
          · split
            · exact inv_acquire (inv_popHead h)
            · exact inv_popHead h
    · exact h

theorem inv_execCrelPerform {c : Nat} (h : MemoryInv s) (ht : execCrelPerform c s = .next t) : MemoryInv t := by
  refine next_inv ?_ ht
  dsimp only
  split
  · exact h
  · split
    · refine inv_onLine h fun _ h1 => ?_
      split
      · exact inv_tagTrap (inv_popHead (inv_reclaimAll h1))
      · exact inv_pointAtom (inv_markWaiters (inv_countLater (inv_pushLines (inv_popHead (inv_reclaimAll h1)))))
    · exact h

theorem inv_publish {f : State → State} {c : Nat} {e : Entry} (h : MemoryInv s) (hf : ∀ u, MemoryInv u → MemoryInv (f u)) :
    MemoryInv (publish s c e f) := by
  unfold publish
  split
  · exact inv_tagTrap (inv_popHead h)
  · exact hf _ (inv_markWaiters (inv_pushFor (inv_popHead h)))

theorem inv_emptyIcache {k : Nat} (h : MemoryInv s) : MemoryInv (emptyIcache s k) := h

theorem inv_execFencePerform {c : Nat} (h : MemoryInv s) (ht : execFencePerform c s = .next t) : MemoryInv t := by
  refine next_inv ?_ ht
  split
  · exact h
  · split
    · exact inv_popHead h
    · split
      · exact h
      · split
        · split
          · exact inv_tagTrap (inv_popHead h)
          · exact inv_modCtx (inv_pushFor h)
        · exact inv_publish h fun _ h1 => inv_emptyIcache h1
    · exact inv_publish h fun _ h1 => inv_emptyIcache h1
    · exact h

theorem inv_execHostFlushComplete {c : Nat} (h : MemoryInv s) (ht : execHostFlushComplete c s = .next t) : MemoryInv t := by
  refine next_inv ?_ ht
  split
  · split
    · exact inv_modCtx (inv_emptyIcache (inv_popHead h))
    · exact h
  · exact h

theorem inv_countPhase {c : Nat} {e : Entry} (h : MemoryInv s) : MemoryInv (countPhase s c e) := by
  unfold countPhase
  dsimp only
  split
  · exact h
  · split
    · exact inv_pointAtom (inv_hubWalk h)
    · exact inv_logFault h

theorem inv_execSigPerform {c : Nat} (h : MemoryInv s) (ht : execSigPerform c s = .next t) : MemoryInv t := by
  refine next_inv ?_ ht
  dsimp only
  split
  · exact h
  · split
    · exact inv_onLine h fun _ h1 => inv_publish h1 fun _ h2 => inv_settleLaunches (inv_ite (inv_countPhase (inv_markWaiters
      (inv_pointAtom h2))) (inv_pointAtom h2))
    · exact h

theorem inv_refuseSpawn {c : Nat} {e : Entry} {desc : Nat} (h : MemoryInv s) : MemoryInv (refuseSpawn s c e desc) := by
  unfold refuseSpawn
  dsimp only
  exact inv_logFault (inv_ite h (inv_vAtom h))

theorem inv_execSpawnPerform {c : Nat} (h : MemoryInv s) (ht : execSpawnPerform c s = .next t) : MemoryInv t := by
  refine next_inv ?_ ht
  dsimp only
  split
  · exact h
  · split
    · exact inv_publish h fun _ h1 => inv_ite (inv_refuseSpawn (inv_seeLaunch h1)) (inv_pushStart (inv_seeLaunch h1))
    · exact h

theorem inv_execPostPerform {c : Nat} (h : MemoryInv s) (ht : execPostPerform c s = .next t) : MemoryInv t := by
  refine next_inv ?_ ht
  split
  · exact h
  · split
    · exact inv_publish h fun _ h1 => inv_ite (inv_sendMail h1) (inv_countFabric (inv_update h1 rfl))
    · exact h

theorem inv_refuseForeign {c : Nat} {e : Entry} {target opcode : Nat} (h : MemoryInv s) : MemoryInv (refuseForeign s c e target opcode) :=
  inv_logFault h

theorem inv_seeTarget {e : Entry} {lvl sa : Nat} (h : MemoryInv s) : MemoryInv (seeTarget s e lvl sa) := by
  unfold seeTarget
  split
  · exact inv_vSee h
  · exact h

theorem inv_execCancelPerform {c : Nat} (h : MemoryInv s) (ht : execCancelPerform c s = .next t) : MemoryInv t := by
  refine next_inv ?_ ht
  dsimp only
  split
  · exact h
  · split
    · split
      · exact inv_refuseForeign (inv_seeTarget (inv_popHead h))
      · exact inv_foldl (fun _ _ h1 => inv_pushCancel h1) (inv_seeTarget (inv_popHead h))
    · exact h

theorem inv_execEretPerform {c : Nat} (h : MemoryInv s) (ht : execEretPerform c s = .next t) : MemoryInv t := by
  refine next_inv ?_ ht
  split
  · exact h
  · split
    · exact inv_publish h fun _ h1 => inv_returnFromTrap h1
    · exact h

theorem inv_dropTranslations {scope job va : Nat} (h : MemoryInv s) : MemoryInv (dropTranslations s scope job va) := h

theorem inv_execTlbinvPerform {c : Nat} (h : MemoryInv s) (ht : execTlbinvPerform c s = .next t) : MemoryInv t := by
  refine next_inv ?_ ht
  split
  · exact h
  · split
    · split
      · exact h
      · exact inv_publish h fun _ h1 => inv_dropTranslations h1
    · exact h

theorem inv_execQsetPerform {c : Nat} (h : MemoryInv s) (ht : execQsetPerform c s = .next t) : MemoryInv t := by
  refine next_inv ?_ ht
  dsimp only
  split
  · exact h
  · split
    · split
      · exact inv_refuseForeign (inv_startRound (inv_popHead h))
      · exact inv_modQueue (inv_startRound (inv_popHead h))
    · exact h

theorem inv_dropRecord {line : Nat} (h : MemoryInv s) : MemoryInv (dropRecord s line) := h

theorem inv_execTsrfPerform {c : Nat} (h : MemoryInv s) (ht : execTsrfPerform c s = .next t) : MemoryInv t := by
  refine next_inv ?_ ht
  split
  · exact h
  · split
    · split
      · exact inv_tagTrap (inv_popHead h)
      · exact inv_dropRecord (inv_pushLine (inv_popHead h))
    · exact h

theorem inv_startCopy {c : Nat} {e : Entry} {root : Name} {depth : Nat} {frames : List (Nat × Nat)} {va : Nat} {t : Transfer} (h :
    MemoryInv s) : MemoryInv (startCopy s c e root depth frames va t) := by
  unfold startCopy
  dsimp only
  refine inv_queueTransfer (inv_markGroup ?_)
  refine inv_foldl (fun _ _ h1 => inv_entryEvent h1) ?_
  split
  · exact inv_retain (inv_copyLook (inv_ite h (inv_look h)))
  · exact inv_copyLook (inv_ite h (inv_look h))

theorem inv_execHmcopyHmStep {c : Nat} (h : MemoryInv s) (ht : execHmcopyHmStep c s = .next t) : MemoryInv t := by
  refine next_inv ?_ ht
  dsimp only
  split
  · exact h
  · split
    · split
      · exact h
      · split
        · exact inv_lineTrap (inv_popHead h)
        · split
          · exact inv_markGroup (inv_hmTrap (inv_look (inv_popHead (inv_foldl (fun _ _ h1 => inv_findErrors h1) h))))
          · exact inv_startCopy (inv_popHead (inv_foldl (fun _ _ h1 => inv_findErrors h1) h))
    · exact h

theorem inv_sendTransfer {t : Transfer} {src : TileRef} {n : Nat} (h : MemoryInv s) : MemoryInv (sendTransfer s t src n) := by
  unfold sendTransfer
  split
  · exact inv_queueTransfer h
  · exact h

theorem inv_execChsendHand {c : Nat} (h : MemoryInv s) (ht : execChsendHand c s = .next t) : MemoryInv t := by
  refine next_inv ?_ ht
  dsimp only
  split
  · exact h
  · split
    · split
      · exact h
      · split
        · exact inv_handReads h fun _ h1 => inv_sendTransfer h1
        · exact inv_onLine h fun _ h1 => inv_handReads h1 fun _ h2 => inv_sendTransfer (inv_cpAtomOld (inv_hubWalk h2))
    · exact h

end Sys2Proof.Canonical
end

section
/-! SUPPORT. The memory's canonical form under what falls due (log 1). -/
namespace Sys2Proof.Canonical
open Sys2Proof Sys2Proof.Machine Sys2Proof.Claims Sys2Proof.Serving Sys2Proof.Reading Sys2Proof.Leaving

-- Many of this section's proofs are replayed at once otherwise, each on a stack of its own.
set_option Elab.async false

variable {s t : State}

theorem inv_placeError {line : Nat} {e : MemErr} (h : MemoryInv s) : MemoryInv (placeError s line e) := by
  unfold placeError
  dsimp only
  split
  · exact h
  · exact h
  · exact inv_markData h
  · split <;> exact h
  · split
    · exact inv_markTag h
    · exact h

theorem inv_placeErrors (h : MemoryInv s) : MemoryInv (placeErrors s) := by
  unfold placeErrors
  dsimp only
  split
  · exact h
  · exact inv_foldl (fun _ _ h1 => inv_placeError h1) (inv_update h rfl)

theorem inv_captureDue (h : MemoryInv s) : MemoryInv (captureDue s) := by
  unfold captureDue
  exact inv_foldl (fun _ _ h1 => inv_captureRow h1) h

theorem inv_endWindows (h : MemoryInv s) : MemoryInv (endWindows s) := by
  unfold endWindows
  exact inv_foldl (fun _ _ h1 => inv_endWindow h1) h

theorem inv_endEpochs (h : MemoryInv s) : MemoryInv (endEpochs s) := by
  unfold endEpochs
  exact inv_foldl (fun _ _ h1 => inv_endEpoch h1) h

theorem inv_takeMgmt (h : MemoryInv s) : MemoryInv (takeMgmt s) := by
  unfold takeMgmt
  split
  · exact h
  · exact inv_mgmtWrite (inv_update h rfl)

theorem inv_putBytes {l : List (Nat × Byte)} (h : MemoryInv s) : MemoryInv (putBytes s l) := by
  unfold putBytes
  exact inv_written (inv_of_wf (Memory.wf_writeCells _ h))

theorem inv_peerWrite {a line : Nat} {bytes : List (Nat × Byte)} (h : MemoryInv s) : MemoryInv (peerWrite s a line bytes) := by
  unfold peerWrite
  dsimp only
  split
  · split
    · exact inv_putBytes (inv_setL2 h)
    · exact h
  · split
    · exact inv_putBytes h
    · exact h

theorem inv_peerAccess {a line : Nat} {reads : Bool} {bytes : List (Nat × Byte)} (h : MemoryInv s) :
    MemoryInv (peerAccess s a line reads bytes) := by
  unfold peerAccess
  dsimp only
  split
  · exact inv_logTag (inv_countFabric h)
  · split
    · exact inv_countFabric (inv_update (inv_ite (inv_mgmtWrite (inv_countFabric h)) (inv_putBytes (inv_ite (inv_touch (inv_countFabric
      h)) (inv_findErrors (inv_countFabric h))))) rfl)
    · split
      · exact inv_mgmtWrite (inv_countFabric h)
      · exact inv_putBytes (inv_ite (inv_touch (inv_countFabric h)) (inv_findErrors (inv_countFabric h)))

theorem inv_peerAct {a : PeerAct} (h : MemoryInv s) : MemoryInv (peerAct s a) := by
  unfold peerAct
  split
  · split
    · exact inv_peerWrite h
    · exact h
  · split
    · exact inv_peerAccess h
    · exact h
  · split <;> exact h

theorem inv_peerActs {n : Nat} (h : MemoryInv s) : MemoryInv (peerActs n s) := by
  induction n generalizing s with
  | zero => exact h
  | succ n ih =>
    unfold peerActs
    split
    · split
      · refine ih (inv_peerAct ?_)
        exact h
      · exact h
    · exact h

theorem inv_expire (h : MemoryInv s) : MemoryInv (expire s) := by
  unfold expire
  split
  · exact inv_flushAll h
  · exact h

theorem inv_settleDue (h : MemoryInv s) : MemoryInv (settleDue s) := by
  unfold settleDue
  dsimp only
  exact inv_markWaiters (inv_peerActs (inv_hostActs (inv_settleLaunches (inv_ite (inv_startRound (inv_commonPoint (inv_endEpochs
    (inv_endWindows (inv_captureDue (inv_placeErrors (inv_takeMgmt h))))))) (inv_captureDue (inv_placeErrors (inv_takeMgmt h)))))))

theorem inv_tick (h : MemoryInv s) : MemoryInv (tick s) := h

end Sys2Proof.Canonical
end

section
/-! SUPPORT. The memory's canonical form under the operations of the slots: none writes memory at issue (R23, R41, R338). -/
namespace Sys2Proof.Canonical
open Sys2Proof Sys2Proof.Machine Sys2Proof.Claims Sys2Proof.Serving Sys2Proof.Reading

-- Many of this section's proofs are replayed at once otherwise, each on a stack of its own.
set_option Elab.async false

variable {s t : State} {c : Nat}

/-! ### What the operations share -/

/-- The effect of an operation and its leaving keep the canonical form. -/
structure Keeping (o : Op) : Prop where
  act : ∀ {u}, MemoryInv u → MemoryInv (o.act u)
  leave : ∀ {u}, MemoryInv u → MemoryInv (o.leave u)

theorem keeping_of_resultOnly {i : Instr} {k : Slot} {o : Op} (h : Effects.ResultOnly i k c o) : Keeping o := by
  refine ⟨fun {u} hu => ?_, fun {u} hu => h.leave ▸ hu⟩
  cases h.quiet with
  | none ha => exact ha ▸ hu
  | random _ ha => exact ha u ▸ hu
  | loop _ _ ha => exact ha u ▸ hu
  | free ha => exact ha u ▸ hu

theorem inv_issueRead {l : List Seg} (h : MemoryInv s) : MemoryInv (issueRead s c l).2 :=
  (served_issueRead (Served.refl true s) c l).wf h

theorem inv_keepRecord {rr : RecordRead} (h : MemoryInv s) : MemoryInv (keepRecord s c rr) :=
  (served_keepRecord (Served.refl true s) c rr).wf h

theorem inv_prefetch {va : Nat} {hint : BitVec 2} (h : MemoryInv s) : MemoryInv (prefetch s c va hint) :=
  (served_prefetch (Served.refl true s) c va hint).wf h

/-! ### The load and store slots -/

theorem keeping_loadOp {a : LArgs} {reads : List Nat} {on : Bool} {align : Nat} {l : List (Nat × Nat)} {bits : List Nat}
    {mask : BitVec 1024} : Keeping (loadOp a reads on align l bits mask c s) := by
  unfold loadOp
  dsimp only
  split
  · exact ⟨id, id⟩
  · exact ⟨inv_startRead, id⟩

theorem keeping_opVld {a : LArgs} : Keeping (opVld a c s) := by
  unfold opVld
  dsimp only
  split <;> exact keeping_loadOp

theorem keeping_opPref {a : LArgs} : Keeping (opPref a c s) := by
  refine ⟨fun {u} hu => ?_, id⟩
  unfold opPref
  dsimp only
  split
  · exact inv_prefetch hu
  · exact hu

theorem keeping_atomicOp {op : AtomicOp} {n : Nat} {a : LArgs} {dests : List Dest} {v expected : Arch → Nat} :
    Keeping (atomicOp op n a dests v expected c s) := by
  unfold atomicOp
  dsimp only
  split
  · exact ⟨id, id⟩
  · exact ⟨fun hu => inv_withhold (inv_startWithheld hu), id⟩

theorem keeping_atomicN {op : AtomicOp} {a : LArgs} : Keeping (atomicN op a c s) := by
  unfold atomicN
  exact keeping_atomicOp

theorem keeping_opAcas16 {a : LArgs} : Keeping (opAcas16 a c s) :=
  have h : Keeping (atomicOp .cas 16 a ((destOf a.dst).toList ++ (destOf (nextReg a.dst)).toList) (fun r => pairValue r a.index)
      (fun r => pairValue r a.dst) c s) := keeping_atomicOp
  ⟨h.act, h.leave⟩

theorem keeping_opTld {a : LArgs} : Keeping (opTld a c s) := by
  unfold opTld
  dsimp only
  split
  · exact ⟨id, id⟩
  · exact ⟨inv_loadTile, id⟩

theorem keeping_opTldh {a : LArgs} : Keeping (opTldh a c s) := by
  unfold opTldh
  dsimp only
  split
  · exact ⟨id, id⟩
  · exact ⟨fun hu => inv_loadTile (inv_ite (inv_keepRecord hu) (inv_modArch (inv_keepRecord hu))), id⟩

theorem keeping_storeOp {reads : List Nat} {on : Bool} {align : Nat} {l : List (Nat × Nat)} {w : List (Nat × List Byte)} :
    Keeping (storeOp reads on align l w c s) := by
  unfold storeOp
  dsimp only
  split
  · exact ⟨id, id⟩
  · exact ⟨inv_withhold, id⟩

theorem keeping_opTst {a : STArgs} : Keeping (opTst a c s) := by
  unfold opTst
  dsimp only
  split
  · exact ⟨id, id⟩
  · exact ⟨inv_withhold, id⟩

theorem keeping_opTsth {a : STArgs} : Keeping (opTsth a c s) := by
  unfold opTsth
  dsimp only
  split
  · exact ⟨id, id⟩
  · exact ⟨fun hu => inv_withhold (inv_keepRecord hu), id⟩

theorem keeping_opAppend {a : STArgs} : Keeping (opAppend a c s) := by
  unfold opAppend
  dsimp only
  split
  · exact ⟨id, id⟩
  · split
    · exact ⟨id, id⟩
    · exact ⟨fun hu => inv_withhold (inv_issueRead hu), id⟩

/-! ### The tile and hallmark operations -/

theorem keeping_opTdef {a : TArgs} : Keeping (opTdef a c s) := by
  unfold opTdef
  dsimp only
  split
  · exact ⟨id, id⟩
  · split
    · exact ⟨id, id⟩
    · exact ⟨fun hu => inv_modArch (inv_issueRead hu), id⟩

theorem keeping_transformOp {a : TArgs} {reads : List Nat} {illegal clash : Bool} {names : List Named} {dst : TileRef}
    {kind : State → TransferKind} {moves : List Move} : Keeping (transformOp a reads illegal clash names dst kind moves c s) := by
  unfold transformOp
  dsimp only
  split
  · exact ⟨id, id⟩
  · exact ⟨inv_startTransfer, id⟩

theorem keeping_opTexp {a : TArgs} : Keeping (opTexp a c s) := by
  unfold opTexp
  dsimp only
  split
  · exact ⟨id, id⟩
  · exact ⟨inv_startTransfer, id⟩

theorem keeping_opTcmp {a : TArgs} : Keeping (opTcmp a c s) := by
  unfold opTcmp
  dsimp only
  split
  · exact ⟨id, id⟩
  · split
    · exact ⟨id, id⟩
    · exact ⟨inv_withhold, id⟩

theorem keeping_opTsrf {a : TArgs} : Keeping (opTsrf a c s) := by
  unfold opTsrf
  dsimp only
  split
  · exact ⟨id, id⟩
  · exact ⟨inv_withhold, id⟩

theorem keeping_opPhase {a : TArgs} : Keeping (opPhase a c s) :=
  ⟨fun hu => inv_modCtx (inv_modCore (inv_dropLines (inv_pushAll hu))), id⟩

theorem keeping_hmMutation {a : TArgs} {reads : List Nat} {l : List (Port × Role × Nat × Nat × Nat)} {f : State → Act} :
    Keeping (hmMutation a reads l f c s) := by
  unfold hmMutation
  dsimp only
  split
  · exact ⟨id, id⟩
  · exact ⟨inv_withhold, id⟩

theorem keeping_opHmget {a : TArgs} : Keeping (opHmget a c s) := by
  unfold opHmget
  dsimp only
  split
  · exact ⟨id, id⟩
  · exact ⟨fun hu => inv_startTransfer (inv_look (inv_issueRead hu)), id⟩

theorem keeping_opHmswap {a : TArgs} : Keeping (opHmswap a c s) := by
  unfold opHmswap
  dsimp only
  split
  · exact ⟨id, id⟩
  · exact ⟨fun hu => inv_withhold (inv_startWithheld hu), id⟩

theorem keeping_opHmcopy {a : TArgs} : Keeping (opHmcopy a c s) := by
  unfold opHmcopy
  dsimp only
  split
  · exact ⟨id, id⟩
  · exact ⟨inv_withhold, id⟩

theorem keeping_hmstatOp {a : TArgs} {reads : List Nat} {traps : List Cause} {waits : Option FreezeCause} {what : State → ReadWhat}
    {before : State → State} (hb : ∀ {u}, MemoryInv u → MemoryInv (before u)) :
    Keeping (hmstatOp a reads traps waits what before c s) := by
  unfold hmstatOp
  dsimp only
  split
  · exact ⟨id, id⟩
  · exact ⟨fun hu => inv_startRead (hb hu), id⟩

/-! ### The system slot -/

theorem keeping_withheldY {a : YArgs} {srcs : List Port} {always enabled : State → Nat → List Cause} {what : State → Nat → Act}
    {pins : State → Nat → List (Nat × Nat × Nat)} : Keeping (withheldY a srcs always enabled what pins c s) := by
  unfold withheldY
  dsimp only
  split
  · exact ⟨id, id⟩
  · exact ⟨inv_withhold, id⟩

theorem keeping_claspOp {a : YArgs} {srcs : List Port} {more : State → Nat → List Cause} {what : State → Nat → Act} :
    Keeping (claspOp a srcs more what c s) := by
  unfold claspOp
  exact keeping_withheldY

theorem keeping_opCtry {a : YArgs} : Keeping (opCtry a c s) := by
  unfold opCtry
  dsimp only
  split
  · exact ⟨id, id⟩
  · exact ⟨fun hu => inv_withhold (inv_startWithheld hu), id⟩

theorem keeping_opMark {a : YArgs} : Keeping (opMark a c s) := by
  refine ⟨fun {u} hu => ?_, id⟩
  unfold opMark
  dsimp only
  split
  · exact inv_driftRecord hu
  · exact hu

theorem keeping_opWait {a : YArgs} : Keeping (opWait a c s) := by
  refine ⟨id, fun {u} hu => ?_⟩
  unfold opWait
  dsimp only
  split
  · exact inv_leaveWait hu
  · exact hu

theorem keeping_opYield {a : YArgs} : Keeping (opYield a c s) := by
  refine ⟨id, fun {u} hu => ?_⟩
  unfold opYield
  dsimp only
  split
  · exact inv_leaveYield hu
  · exact hu

theorem keeping_opDone {a : YArgs} : Keeping (opDone a c s) := by
  refine ⟨id, fun {u} hu => ?_⟩
  unfold opDone
  dsimp only
  split
  · exact inv_leaveDone hu
  · exact hu

theorem keeping_opPost {a : YArgs} : Keeping (opPost a c s) := by
  unfold opPost
  dsimp only
  split
  · exact ⟨id, id⟩
  · exact ⟨fun hu => inv_withhold (inv_issueRead hu), id⟩

theorem keeping_opChsend {a : YArgs} : Keeping (opChsend a c s) := by
  unfold opChsend
  dsimp only
  split
  · exact ⟨id, id⟩
  · exact ⟨fun hu => inv_withhold (inv_seeChannel hu), id⟩

theorem keeping_opChrecv {a : YArgs} : Keeping (opChrecv a c s) := by
  unfold opChrecv
  dsimp only
  split
  · exact ⟨id, id⟩
  · exact ⟨fun hu => inv_startTransfer (inv_seeChannel hu), id⟩

/-! ### The matrix slot -/

theorem keeping_opMmode {a : MArgs} : Keeping (opMmode a c s) := by
  refine ⟨fun {u} hu => ?_, id⟩
  unfold opMmode
  dsimp only
  split <;> exact hu

theorem keeping_opMdrain {a : MArgs} : Keeping (opMdrain a c s) :=
  ⟨fun hu => inv_ite (inv_modArray (inv_withhold hu)) (inv_withhold hu), id⟩

theorem keeping_opMcombine {a : MArgs} : Keeping (opMcombine a c s) := ⟨fun hu => inv_modArray (inv_withhold hu), id⟩

theorem keeping_opMresolve {a : MArgs} : Keeping (opMresolve a c s) := ⟨fun hu => inv_modArray (inv_withhold (inv_seeLines hu)), id⟩

theorem keeping_opMpush {a : MArgs} : Keeping (opMpush a c s) := ⟨fun hu => inv_modArray (inv_seeLines hu), id⟩

theorem keeping_opMrow {a : MArgs} : Keeping (opMrow a c s) := ⟨fun hu => inv_modArray (inv_seeLines hu), id⟩

/-! ### Every operation of a slot -/

theorem resultSlot_slotV : (u : VUnit) → resultSlot (slotV u) = true
  | .a => rfl
  | .b => rfl

/-- No operation of a slot leaves the memory out of its form (R41, R338). -/
theorem keeping_of_slotOp {i : Instr} {f : OpFn} (hf : slotOp i = some f) : Keeping (f c s) := by
  cases i with
  | add a | sub a | mul a | mulh a | mulhn a | neg a | abs a | min a | max a | minn a | maxn a | and a | or a | xor a
  | andn a | not a | shl a | shr a | sar a | rol a | clz a | ctz a | popc a | bext a | bins a | bswap a | cmpEq a | cmpNe a
  | cmpLt a | cmpLe a | cmpLtn a | cmpLen a | mov a | sel a | li a | lih a | lea a | fadd a | fsub a | fmul a | fma a
  | fnma a | fmin a | fmax a | fabs a | fneg a | fcmpEq a | fcmpNe a | fcmpLt a | fcmpLe a | fcmpUn a | fcvt a | fclass a
  | fdiv a | fsqrt a | frsqrt a | pand a | por a | pxor a | pandn a | pmov a | pmovLo a | pmovHi a | pany a | pall a | br a
  | jmp a | call a | ret a | loop a | getc a | setc a | xmov a | xperm a | xrot a | xshuf a | xbcast a | xzip a | xunzip a =>
    exact keeping_of_resultOnly (Effects.resultOnly_of_slotOp hf rfl rfl c s)
  | vadd a | vsub a | vmul a | vfma a | vfnma a | vmin a | vmax a | vabs a | vneg a | vcmpEq a | vcmpNe a | vcmpLt a
  | vcmpLe a | vcmpUn a | vsel a | vclass a | viadd a | visub a | vimul a | vimulh a | vand a | vor a | vxor a | vshl a
  | vshr a | vsar a | vimin a | vimax a | viminn a | vimaxn a | vicmpEq a | vicmpNe a | vicmpLt a | vicmpLe a | vicmpLtn a
  | vicmpLen a | vcvt a | vscale a | vdiv a | vsqrt a | vrsqrt a | vrcp a | vexp2 a | vlog2 a | vtanh a | vsigm a | vsum a
  | vrmax a | vrmin a | vbcast a | vmov a | vlane a | vins a | viota a | vsig a | vsigFin a =>
    exact keeping_of_resultOnly (Effects.resultOnly_of_slotOp hf (Progress.unitSlot_eq a.unit) (resultSlot_slotV a.unit) c s)
  | mmode a =>
    cases hf
    exact keeping_opMmode
  | mpush a =>
    cases hf
    exact keeping_opMpush
  | mrow a =>
    cases hf
    exact keeping_opMrow
  | mbeat a | mclear a | mtag a =>
    cases hf
    exact ⟨inv_modArray, id⟩
  | mdrain a =>
    cases hf
    exact keeping_opMdrain
  | mbinv a =>
    cases hf
    exact ⟨inv_withhold, id⟩
  | mresolve a =>
    cases hf
    exact keeping_opMresolve
  | mcombine a =>
    cases hf
    exact keeping_opMcombine
  | ld a | vgath a =>
    cases hf
    exact keeping_loadOp
  | vld a =>
    cases hf
    exact keeping_opVld
  | tld a =>
    cases hf
    exact keeping_opTld
  | tldh a =>
    cases hf
    exact keeping_opTldh
  | pref a =>
    cases hf
    exact keeping_opPref
  | aadd a | aand a | aor a | axor a | amin a | amax a | aminn a | amaxn a | aswap a | acas a =>
    cases hf
    exact keeping_atomicN
  | acas16 a =>
    cases hf
    exact keeping_opAcas16
  | st8 a | st16 a | st32 a | st64 a | vst8 a | vst16 a | vst32 a | vst64 a | vscat8 a | vscat16 a | vscat32 a | vscat64 a =>
    cases hf
    exact keeping_storeOp
  | tst a =>
    cases hf
    exact keeping_opTst
  | tsth a =>
    cases hf
    exact keeping_opTsth
  | append a =>
    cases hf
    exact keeping_opAppend
  | tdef a =>
    cases hf
    exact keeping_opTdef
  | tcopy a | ttrans a | tconv a | tfill a =>
    cases hf
    exact keeping_transformOp
  | texp a =>
    cases hf
    exact keeping_opTexp
  | tcmp a =>
    cases hf
    exact keeping_opTcmp
  | tsrf a =>
    cases hf
    exact keeping_opTsrf
  | phase a =>
    cases hf
    exact keeping_opPhase
  | hmput a | hmnode a | hmhold a | hmdrop a =>
    cases hf
    exact keeping_hmMutation
  | hmget a =>
    cases hf
    exact keeping_opHmget
  | hmswap a =>
    cases hf
    exact keeping_opHmswap
  | hmcopy a =>
    cases hf
    exact keeping_opHmcopy
  | hmstatDirectory a =>
    cases hf
    exact keeping_hmstatOp inv_issueRead
  | hmstatLineTag a | hmstatFree a =>
    cases hf
    exact keeping_hmstatOp id
  | fence a | cancelInstr a | tlbinv a | qset a =>
    cases hf
    exact keeping_withheldY
  | sig a | spawn a | epupd a | epcfg a | eret a =>
    cases hf
    dsimp only [opSig, opSpawn, opEpupd, opEpcfg, opEret]
    exact keeping_withheldY
  | cbind a | cacq a | crel a =>
    cases hf
    dsimp only [opCbind, opCacq, opCrel]
    exact keeping_claspOp
  | ctry a =>
    cases hf
    exact keeping_opCtry
  | wait a =>
    cases hf
    exact keeping_opWait
  | yield a =>
    cases hf
    exact keeping_opYield
  | mark a =>
    cases hf
    exact keeping_opMark
  | done a =>
    cases hf
    exact keeping_opDone
  | post a =>
    cases hf
    exact keeping_opPost
  | chsend a =>
    cases hf
    exact keeping_opChsend
  | chrecv a =>
    cases hf
    exact keeping_opChrecv
  | eplook a | trap a =>
    cases hf
    exact ⟨id, id⟩
  | _ => cases hf

end Sys2Proof.Canonical
end

section
/-! SUPPORT. The memory's canonical form under the issue of a bundle, under every event and under a step (log 1). -/
namespace Sys2Proof.Canonical
open Sys2Proof Sys2Proof.Machine Sys2Proof.Claims Sys2Proof.Progress Sys2Proof.Lone

-- Many of this section's proofs are replayed at once otherwise, each on a stack of its own.
set_option Elab.async false

variable {s t : State}

/-! ### The issue of a bundle -/

theorem inv_applyOp {c : Nat} {o : Op} (ho : Keeping o) (h : MemoryInv s) : MemoryInv (applyOp c s o) := ho.act (inv_modArch h)

theorem inv_applyOps {c : Nat} {l : List Op} (hl : ∀ o ∈ l, Keeping o) (h : MemoryInv s) : MemoryInv (l.foldl (applyOp c) s) := by
  induction l generalizing s with
  | nil => exact h
  | cons o r ih =>
    obtain ⟨ho, hr⟩ := List.forall_mem_cons.mp hl
    exact ih hr (inv_applyOp ho h)

theorem inv_leaveOps {l : List Op} (hl : ∀ o ∈ l, Keeping o) (h : MemoryInv s) : MemoryInv (l.foldl (fun s o => o.leave s) s) := by
  induction l generalizing s with
  | nil => exact h
  | cons o r ih =>
    obtain ⟨ho, hr⟩ := List.forall_mem_cons.mp hl
    exact ih hr (ho.leave h)

theorem inv_issueBundle {c : Nat} {x : Header} {fs : List OpFn} (hf : ∀ f ∈ fs, ∀ u, Keeping (f c u)) (h : MemoryInv s) :
    MemoryInv (issueBundle c x fs s) := by
  unfold issueBundle
  dsimp only
  split
  · exact inv_freezeNow h
  · split
    · exact inv_bundleTrap h
    · generalize hu : (if x.ckpt then checkpoint (endFreeze s c) c (s.ctx c).pc else endFreeze s c) = u
      have hu : MemoryInv u := hu ▸ inv_ite (inv_checkpoint (inv_endFreeze h)) (inv_endFreeze h)
      have ho : ∀ o ∈ fs.map fun f => f c u, Keeping o := by
        intro o ho
        obtain ⟨f, hm, rfl⟩ := List.mem_map.mp ho
        exact hf f hm u
      exact inv_leaveOps ho (inv_finishBundle (inv_applyOps ho hu))

theorem keeping_illegalOp (k : Slot) (c : Nat) (u : State) : Keeping (illegalOp k c u) := ⟨id, id⟩

theorem keeping_issued (i : Instr) (c : Nat) (u : State) : Keeping (issued i c u) := by
  unfold issued
  cases hf : slotOp i with
  | none => exact keeping_illegalOp _ c u
  | some f =>
    dsimp only
    split
    · exact keeping_of_slotOp hf
    · exact keeping_illegalOp _ c u

theorem keeping_slotFn (p : Slot × SlotWord) (c : Nat) (u : State) : Keeping (slotFn p c u) := by
  obtain ⟨k, i | _⟩ := p
  · exact keeping_issued i c u
  · exact keeping_illegalOp k c u

theorem inv_issueDecoded {c : Nat} {b : Bundle} (h : MemoryInv s) : MemoryInv (issueDecoded s c b) := by
  refine inv_ite (inv_bundleTrap h) (inv_ite (inv_bundleTrap h) (inv_issueBundle ?_ h))
  intro f hf u
  obtain ⟨p, -, rfl⟩ := List.mem_map.mp hf
  exact keeping_slotFn p c u

theorem inv_execBundleIssue {c : Nat} (h : MemoryInv s) (ht : execBundleIssue c s = .next t) : MemoryInv t := by
  refine next_inv ?_ ht
  split
  · exact h
  · split
    · exact inv_freezeNow h
    · exact h
    · split
      · exact inv_fetchTrap h
      · exact inv_issueDecoded (inv_update (inv_fetchLine h) rfl)

/-! ### Every instruction -/

theorem inv_issueAlone {i : Instr} {k : Slot} {f : OpFn} (hf : slotOp i = some f) (h : MemoryInv s)
    (ht : issueAlone i k f s = .next t) : MemoryInv t := by
  unfold issueAlone at ht
  split at ht
  · cases ht
  · refine next_inv (inv_issueBundle ?_ h) ht
    intro g hg u
    rw [List.mem_singleton.mp hg]
    split
    · exact keeping_of_slotOp hf
    · exact keeping_illegalOp k _ u

theorem inv_exec_event {i : Instr} (hi : slotOp i = none) (h : MemoryInv s) (ht : exec i s = .next t) : MemoryInv t := by
  cases i with
  | bundleIssue c => exact inv_execBundleIssue h ht
  | stallCycle c => exact inv_execStallCycle h ht
  | issueMerge k => exact inv_execIssueMerge h ht
  | resultLand c => exact inv_execResultLand h ht
  | loadDataArrive c err => exact inv_execLoadDataArrive h ht
  | atomicReleaseDeadline c => exact inv_execAtomicReleaseDeadline h ht
  | registerMissMicroTrap c port => exact inv_execRegisterMissMicroTrap h ht
  | trapDelivery c => exact inv_execTrapDelivery h ht
  | drain c => exact inv_execDrain h ht
  | l1Push k line => exact inv_execL1Push h ht
  | l1Drop k line => exact inv_execL1Drop h ht
  | atom c => exact inv_execAtom h ht
  | hand c => exact inv_execHand h ht
  | piece t n => exact inv_execPiece h ht
  | count t => exact inv_execCount h ht
  | host c => exact inv_execHost h ht
  | hm c => exact inv_execHm h ht
  | hmFaultTrap c => exact inv_execHmFaultTrap h ht
  | heapLineFree => exact inv_execHeapLineFree h ht
  | releaseWalkerDrop job => exact inv_execReleaseWalkerDrop h ht
  | walkerCounterAdd job => exact inv_execWalkerCounterAdd h ht
  | cbindPerform c => exact inv_execCbindPerform h ht
  | cacqLock c => exact inv_execCacqLock h ht
  | crelPerform c => exact inv_execCrelPerform h ht
  | ctryPerform c => exact inv_execCtryPerform h ht
  | fencePerform c => exact inv_execFencePerform h ht
  | hostFlushComplete c => exact inv_execHostFlushComplete h ht
  | sigPerform c => exact inv_execSigPerform h ht
  | spawnPerform c => exact inv_execSpawnPerform h ht
  | launchStart => exact inv_execLaunchStart h ht
  | postPerform c => exact inv_execPostPerform h ht
  | cancelPerform c => exact inv_execCancelPerform h ht
  | cancel => exact inv_execCancel h ht
  | eretPerform c => exact inv_execEretPerform h ht
  | tlbinvPerform c => exact inv_execTlbinvPerform h ht
  | qsetPerform c => exact inv_execQsetPerform h ht
  | tsrfPerform c => exact inv_execTsrfPerform h ht
  | predictorUpdateRelease c => exact inv_execPredictorUpdateRelease h ht
  | predictorBindRelease c => exact inv_execPredictorBindRelease h ht
  | hmcopyHmStep c => exact inv_execHmcopyHmStep h ht
  | mxTileWriteFormed c => exact inv_execMxTileWriteFormed h ht
  | beadDispatch c => exact inv_execBeadDispatch h ht
  | arbiterChoice c => exact inv_execArbiterChoice h ht
  | roundStart => exact inv_execRoundStart h ht
  | budgetOverrun c => exact inv_execBudgetOverrun h ht
  | waitWake n => exact inv_execWaitWake h ht
  | beadComplete n => exact inv_execBeadComplete h ht
  | forcedPreemption c => exact inv_execForcedPreemption h ht
  | worldSwitch k vf => exact inv_execWorldSwitch h ht
  | graphStart die job desc => exact inv_execGraphStart h ht
  | graphNodeComplete g j => exact inv_execGraphNodeComplete h ht
  | locketMessage n msg src => exact inv_execLocketMessage h ht
  | locketHandlerComplete n => exact inv_execLocketHandlerComplete h ht
  | handlerInstanceStart => exact inv_execHandlerInstanceStart h ht
  | debugStop c => exact inv_execDebugStop h ht
  | dbgresWrite addr => exact inv_execDbgresWrite h ht
  | rds q line => exact inv_execRds h ht
  | rdx q line => exact inv_execRdx h ht
  | upg q line => exact inv_execUpg h ht
  | wb a line => exact inv_execWb h ht
  | ce a line => exact inv_execCe h ht
  | fwds line => exact inv_execFwds h ht
  | fwdx line => exact inv_execFwdx h ht
  | inv a line => exact inv_execInv h ht
  | transactionComplete line => exact inv_execTransactionComplete h ht
  | agentLost a => exact inv_execAgentLost h ht
  | flitResend port => exact inv_execFlitResend h ht
  | pageWalk c va => exact inv_execPageWalk h ht
  | migratorEpoch a => exact inv_execMigratorEpoch h ht
  | pageMigrate a err => exact inv_execPageMigrate h ht
  | dcctlWrite stack val => exact inv_execDcctlWrite h ht
  | nearConversionDone stack => exact inv_execNearConversionDone h ht
  | refresh stack bank => exact inv_execRefresh h ht
  | hotRowCapture stack row => exact inv_execHotRowCapture h ht
  | refreshWindowEnd stack => exact inv_execRefreshWindowEnd h ht
  | heapInit a => exact inv_execHeapInit h ht
  | chsendHand c => exact inv_execChsendHand h ht
  | channelSlotWrite src => exact inv_execChannelSlotWrite h ht
  | channelFlush job ch => exact inv_execChannelFlush h ht
  | workEntryRun port n => exact inv_execWorkEntryRun h ht
  | workRunComplete port n => exact inv_execWorkRunComplete h ht
  | collectiveAbort job => exact inv_execCollectiveAbort h ht
  | abortMessage job agent => exact inv_execAbortMessage h ht
  | functionLevelReset vf => exact inv_execFunctionLevelReset h ht
  | moduleReset => exact inv_execModuleReset h ht
  | bringUpStep f m => exact inv_execBringUpStep h ht
  | mctlHalt on => exact inv_execMctlHalt h ht
  | mctlMigen on => exact inv_execMctlMigen h ht
  | resync => exact inv_execResync h ht
  | attestation => exact inv_execAttestation h ht
  | pwrAllowWrite watts => exact inv_execPwrAllowWrite h ht
  | powerGrantSend port watts => exact inv_execPowerGrantSend h ht
  | powerGrantReceive port watts => exact inv_execPowerGrantReceive h ht
  | operatingPointChange need => exact inv_execOperatingPointChange h ht
  | thermalLimit degrees => exact inv_execThermalLimit h ht
  | controlRegisterWrite c => exact inv_execControlRegisterWrite h ht
  | xpdataWrite c => exact inv_execXpdataWrite h ht
  | rqRegisterWrite c => exact inv_execRqRegisterWrite h ht
  | phaseSplitTakesEffect k => exact inv_execPhaseSplitTakesEffect h ht
  | l2Eviction a line err => exact inv_execL2Eviction h ht
  | scrub line err => exact inv_execScrub h ht
  | transformComplete t => exact inv_execTransformComplete h ht
  | recordCacheEviction die line => exact inv_execRecordCacheEviction h ht
  | _ => cases hi

/-- The canonical form is kept by what leads from one state to the next. -/
abbrev Keeps (f : State → Host.Outcome State Fault Refusal) : Prop := ∀ {s t}, MemoryInv s → f s = .next t → MemoryInv t

theorem keeps_exec (i : Instr) : Keeps (exec i) := by
  intro s t h ht
  cases hf : slotOp i with
  | none => exact inv_exec_event hf h ht
  | some f =>
    obtain ⟨k, hk⟩ := exists_slotOf hf
    exact inv_issueAlone hf h (exec_eq_issueAlone hf hk s ▸ ht)

/-! ### What moves on its own -/

theorem keeps_events {who : Actor} {l : List (State → Host.Outcome State Fault Refusal)} (h : ∀ f ∈ l, Keeps f) :
    ∀ e ∈ events who l, Keeps e.run := by
  intro e he
  obtain ⟨f, hf, rfl⟩ := List.mem_map.mp he
  exact h f hf

theorem keeps_map {α : Type} {l : List α} {f : α → State → Host.Outcome State Fault Refusal} (h : ∀ x, Keeps (f x)) :
    ∀ g ∈ l.map f, Keeps g := by
  intro g hg
  obtain ⟨x, -, rfl⟩ := List.mem_map.mp hg
  exact h x

theorem keeps_flatMap {α : Type} {l : List α} {f : α → List (State → Host.Outcome State Fault Refusal)}
    (h : ∀ x, ∀ g ∈ f x, Keeps g) : ∀ g ∈ l.flatMap f, Keeps g := by
  intro g hg
  obtain ⟨x, -, hg⟩ := List.mem_flatMap.mp hg
  exact h x g hg

theorem keeps_contextEvents (s : State) (c : Nat) : ∀ e ∈ contextEvents s c, Keeps e.run := by
  refine forward_append (keeps_events (forward_append ?_ (keeps_map fun _ => inv_execRegisterMissMicroTrap))) (keeps_events ?_)
  · simp only [List.forall_mem_cons]
    exact ⟨inv_execXpdataWrite, inv_execRqRegisterWrite, inv_execControlRegisterWrite, inv_execAtomicReleaseDeadline,
      inv_execResultLand, inv_execTrapDelivery, inv_execHmFaultTrap, inv_execBudgetOverrun, inv_execDebugStop,
      inv_execForcedPreemption, inv_execHostFlushComplete, nofun⟩
  · simp only [List.forall_mem_cons]
    exact ⟨inv_execLoadDataArrive, nofun⟩

theorem keeps_queueEvents (s : State) (c : Nat) : ∀ e ∈ queueEvents s c, Keeps e.run := by
  refine keeps_events ?_
  simp only [List.forall_mem_cons]
  exact ⟨inv_execDrain, inv_execAtom, inv_execHost, inv_execHand, inv_execHm, inv_execHmcopyHmStep, inv_execCbindPerform,
    inv_execCacqLock, inv_execCrelPerform, inv_execCtryPerform, inv_execFencePerform, inv_execSigPerform,
    inv_execSpawnPerform, inv_execPostPerform, inv_execCancelPerform, inv_execEretPerform, inv_execTlbinvPerform,
    inv_execQsetPerform, inv_execTsrfPerform, inv_execPredictorUpdateRelease, inv_execPredictorBindRelease,
    inv_execChsendHand, inv_execMxTileWriteFormed, nofun⟩

theorem keeps_transferEvents (s : State) : ∀ e ∈ transferEvents s, Keeps e.run := by
  intro e he
  obtain ⟨x, -, he⟩ := List.mem_flatMap.mp he
  refine keeps_events (forward_append (forward_append (keeps_map fun _ => inv_execPiece) ?_) ?_) e he
  · simp only [List.forall_mem_cons]
    exact ⟨inv_execTransformComplete, inv_execCount, inv_execChannelSlotWrite, nofun⟩
  · intro f hf
    split at hf
    · rw [List.mem_singleton.mp hf]
      exact inv_execChannelFlush
    · cases hf

theorem keeps_hubEvents (s : State) : ∀ e ∈ hubEvents s, Keeps e.run := by
  refine keeps_events ?_
  repeat' refine forward_append ?_ ?_
  · simp only [List.forall_mem_cons]
    exact ⟨inv_execRoundStart, inv_execCancel, inv_execLaunchStart, inv_execHandlerInstanceStart, inv_execHeapLineFree, nofun⟩
  · exact keeps_map fun _ => inv_execBeadComplete
  · exact keeps_map fun _ => inv_execLocketHandlerComplete
  · exact keeps_map fun _ => inv_execWaitWake
  · exact keeps_map fun _ => inv_execLocketMessage
  · exact keeps_flatMap fun _ => keeps_map fun _ => inv_execGraphNodeComplete
  · exact keeps_map fun _ => inv_execReleaseWalkerDrop
  · exact keeps_map fun _ => inv_execWalkerCounterAdd
  · exact keeps_map fun _ => inv_execCollectiveAbort
  · refine keeps_flatMap fun _ => ?_
    simp only [List.forall_mem_cons]
    exact ⟨inv_execWorkEntryRun, inv_execWorkRunComplete, nofun⟩
  · exact keeps_map fun _ => inv_execBeadDispatch
  · exact keeps_map fun _ => inv_execHeapInit
  · exact keeps_map fun _ => inv_execNearConversionDone
  · exact keeps_map fun _ => inv_execPageMigrate

theorem keeps_choiceEvents : ∀ e ∈ choiceEvents, Keeps e.run := keeps_events (keeps_map fun _ => inv_execArbiterChoice)

theorem keeps_issueEvents (s : State) : ∀ e ∈ issueEvents s, Keeps e.run := by
  intro e he
  obtain ⟨⟨k, x⟩, -, he⟩ := List.mem_flatMap.mp he
  refine forward_append (forward_append (keeps_events ?_) (keeps_events ?_)) (keeps_events ?_) e he
  · simp only [List.forall_mem_cons]
    exact ⟨inv_execStallCycle, inv_execBundleIssue, nofun⟩
  · simp only [List.forall_mem_cons]
    exact ⟨inv_execStallCycle, inv_execBundleIssue, nofun⟩
  · simp only [List.forall_mem_cons]
    exact ⟨inv_execIssueMerge, nofun⟩

theorem keeps_agenda (s : State) : ∀ e ∈ agenda s, Keeps e.run := by
  refine forward_append (forward_append (forward_append (forward_append ?_ (keeps_transferEvents s)) (keeps_hubEvents s))
    keeps_choiceEvents) ?_
  · intro e he
    obtain ⟨⟨c, x⟩, -, he⟩ := List.mem_flatMap.mp he
    exact forward_append (keeps_contextEvents s c) (keeps_queueEvents s c) e he
  · intro e he
    exact keeps_issueEvents s e (mem_of_mem_rotateLeft he)

/-! ### A step -/

theorem inv_credit {who : Actor} (h : MemoryInv t) : MemoryInv (credit s who t) := by
  unfold credit
  split
  · exact h
  · exact inv_ite h (inv_modMgmt h)

theorem keeps_take {e : Event} (he : Keeps e.run) : Keeps e.take := by
  intro s t h ht
  unfold Event.take at ht
  split at ht
  · exact next_inv (inv_credit (he h ‹_›)) ht
  · cases ht
  · cases ht

theorem keeps_moveAlone : Keeps moveAlone := by
  intro s t h ht
  unfold moveAlone at ht
  split at ht
  · exact inv_execBringUpStep h ht
  · split at ht
    · exact keeps_take (keeps_agenda s _ (List.mem_of_find?_eq_some ‹_›)) h ht
    · exact next_inv h ht

theorem inv_moveNext {l : List Instr} (h : MemoryInv s) (ht : moveNext s l = .next t) : MemoryInv t := by
  cases l with
  | nil => exact keeps_moveAlone h ht
  | cons i r =>
    have hr : MemoryInv { s with script := r } := h
    exact keeps_take (e := ⟨actorOf s i, exec i⟩) (keeps_exec i) hr ht

/-- Settles O58: every function that a step applies to the state keeps the form, down to the writes of memory, which keep the
addresses rising and list no value that an unlisted byte has (log 1). -/
theorem memoryInvStep : Obligations.MemoryInvStep := by
  intro s t h ht
  unfold step at ht
  split at ht
  · exact next_inv (inv_settleDue (inv_moveNext (inv_expire (inv_tick h)) ‹_›)) ht
  · cases ht
  · cases ht

end Sys2Proof.Canonical
end
